-- ==== Sys2Proof/Word.lean ====
section
/-! DEFINITION. The word types of the model: a byte and the words the manual gives in bits (R3). -/

namespace Sys2Proof

/-- One byte of a packet, a record or a memory. -/
abbrev Byte := BitVec 8

/-- A 32-bit register, index register or binary32 value. -/
abbrev Word := BitVec 32

/-- A 64-bit register, key or attribute word. -/
abbrev DWord := BitVec 64

/-- A string of bytes, lowest address first. -/
abbrev Bytes := List Byte

end Sys2Proof
end

