-- ==== Sys2Proof/Syntax.lean ====
section
/-! DEFINITION. The commands the block takes: one constructor of Instr for each row of spec/opcode_table.json, and the
plain records its operands come in. -/

namespace Sys2Proof

/-- A command packet as a port's host port or the management port receives it (R53): who sent it, its header fields, and
the bytes after the header. The opcode is the row's own. -/
structure Pkt where
  /-- 0 to 7: a PCIe port; 8: the management port (R367). -/
  access : Nat
  /-- Command stream 0 to 3 of the port; on the management port the MCTP source endpoint (R369). -/
  stream : Nat
  archLevel : Nat
  /-- HDR_FLAGS: bit 0 NO_REPLY_ON_OK, 1 FENCE, 2 REALTIME, 7:3 growth (R53). -/
  flags : Nat
  pktLen : Nat
  /-- Header bytes 6–7, RSV. -/
  rsv : Nat
  tag : Nat
  handle : Nat
  deadline : Nat
  seq : Nat
  /-- Header bytes 24–31, growth field. -/
  growth : Nat
  params : Bytes
  deriving DecidableEq, Repr

/-- A write the host made to its own memory, visible before the block's next read of it (R49, R51). -/
structure HostWrite where
  addr : Nat
  data : Bytes
  deriving DecidableEq, Repr

/-- The CTRL slot's fields (R215). -/
structure CtrlOp where
  guard : Nat
  lreg : Nat
  xreg : Nat
  target : Nat
  count : Nat
  deriving DecidableEq, Repr

/-- The ADDR slot's fields, with the bundle's IMM (R214, R216's Address operations table). -/
structure AddrOp where
  guard : Nat
  d : Nat
  s1 : Nat
  s2 : Nat
  immen : Bool
  aux : Nat
  imm : Nat
  deriving DecidableEq, Repr

/-- A MOVE slot's fields (R217). -/
structure MoveOp where
  side : Nat
  guard : Nat
  ring : Nat
  areg : Nat
  xreg : Nat
  xen : Bool
  len : Nat
  deriving DecidableEq, Repr

/-- The ARRAY slot's fields (R218). -/
structure ArrayOp where
  guard : Nat
  fmtA : Nat
  fmtB : Nat
  group : Nat
  tile : Nat
  ringA : Nat
  ringB : Nat
  steps : Nat
  xsteps : Nat
  xsEn : Bool
  accExp : Nat
  accAuto : Bool
  outlier : Bool
  ringSA : Nat
  ringSB : Nat
  ringOA : Nat
  ringOB : Nat
  relA : Bool
  relB : Bool
  split : Bool
  splitId : Nat
  list : Nat
  deriving DecidableEq, Repr

/-- The EPI slot's fields, with the bundle's IMM (R219). -/
structure EpiOp where
  guard : Nat
  tile : Nat
  odesc : Nat
  xrow : Nat
  xcol : Nat
  alphaMode : Nat
  alphaRing : Nat
  biasMode : Nat
  biasRing : Nat
  rowoffMode : Nat
  rowoffRing : Nat
  act : Nat
  actP : Nat
  split : Bool
  splitId : Nat
  imm : Nat
  deriving DecidableEq, Repr

/-- The SEL slot's fields (R220). -/
structure SelOp where
  guard : Nat
  k : Nat
  xk : Nat
  ringOut : Nat
  exp : Bool
  split : Bool
  splitId : Nat
  deriving DecidableEq, Repr

/-- A unit's operation as it is issued: the slot's fields, and whether the unit will meet an uncorrectable error in what
it reads (R208), which is no field of the slot but the memory's doing. -/
structure Issuing (Slot : Type) where
  op : Slot
  bad : Bool
  deriving DecidableEq, Repr

/-- One kernel operation: the slot it stands in and its operation code (R214 to R220). -/
inductive KOp where
  | ctrl (op : Nat) (o : CtrlOp)
  | addr (op : Nat) (o : AddrOp)
  | move (op : Nat) (o : MoveOp)
  | array (op : Nat) (o : ArrayOp)
  | epi (op : Nat) (o : EpiOp)
  | sel (op : Nat) (o : SelOp)
  deriving DecidableEq, Repr

/-- The fabric packet header of R321, less TYPE and LENGTH. -/
structure FabHdr where
  cls : Nat
  mcast : Bool
  retry : Bool
  poison : Bool
  src : Nat
  dst : Nat
  pairSeq : Nat
  coord : Nat
  query : Nat
  admitTick : Nat
  deadline : Nat
  deriving DecidableEq, Repr

/-- The WALK packet's own fields and payload (R105, R322). -/
structure WalkMsg where
  index : Nat
  k : Nat
  width : Nat
  budget : Nat
  strict : Bool
  degrade : Bool
  escalation : Nat
  exact : Nat
  sketch : Bytes
  predicate : Bytes
  tagSet : Bytes
  /-- The converted query in INT4 block-scale form (R105). -/
  vector : Bytes
  deriving DecidableEq, Repr

/-- A result entry of a partial list (R140). -/
structure ListEntry where
  key : Nat
  score : Word
  exact : Bool
  side : Bool
  dup : Bool
  /-- SHARD field: member and the marks of the shard's list (R140). -/
  shardField : Nat
  deriving DecidableEq, Repr

/-- The PARTIAL_LIST packet's fields and entries (R134, R323). -/
structure ListMsg where
  shard : Nat
  cause : Nat
  escalated : Bool
  cheaper : Bool
  tied : Bool
  tier : Nat
  candidates : Nat
  exactScores : Nat
  entries : List ListEntry
  deriving DecidableEq, Repr

/-- The marker flit's content (R28, R333). -/
structure Marker where
  tick : Nat
  /-- Units of 5 µs. -/
  period : Nat
  /-- Units of 5 µs. -/
  guard : Nat
  leader : Nat
  hops : Nat
  paced : Bool
  delay : Nat
  deriving DecidableEq, Repr

/-- A live link as a member advertises it (R317): its two ends, each a member and that member's link number, and whether it runs at half width
(DEDUCED, log entry 36). -/
structure LiveLink where
  a : Nat
  aLink : Nat
  b : Nat
  bLink : Nat
  half : Bool
  deriving DecidableEq, Repr

/-- What one start step found (R355, R357): did it pass at module level, how many attempts it took, which units failed in it (laid out as UNITS_OUT),
its duration in microseconds and its step-specific cause code. -/
structure StepFound where
  pass : Bool
  attempts : Nat
  unitsOut : Nat
  micros : Nat
  detail : Nat
  deriving DecidableEq, Repr

/-- What S7 found on one link that trained (R330): its lanes, the flit latency, and what the partner presents. -/
structure LinkFound where
  link : Nat
  lanes : Nat
  latency : Nat
  hallId : Nat
  member : Nat
  partnerLink : Nat
  certOk : Bool
  deriving DecidableEq, Repr

/-- What the steps of a start find, S0 first (R354, R355). A start whose list ends before S10 stands in the first step that has no entry. -/
structure StartFound where
  steps : List StepFound
  /-- Which firmware slots pass both signatures in S2: bit 0 A, bit 1 B. -/
  slotsPass : Nat
  /-- Rate code at which each stack trains in S5; 0 not at all (R357). -/
  rates : List Nat
  /-- Throttle threshold that each stack reports, °C (R303); none for no change. -/
  throttle : List Nat
  /-- Rows mapped to spare rows: the step (4 SRAM, 6 stack), the unit, the row. -/
  rows : List (Nat × Nat × Nat)
  /-- Aging monitors as S4 reads them (R361). -/
  aging : List (Nat × Nat)
  links : List LinkFound
  /-- The last tick marker accepted before S10: its link, content and boundary error in ns (R16). -/
  marker : Option (Nat × Marker × Int)
  /-- Host link as S9 trains it: rate code and width of HL_LINK, and bit 0 flit mode, bit 1 CXL.io, bit 2 CXL.cache (R340). -/
  hostRate : Nat
  hostWidth : Nat
  hostMode : Nat
  deriving DecidableEq, Repr

/-- The 209 commands of the opcode table. -/
inductive Instr where
  -- command packets: session
  | pad (q : Pkt)
  | negotiate (q : Pkt)
  | identify (q : Pkt)
  | nopEcho (q : Pkt)
  | getTick (q : Pkt)
  | redeliver (q : Pkt)
  -- channels
  | channelCreate (q : Pkt)
  | channelDestroy (q : Pkt)
  | channelStatus (q : Pkt)
  | channelRebind (q : Pkt)
  -- search and index
  | search (q : Pkt)
  | searchBatch (q : Pkt)
  | searchEncoded (q : Pkt)
  | indexDefine (q : Pkt)
  | insert (q : Pkt)
  | delete (q : Pkt)
  | merge (q : Pkt)
  | bulkLoad (q : Pkt)
  | indexStat (q : Pkt)
  -- tables
  | tableDefine (q : Pkt)
  | gather (q : Pkt)
  | replaceRows (q : Pkt)
  | addRows (q : Pkt)
  | optimiseRows (q : Pkt)
  -- kernels
  | kernelLoad (q : Pkt)
  | kernelRun (q : Pkt)
  | kernelUnload (q : Pkt)
  -- memory
  | objAlloc (q : Pkt)
  | objFree (q : Pkt)
  | objPlace (q : Pkt)
  | prefetchPlan (q : Pkt)
  | regionRegister (q : Pkt)
  | regionRelease (q : Pkt)
  | objCopy (q : Pkt)
  | listMerge (q : Pkt)
  -- fabric
  | fabricStatus (q : Pkt)
  | fabricJoin (q : Pkt)
  | fabricLeave (q : Pkt)
  | linkControl (q : Pkt)
  -- settings, telemetry, security, firmware, control, maker
  | set (q : Pkt)
  | get (q : Pkt)
  | logRead (q : Pkt)
  | countersRead (q : Pkt)
  | alarmAck (q : Pkt)
  | roleAssume (q : Pkt)
  | roleDrop (q : Pkt)
  | attest (q : Pkt)
  | auditRead (q : Pkt)
  | fwStage (q : Pkt)
  | fwActivate (q : Pkt)
  | fwStatus (q : Pkt)
  | abort (q : Pkt)
  | testMode (q : Pkt)
  | fuseProgram (q : Pkt)
  | identityProvision (q : Pkt)
  | identityRotate (q : Pkt)
  | decommission (q : Pkt)
  -- kernel control slot, on cluster c
  | loop (c : Nat) (o : CtrlOp)
  | loopx (c : Nat) (o : CtrlOp)
  | branch (c : Nat) (o : CtrlOp)
  | brk (c : Nat) (o : CtrlOp)
  | wait (c : Nat) (o : CtrlOp)
  | phase (c : Nat) (o : CtrlOp)
  | kend (c : Nat) (o : CtrlOp)
  -- kernel address slot
  | aadd (c : Nat) (o : AddrOp)
  | aaddi (c : Nat) (o : AddrOp)
  | xadd (c : Nat) (o : AddrOp)
  | xsub (c : Nat) (o : AddrOp)
  | xshl (c : Nat) (o : AddrOp)
  | xshr (c : Nat) (o : AddrOp)
  | xsra (c : Nat) (o : AddrOp)
  | xcmp (c : Nat) (o : AddrOp)
  | xset (c : Nat) (o : AddrOp)
  | xgetl (c : Nat) (o : AddrOp)
  | pand (c : Nat) (o : AddrOp)
  | por (c : Nat) (o : AddrOp)
  | pnot (c : Nat) (o : AddrOp)
  -- kernel move slots
  | start (c : Nat) (o : MoveOp)
  | stop (c : Nat) (o : MoveOp)
  | release (c : Nat) (o : MoveOp)
  -- kernel array slot
  | mma (c : Nat) (o : Issuing ArrayOp)
  | binary (c : Nat) (o : Issuing ArrayOp)
  | lutBuild (c : Nat) (o : ArrayOp)
  | lutScan (c : Nat) (o : Issuing ArrayOp)
  | swap (c : Nat) (o : ArrayOp)
  -- kernel epilogue slot
  | drain (c : Nat) (o : Issuing EpiOp)
  | preloadTile (c : Nat) (o : EpiOp)
  | preloadRow (c : Nat) (o : EpiOp)
  -- kernel Crown slot
  | topk (c : Nat) (o : Issuing SelOp)
  | bottomk (c : Nat) (o : Issuing SelOp)
  | argmax (c : Nat) (o : Issuing SelOp)
  | argmin (c : Nat) (o : Issuing SelOp)
  | rowmax (c : Nat) (o : Issuing SelOp)
  | collect (c : Nat) (o : Issuing SelOp)
  -- host port
  | cmdStreamEnable (port stream value : Nat)
  | cmdStreamDrain (port stream value : Nat)
  | replyStreamEnable (port stream value : Nat)
  | replyStreamDisable (port stream value : Nat)
  | registerWrite (port offset size value : Nat)
  | msixUnmask (port vector : Nat)
  | snoopInvalidate (port line : Nat) (hw : List HostWrite)
  | tailPoll (port : Nat) (reply : Bool) (stream : Nat) (hw : List HostWrite)
  | streamFault (port stream cause : Nat) (tag : Nat)
  | reserveReplyRecord (port stream : Nat) (hw : List HostWrite)
  | apertureWrite (port requester : Nat) (memory : Bool) (offset : Nat) (data : Bytes)
  | apertureRead (port requester offset len : Nat)
  | perstNAssert (pin : Bool)
  | perstNDeassert (refclk : Bool)
  | functionLevelReset (port : Nat)
  | vfEnableClear
  | busMasterEnableClear (port : Nat) (d3 : Bool)
  | completionTimeout
  | hostRefclkLoss
  -- frame
  | preparationComplete (id : Nat)
  | auditEntryDurable (ok : Bool)
  | tickBoundary
  | admissionWaitExpiry (id : Nat)
  | spaceRelease
  | channelFree (slot : Nat)
  | cutOff
  | exactLimit
  | listLimit
  | jobStalled (job : Nat)
  -- walks, rescoring, maintenance
  | adjacencyBlockReturn (engine reg err : Nat)
  | walkSeed (walk : Nat)
  | tombstoneReadReturn (walk slot target err : Nat)
  | sideListScanPass (index shard : Nat)
  | sideListPassComplete (index shard : Nat) (bad : List Nat)
  | rescoring (walk : Nat) (bad : List Nat)
  | exactReadReturn (walk cand : Nat) (err : Nat)
  | exactReadsLate (walk : Nat)
  | mergeSlice (index shard : Nat)
  -- gathers, kernels, streams, pages
  | gatherRowReturn (cmd read : Nat) (err : Bool)
  | gatherRowLate (cmd read : Nat)
  | kernelPhaseStart (cluster : Nat)
  | ringSlotArrival (cluster ring gen : Nat) (err : Bool)
  | writeAck (cluster ring : Nat)
  | ringLate (cluster ring : Nat)
  | phaseDeclaredLate (cmd : Nat)
  | splitPartialArrival (home src tile : Nat)
  | keepHoldExpiry (cmd : Nat)
  | pageCopy (object page : Nat) (bad : List Nat)
  | pageFull (object page : Nat)
  | pageExpansion (object page : Nat) (write : Bool)
  | expansionWait (object page : Nat)
  | stackTempReport (stack temp : Nat)
  | stackSensorTimeout (stack : Nat)
  | patrolScrub (stack object page granule : Nat) (outcome : Nat)
  -- fabric packets
  | read (h : FabHdr) (tag addr granules : Nat)
  | readResp (h : FabHdr) (tag : Nat) (data : Bytes)
  | write (h : FabHdr) (addr : Nat) (data : Bytes)
  | atomicAddI32 (h : FabHdr) (addr : Nat) (data : Bytes)
  | atomicAddI64 (h : FabHdr) (addr : Nat) (data : Bytes)
  | atomicAddF32 (h : FabHdr) (addr : Nat) (data : Bytes)
  | atomicAddBf16 (h : FabHdr) (addr : Nat) (data : Bytes)
  | atomicSwap (h : FabHdr) (tag addr : Nat) (data : Bytes)
  | atomicCas (h : FabHdr) (tag addr : Nat) (data : Bytes)
  | rowAdd (h : FabHdr) (table row dfmt : Nat) (delta : Bytes)
  | rowStep (h : FabHdr) (table row dfmt : Nat) (block gradient : Bytes)
  | atomicResp (h : FabHdr) (tag : Nat) (data : Bytes)
  | ack (h : FabHdr) (upTo : Nat)
  | walk (h : FabHdr) (w : WalkMsg)
  | cancel (h : FabHdr) (index : Nat)
  | refused (h : FabHdr) (shard : Nat)
  | partialList (h : FabHdr) (l : ListMsg)
  | linkInfo (link : Nat) (live : List LiveLink)
  | join (link : Nat) (hallId member : Nat) (certOk : Bool)
  | badType (h : FabHdr) (code : Nat)
  | transitForward (h : FabHdr) (typ : Nat) (payload : Bytes) (members : List Nat)
  | pktResend (dst pairSeq : Nat)
  -- links, markers, tick reference
  | flitReplay (link : Nat)
  | markerFlit (link : Nat) (m : Marker) (errNs : Int)
  | linkControlFlit (link : Nat) (kind value : Nat)
  | leaderLost
  | linkLatencyMeasure (link ns : Nat)
  | tickRefEdge (offsetNs : Int)
  | tickRefLost
  | laneErrorReport (link lane : Nat) (failed : Bool)
  | linkTrained (link : Nat) (lanes : Nat) (latency : Nat) (hallId member partnerLink : Nat) (certOk : Bool)
  -- management
  | agingMonitorRead (readings : List (Nat × Nat))
  | telemetrySample (readings : List Nat)
  | controlBarSaturated
  | coalesceWindowClose (code subject : Nat)
  | lockoutEnd
  | mctpControl (endpoint : Nat) (msg : Bytes)
  | discardedMctpMessage (typ : Nat)
  | dynamicAddressAssignment (addr : Nat)
  | getVersion (via : Nat) (msg : Bytes)
  | getCapabilities (via : Nat) (msg : Bytes)
  | negotiateAlgorithms (via : Nat) (msg : Bytes)
  | getDigests (via : Nat) (msg : Bytes)
  | getCertificate (via : Nat) (msg : Bytes)
  | challenge (via : Nat) (msg : Bytes)
  | getMeasurements (via : Nat) (msg : Bytes)
  -- power and start
  | modEnRise (f : StartFound)
  | stepWatchdog (step : Nat) (f : StartFound)
  | modEnFall
  | modRstNLow
  | modRstNRise (f : StartFound)
  | vinRemoval
  | undervoltage
  | overvoltage
  | thermalTrip (unit : Nat)
  | fwActivateRestart (f : StartFound)
  | vinReturn (f : StartFound)
  | hostLinkUp (rate width : Nat) (flit cxlIo cxlCache : Bool)
  | busMasterEnableSet (port : Nat) (what : Nat)
  | cxlCacheDisabled
  | flashEraseEnd
  deriving DecidableEq, Repr

end Sys2Proof
end

