-- ==== Sys2Proof/Config.lean ====
section
/-! DEFINITION. The free values: what the manual leaves open although the machine goes on.
Every constant here is opaque: nothing can evaluate it, and a statement holds whatever it is.
The Nat argument `k` is the reading of State.free, a counter that each use advances (DESIGN CHOICE, log entry 4). -/

namespace Sys2Proof.Config

/-- A byte the manual does not fix (DESIGN CHOICE, log entry 4). -/
opaque freeByte : Nat → Byte
/-- A number the manual does not fix: a sub-tick time, a count of physical sectors, a telemetry reading (DESIGN CHOICE, log entry 4). -/
opaque freeNat : Nat → Nat
/-- A choice the manual leaves to the implementation (DESIGN CHOICE, log entry 4). -/
opaque freeBool : Nat → Bool
/-- Boundaries, beyond the first, for which a packet that is over is still tracked (R64, DESIGN CHOICE, log entry 28). -/
opaque trackedTicks : Nat
/-- The order of terms of a sum whose order is not fixed (R88, R98, R174): the i-th pick of use k (DESIGN CHOICE, log entry 5). -/
opaque pick : (k : Nat) → (i : Nat) → Nat
/-- Which NaN a floating result that is a NaN holds: the manual gives its bits nowhere; a function of the operands and of the use (DESIGN CHOICE, log entry 64). -/
opaque nanBits : (k a b : Nat) → Nat
/-- The 48-byte random nonce of a role challenge (R42). -/
opaque nonce : Nat → BitVec 384
/-- The 32-bit seed the security block draws when ROUND_SEED is 0 (R172). -/
opaque seed : Nat → BitVec 32
/-- The scaled value y = x / 0, as numerator and denominator less one, of a nonzero element under a scale that reads as 0 (R165, R171): the manual gives
no y (DESIGN CHOICE, log entry 84). -/
opaque overZero : (x : Word) → Int × Nat
/-- The value of an FP16 squared norm that is no finite number, in a key table entry that only a copy from outside can hold (R91, R129): the manual gives
none (DESIGN CHOICE, log entry 90). -/
opaque oddNorm : (code : Nat) → Word
/-- Where in the 2^-12 about its exact value an activation of codes 3 to 7 falls (R202, DESIGN CHOICE, log entry 6). -/
opaque activation : (code : Nat) → (v : Word) → Word
/-- Where in the 2^-12 about its exact value e^v as a Crown forms it falls (R241, DESIGN CHOICE, log entry 6). -/
opaque expF32 : (v : Word) → Word
/-- Does an RSA signature verify under the key with this digest (R41, R371)? (DESIGN CHOICE, log entry 7) -/
opaque rsaVerifies : (keyDigest message sig : Bytes) → Bool
/-- Does an SLH-DSA signature verify under the key with this digest (R41, R371)? (DESIGN CHOICE, log entry 7) -/
opaque slhVerifies : (keyDigest message sig : Bytes) → Bool
/-- A signature made with the device's own private key, which no interface returns (R378, DESIGN CHOICE, log entry 7). -/
opaque rsaSign : (keyDigest message : Bytes) → Bytes
/-- As rsaSign, for SLH-DSA (R378, DESIGN CHOICE, log entry 7). -/
opaque slhSign : (keyDigest message : Bytes) → Bytes
/-- The number of 4 KiB sectors the fulled form of a page needs (R293): any compression may be used (DESIGN CHOICE, log entry 8). -/
opaque fulledSectors : (page : Bytes) → Nat
/-- Can another member take a share of this many pages (R82, R287)? Only that member knows (DESIGN CHOICE, log entry 9). -/
opaque remoteTakes : (k member pages : Nat) → Bool
/-- What other members say of their shards of an index (R88, R158): question 0, does one hold an issued slot; 1, does one hold a live slot; 2, is the
projection all zero (DESIGN CHOICE, log entry 9). -/
opaque remoteSays : (k question index : Nat) → Bool
/-- Contents of the device's read-only code and of fuses that no rule gives: ROM digest, serial number, keys (PRESUMED, log entry 10). -/
opaque deviceBytes : (name : String) → (n : Nat) → Bytes
/-- The 12-bit number of an event that is no alarm (R385 gives numbers to alarms only; DESIGN CHOICE, log entry 4). -/
opaque eventCode : (name : String) → Nat
/-- What FUSE_PROGRAM's parameters name, whose layout R381 does not give: 0 repair fuses, 1 second key digest, 2 rollback count (PRESUMED, log entry 10). -/
opaque fuseTarget : (params : Bytes) → Nat
/-- The value FUSE_PROGRAM's parameters carry (PRESUMED, log entry 10). -/
opaque fuseValue : (params : Bytes) → Bytes
/-- The certificates that a maker's parameters carry, whose layout R381 does not give (PRESUMED, log entry 10). -/
opaque certificates : (params : Bytes) → Bytes × Bytes
/-- Where the element of a line of an operand stands among the elements of its ring slots: the order of lines and elements within an operand
is not given (R186, R218, DESIGN CHOICE, log entry 17). -/
opaque operandPos : (fmt lines k : Nat) → (line i : Nat) → Nat
/-- As operandPos, for the scale record of a line's block (DESIGN CHOICE, log entry 17). -/
opaque recordPos : (fmt lines k : Nat) → (line block : Nat) → Nat
/-- Elements that a codebook of a kernel's CB4 or CB2 operand covers, less one: the image has no field for it (R179, DESIGN CHOICE, log entry 17). -/
opaque codebookGroup : (image : Bytes) → (fmt : Nat) → Nat
/-- What a LUT_SCAN finds where no LUT_BUILD has come before it (R218, DESIGN CHOICE, log entry 17). -/
opaque noTable : (row group code : Nat) → Word
/-- Format of a product's outlier arrays, which no field of the image names: 0 E4M3, 1 E5M2, 2 INT8 (R176, DESIGN CHOICE, log entry 17). -/
opaque outlierFmt : (image : Bytes) → (list : Nat) → (activation : Bool) → Nat
/-- Digest of the identity key pair number k (R378). -/
opaque identityKey : Nat → BitVec 384

end Sys2Proof.Config
end

