-- ==== Sys2Proof/Machine/Bytes.lean ====
section
/-! DEFINITION. Little-endian fields of packets, records and registers (R3), bit ranges, and small list helpers. -/

namespace Sys2Proof.Machine

/-- The number a byte string spells, lowest byte first (R3). -/
def leVal : Bytes → Nat
  | [] => 0
  | b :: bs => b.toNat + 256 * leVal bs

/-- `n` bytes at offset `off`, zero beyond the end. -/
def slice (bs : Bytes) (off n : Nat) : Bytes :=
  let t := (bs.drop off).take n
  t ++ List.replicate (n - t.length) 0

/-- The little-endian field of `n` bytes at offset `off` (R3). -/
def fld (bs : Bytes) (off n : Nat) : Nat := leVal (slice bs off n)

/-- `v` as `n` bytes, little-endian, truncated to `n` bytes (R3). -/
def leBytes : (n : Nat) → (v : Nat) → Bytes
  | 0, _ => []
  | n + 1, v => BitVec.ofNat 8 v :: leBytes n (v / 256)

/-- Bits [hi:lo] of a number (R3). -/
def bits (v hi lo : Nat) : Nat := v / 2 ^ lo % 2 ^ (hi - lo + 1)

/-- Bit `i` of a number (R3). -/
def bit (v i : Nat) : Bool := v / 2 ^ i % 2 == 1

/-- `b` as a number shifted to bit `i`. -/
def flag (b : Bool) (i : Nat) : Nat := if b then 2 ^ i else 0

/-- `n` zero bytes, as RSV areas are written (R4). -/
def zeros (n : Nat) : Bytes := List.replicate n 0

/-- Are the `n` bytes at `off` all zero? -/
def zeroAt (bs : Bytes) (off n : Nat) : Bool := fld bs off n == 0

/-- Bit `k` of a bit map held in bytes: bit k mod 8 of byte k/8 (R85, R94, R102). -/
def mapBit (bs : Bytes) (k : Nat) : Bool := bit (fld bs (k / 8) 1) (k % 8)

/-- Bytes with bit `k` set to `v`. -/
def setMapBit (bs : Bytes) (k : Nat) (v : Bool) : Bytes :=
  bs.set (k / 8) (BitVec.ofNat 8 (let b := fld bs (k / 8) 1; if bit b (k % 8) == v then b else if v then b + 2 ^ (k % 8) else b - 2 ^ (k % 8)))

/-- Round up to a multiple of `m`. -/
def roundUp (n m : Nat) : Nat := (n + m - 1) / m * m

/-- Division rounded up. -/
def ceilDiv (n m : Nat) : Nat := (n + m - 1) / m

/-- Nibble `j` of packed 4-bit data: byte j/2, bits [3:0] for even j and [7:4] for odd j (R88, R89, R163). -/
def nibble (bs : Bytes) (j : Nat) : Nat := fld bs (j / 2) 1 / 16 ^ (j % 2) % 16

/-- A 4-bit number read as two's complement (R164). -/
def s4 (n : Nat) : Int := if n < 8 then n else (n : Int) - 16

/-- A 2-bit number read as two's complement (R164). -/
def s2 (n : Nat) : Int := if n < 2 then n else (n : Int) - 4

/-- An 8-bit number read as two's complement (R164). -/
def s8 (n : Nat) : Int := if n < 128 then n else (n : Int) - 256

/-- An n-bit number read as two's complement. -/
def sN (w n : Nat) : Int := if n < 2 ^ (w - 1) then n else (n : Int) - 2 ^ w

/-- Pack 4-bit codes two to a byte, even positions low (R163). -/
def packNibbles : List Nat → Bytes
  | [] => []
  | [a] => [BitVec.ofNat 8 (a % 16)]
  | a :: b :: rest => BitVec.ofNat 8 (a % 16 + 16 * (b % 16)) :: packNibbles rest

/-- Pack 2-bit codes four to a byte (R163). -/
def packPairs : List Nat → Bytes
  | a :: b :: c :: d :: rest => BitVec.ofNat 8 (a % 4 + 4 * (b % 4) + 16 * (c % 4) + 64 * (d % 4)) :: packPairs rest
  | [] => []
  | l => [BitVec.ofNat 8 (l.getD 0 0 % 4 + 4 * (l.getD 1 0 % 4) + 16 * (l.getD 2 0 % 4))]

/-- Pack bits eight to a byte, lowest first (R163). -/
def packBits (n : Nat) (f : Nat → Bool) : Bytes :=
  (List.range ((n + 7) / 8)).map fun i =>
    BitVec.ofNat 8 ((List.range 8).foldl (fun a k => a + (if 8 * i + k < n && f (8 * i + k) then 2 ^ k else 0)) 0)

/-- Count of ones among the low `w` bits. -/
def popcount (n w : Nat) : Nat := ((List.range w).filter fun i => bit n i).length

/-- Put a value at a key of an association list, replacing what stood there. -/
def assocPut {α : Type} (k : Nat) (v : α) : List (Nat × α) → List (Nat × α)
  | [] => [(k, v)]
  | (k', v') :: rest => if k' == k then (k, v) :: rest else (k', v') :: assocPut k v rest

/-- Take a key out of an association list. -/
def assocDel {α : Type} (k : Nat) (l : List (Nat × α)) : List (Nat × α) := l.filter fun p => p.1 != k

/-- The value at a key of an association list. -/
def assocGet {α : Type} (k : Nat) (l : List (Nat × α)) : Option α := l.lookup k

/-- Replace entry `i` of a list by what `f` makes of it. -/
def modifyAt {α : Type} (l : List α) (i : Nat) (f : α → α) : List α :=
  match l, i with
  | [], _ => []
  | a :: as, 0 => f a :: as
  | a :: as, i + 1 => a :: modifyAt as i f

/-- Apply `f` to every element that satisfies `p`. -/
def modifyIf {α : Type} (l : List α) (p : α → Bool) (f : α → α) : List α := l.map fun a => if p a then f a else a

/-- Insert into a list ordered by `lt`, after every element it does not precede (stable). -/
def insertBy {α : Type} (lt : α → α → Bool) (a : α) : List α → List α
  | [] => [a]
  | b :: bs => if lt a b then a :: b :: bs else b :: insertBy lt a bs

/-- Stable sort by `lt`. -/
def sortBy {α : Type} (lt : α → α → Bool) (l : List α) : List α := l.foldl (fun acc a => insertBy lt a acc) []

/-- Keep the first element of each key, in order. -/
def dedupBy {α : Type} (key : α → Nat) (l : List α) : List α :=
  (l.foldl (fun (acc : List Nat × List α) a => if acc.1.contains (key a) then acc else (key a :: acc.1, a :: acc.2)) ([], [])).2.reverse

/-- The least number from `i` on, within `n` tries, that satisfies `p`. -/
def findFrom (p : Nat → Bool) : (n i : Nat) → Option Nat
  | 0, _ => none
  | n + 1, i => if p i then some i else findFrom p n (i + 1)

/-- Greatest element by `key`, ties to the first. -/
def argmaxBy {α : Type} (key : α → Nat) (l : List α) : Option α :=
  l.foldl (fun best a => match best with | none => some a | some b => if key b < key a then some a else some b) none

/-- Saturating 64-bit counter (R185, R206). -/
def satAdd (a b : Nat) : Nat := min (a + b) (2 ^ 64 - 1)

end Sys2Proof.Machine
end

