-- ==== Sys2Proof/Machine/Memory.lean ====
section
/-! DEFINITION. Sparse byte memory in one canonical form: addresses strictly rising, no entry equal to what an unlisted
address reads as. Host memory and object contents are held so (DESIGN CHOICE, log entry 3). -/

namespace Sys2Proof.Machine

/-- A byte memory: the (address, byte) pairs that differ from `blank`. -/
abbrev Memory := List Host.Cell

/-- What an unlisted address reads as: zero. R285 gives it for objects; for host memory it is the model's choice (DESIGN CHOICE, log entry 3). -/
def blank : Byte := 0

/-- The byte at an address. -/
def Memory.get : Memory → Nat → Byte
  | [], _ => blank
  | (a, b) :: m, i => if a = i then b else Memory.get m i

/-- The cell for a byte, when it is one to list. -/
def Memory.cell (i : Nat) (v : Byte) : Memory := if v = blank then [] else [(i, v)]

/-- Write one byte, keeping the canonical form. -/
def Memory.set : Memory → Nat → Byte → Memory
  | [], i, v => Memory.cell i v
  | (a, b) :: m, i, v =>
    if i < a then Memory.cell i v ++ (a, b) :: m
    else if i = a then Memory.cell i v ++ m
    else (a, b) :: Memory.set m i v

/-- `n` bytes from an address, lowest first. -/
def Memory.read (m : Memory) (i : Nat) : (n : Nat) → Bytes
  | 0 => []
  | n + 1 => m.get i :: Memory.read m (i + 1) n

/-- Write a byte string at an address. -/
def Memory.write (m : Memory) (i : Nat) : Bytes → Memory
  | [] => m
  | b :: bs => Memory.write (m.set i b) (i + 1) bs

/-- The little-endian number in `n` bytes at an address (R3). -/
def Memory.num (m : Memory) (i n : Nat) : Nat := leVal (m.read i n)

/-- Every entry lies at or above `lo`, addresses rise strictly, and no entry equals `blank`. -/
def Memory.wfFrom : Nat → Memory → Bool
  | _, [] => true
  | lo, (a, b) :: m => decide (lo ≤ a) && decide (b ≠ blank) && Memory.wfFrom (a + 1) m

/-- The canonical form. -/
def Memory.wf (m : Memory) : Bool := Memory.wfFrom 0 m

end Sys2Proof.Machine
end

