-- ==== Sys2Proof/Machine/Float.lean ====
section
/-! DEFINITION. Floating-point values: exact fractions, one rounding step, and the formats the manual names:
FP32, BF16, FP16, FP8 E4M3, FP8 E5M2 (R162, R164, R184). Every operation converts to an exact fraction, computes
exactly and narrows once, to nearest-even, as "FP32 arithmetic with nearest-even rounding" says (R127, R193, R201). -/

namespace Sys2Proof.Machine

/-- An exact fraction num / den, den > 0, not in lowest terms. -/
structure Fr where
  num : Int
  den : Nat
  deriving DecidableEq, Repr

/-- m × 2^e as a fraction. -/
def Fr.dy (m : Int) (e : Int) : Fr := if 0 ≤ e then ⟨m * 2 ^ e.toNat, 1⟩ else ⟨m, 2 ^ (-e).toNat⟩
/-- A whole number as a fraction. -/
def Fr.int (m : Int) : Fr := ⟨m, 1⟩
/-- Zero. -/
def Fr.zero : Fr := ⟨0, 1⟩
/-- Exact sum. -/
def Fr.add (a b : Fr) : Fr := ⟨a.num * b.den + b.num * a.den, a.den * b.den⟩
/-- Exact negation. -/
def Fr.neg (a : Fr) : Fr := ⟨-a.num, a.den⟩
/-- Exact difference. -/
def Fr.sub (a b : Fr) : Fr := Fr.add a (Fr.neg b)
/-- Exact product. -/
def Fr.mul (a b : Fr) : Fr := ⟨a.num * b.num, a.den * b.den⟩
/-- Exact quotient, zero when the divisor is zero. -/
def Fr.div (a b : Fr) : Fr :=
  if b.num = 0 then Fr.zero
  else if 0 < b.num then ⟨a.num * b.den, a.den * b.num.toNat⟩ else ⟨-(a.num * b.den), a.den * (-b.num).toNat⟩
/-- Absolute value. -/
def Fr.abs (a : Fr) : Fr := ⟨a.num.natAbs, a.den⟩
/-- a < b. -/
def Fr.lt (a b : Fr) : Bool := decide (a.num * b.den < b.num * a.den)
/-- a ≤ b. -/
def Fr.le (a b : Fr) : Bool := decide (a.num * b.den ≤ b.num * a.den)
/-- a = b as values. -/
def Fr.eq (a b : Fr) : Bool := decide (a.num * b.den = b.num * a.den)
/-- The larger. -/
def Fr.max (a b : Fr) : Fr := if Fr.lt a b then b else a
/-- The smaller. -/
def Fr.min (a b : Fr) : Fr := if Fr.lt b a then b else a
/-- Greatest whole number not above. -/
def Fr.floor (a : Fr) : Int := a.num.fdiv a.den
/-- Nearest whole number, ties to even. -/
def Fr.rne (a : Fr) : Int :=
  let f := a.floor
  let r := a.num - f * a.den
  if 2 * r < a.den then f else if 2 * r > a.den then f + 1 else if f % 2 = 0 then f else f + 1

/-- A binary floating-point format: exponent bits, mantissa bits, exponent bias; `maxFinite` its largest finite code without sign;
`hasInf` when the top exponent holds infinities and NaNs as in IEEE 754. -/
structure FFmt where
  eb : Nat
  mb : Nat
  bias : Nat
  maxFinite : Nat
  hasInf : Bool
  deriving DecidableEq, Repr

/-- IEEE 754 binary32. -/
def fmtF32 : FFmt := ⟨8, 23, 127, 0x7F7FFFFF, true⟩
/-- IEEE-style brain float (R162). -/
def fmtBF16 : FFmt := ⟨8, 7, 127, 0x7F7F, true⟩
/-- IEEE 754 binary16. -/
def fmtF16 : FFmt := ⟨5, 10, 15, 0x7BFF, true⟩
/-- FP8 E4M3: bias 7, no infinity, largest finite 448 (R164). -/
def fmtE4M3 : FFmt := ⟨4, 3, 7, 0x7E, false⟩
/-- FP8 E5M2: bias 15, largest finite 57,344 (R164). -/
def fmtE5M2 : FFmt := ⟨5, 2, 15, 0x7B, true⟩

/-- Sign of a code. -/
def FFmt.sign (f : FFmt) (c : Nat) : Bool := bit c (f.eb + f.mb)
/-- The code without its sign. -/
def FFmt.mag (f : FFmt) (c : Nat) : Nat := c % 2 ^ (f.eb + f.mb)
/-- Not a number. -/
def FFmt.isNaN (f : FFmt) (c : Nat) : Bool :=
  if f.hasInf then decide (f.mag c > (2 ^ f.eb - 1) * 2 ^ f.mb) else decide (f.mag c > f.maxFinite)
/-- A NaN of the format whose sign and payload `n` gives (DESIGN CHOICE, log entry 64). -/
def FFmt.nan (f : FFmt) (n : Nat) : Nat := n / 2 ^ f.mb % 2 * 2 ^ (f.eb + f.mb) + (2 ^ f.eb - 1) * 2 ^ f.mb + 1 + n % (2 ^ f.mb - 1)
/-- An infinity. -/
def FFmt.isInf (f : FFmt) (c : Nat) : Bool := f.hasInf && f.mag c == (2 ^ f.eb - 1) * 2 ^ f.mb
/-- Finite. -/
def FFmt.isFinite (f : FFmt) (c : Nat) : Bool := decide (f.mag c ≤ f.maxFinite)
/-- The exact value of a finite code. -/
def FFmt.val (f : FFmt) (c : Nat) : Fr :=
  let e := f.mag c / 2 ^ f.mb
  let m := f.mag c % 2 ^ f.mb
  let r := if e = 0 then Fr.dy m (1 - (f.bias : Int) - f.mb) else Fr.dy ((m + 2 ^ f.mb : Nat) : Int) ((e : Int) - f.bias - f.mb)
  if f.sign c then Fr.neg r else r

/-- The code without sign nearest to the non-negative fraction n / d, ties to even; codes above `maxFinite` mean overflow. -/
def FFmt.roundMag (f : FFmt) (n d : Nat) : Nat :=
  if n = 0 then 0
  else
    -- ulp exponent: the value lies in [2^k, 2^(k+1)); subnormals share the lowest ulp
    let k0 : Int := (Nat.log2 n : Int) - Nat.log2 d
    let k := if Fr.le (Fr.dy 1 k0) ⟨n, d⟩ then k0 else k0 - 1
    let q : Int := Max.max (k - f.mb) (1 - (f.bias : Int) - f.mb)
    let m := ((Fr.div ⟨n, d⟩ (Fr.dy 1 q)).rne).toNat
    -- q = lowest ulp: m itself is the code; a carry into the next binade needs no special case
    m + ((q - (1 - (f.bias : Int) - f.mb)).toNat) * 2 ^ f.mb

/-- Round a fraction to the format, nearest-even; overflow gives infinity where the format has one, else the largest finite. -/
def FFmt.ofFr (f : FFmt) (a : Fr) : Nat :=
  let m := f.roundMag a.num.natAbs a.den
  let m := if m ≤ f.maxFinite then m else if f.hasInf then (2 ^ f.eb - 1) * 2 ^ f.mb else f.maxFinite
  m + flag (decide (a.num < 0)) (f.eb + f.mb)

/-- As `ofFr`, saturating to the largest finite value (R128, R184, R196). -/
def FFmt.ofFrSat (f : FFmt) (a : Fr) : Nat :=
  min (f.roundMag a.num.natAbs a.den) f.maxFinite + flag (decide (a.num < 0)) (f.eb + f.mb)

/-- The value of an FP32 word; 0 for a NaN or infinity. -/
def f32Val (w : Word) : Fr := if fmtF32.isFinite w.toNat then fmtF32.val w.toNat else Fr.zero
/-- The value of an FP32 word that is no NaN, an infinity standing just beyond the range: it saturates wherever it enters a sum (R196, R201). -/
def f32Lim (w : Word) : Fr := if fmtF32.isInf w.toNat then Fr.dy (if fmtF32.sign w.toNat then -1 else 1) 128 else f32Val w
/-- Round to FP32, nearest-even, saturating (R165, R196, R201). -/
def f32Of (a : Fr) : Word := BitVec.ofNat 32 (fmtF32.ofFrSat a)
/-- Would rounding leave the FP32 range? (OUT_OF_RANGE) -/
def f32Over (a : Fr) : Bool := decide (fmtF32.roundMag a.num.natAbs a.den > fmtF32.maxFinite)

/-- A whole number in FP32. -/
def f32Int (i : Int) : Word := f32Of (Fr.int i)
/-- FP32 sum. -/
def f32Add (a b : Word) : Word := f32Of (Fr.add (f32Val a) (f32Val b))
/-- FP32 difference. -/
def f32Sub (a b : Word) : Word := f32Of (Fr.sub (f32Val a) (f32Val b))
/-- FP32 product. -/
def f32Mul (a b : Word) : Word := f32Of (Fr.mul (f32Val a) (f32Val b))
/-- FP32 quotient. -/
def f32Div (a b : Word) : Word := f32Of (Fr.div (f32Val a) (f32Val b))
/-- FP32 negation of the value (zero stays +0). -/
def f32Neg (a : Word) : Word := f32Of (Fr.neg (f32Val a))
/-- FP32 square root, nearest-even, of a non-negative value. -/
def f32Sqrt (a : Word) : Word :=
  let v := f32Val a
  if v.num ≤ 0 then 0
  else
    -- 2^200 scaling leaves far more than 24 bits; a lost remainder is kept as one sticky half-unit
    let n := v.num.toNat * 2 ^ 400 / v.den
    let r := Nat.sqrt n
    let sticky := if r * r * v.den = v.num.toNat * 2 ^ 400 then 0 else 1
    f32Of ⟨((2 * r + sticky : Nat) : Int), 2 ^ 201⟩
/-- a < b as numbers; +0 equals -0 (R236). -/
def f32Lt (a b : Word) : Bool := Fr.lt (f32Val a) (f32Val b)
/-- Equal as numbers (R135, R236). -/
def f32Eq (a b : Word) : Bool := Fr.eq (f32Val a) (f32Val b)

/-- BF16 to FP32, exact. -/
def bf16ToF32 (c : Nat) : Word := BitVec.ofNat 32 (c % 65536 * 65536)
/-- FP32 to BF16, nearest-even; NaN kept as NaN (R184), which NaN being open (DESIGN CHOICE, log entry 64). -/
def f32ToBF16 (w : Word) : Nat :=
  if fmtF32.isNaN w.toNat then fmtBF16.nan (Config.nanBits 0 w.toNat 0)
  else if fmtF32.isInf w.toNat then w.toNat / 65536
  else
    let m := fmtBF16.ofFr (f32Val w)
    if (f32Val w).num = 0 then w.toNat / 65536 else m
/-- FP16 scale as a consumer reads it: negative, infinite or NaN acts as 0 (R165). -/
def f16Scale (c : Nat) : Fr := if fmtF16.isFinite c && !(fmtF16.sign c) then fmtF16.val c else Fr.zero
/-- FP32 scale as a consumer reads it (R165). -/
def f32Scale (c : Nat) : Fr := if fmtF32.isFinite c && !(fmtF32.sign c) then fmtF32.val c else Fr.zero

/-- Running sum and compensation of R193. -/
structure Comp where
  s : Word
  c : Word
  deriving DecidableEq, Repr

/-- The compensated summation of R193. -/
def Comp.add (a : Comp) (x : Word) : Comp :=
  let t := f32Add a.s x
  let big := Fr.le (f32Val x).abs (f32Val a.s).abs
  let d := if big then f32Add (f32Sub a.s t) x else f32Add (f32Sub x t) a.s
  ⟨t, f32Of (Fr.add (f32Lim a.c) (f32Val d))⟩

/-- The value a compensated sum stands for. -/
def Comp.val (a : Comp) : Word := f32Add a.s a.c

/-- FP32 sum of a list, in list order, nearest-even at each step. -/
def f32Sum (l : List Word) : Word := l.foldl f32Add 0

/-! ## Functions that the manual fixes to within 2^-12 (R202, R241) -/

/-- The power series of e^t from its term `k` on, for a fixed-point t of 96 fractional bits below 1 in size. -/
def expSeries (t : Int) : (n k : Nat) → Int
  | 0, _ => 2 ^ 96
  | n + 1, k => 2 ^ 96 + t * expSeries t n (k + 1) / (k * 2 ^ 96)
/-- Square a fixed-point number `n` times. -/
def squareFix : (n : Nat) → Int → Int
  | 0, a => a
  | n + 1, a => squareFix n (a * a / 2 ^ 96)
/-- e^x to within 2^-60 of itself or of 1, for x below 90: the series at x / 256, squared eight times. -/
def expVal (x : Fr) : Fr := if Fr.lt x (Fr.int (-110)) then Fr.zero else ⟨squareFix 8 (expSeries (Fr.mul x (Fr.dy 1 88)).floor 26 1), 2 ^ 96⟩
/-- 1 / (1 + e^−x), as near. -/
def sigmoidVal (x : Fr) : Fr :=
  if Fr.lt (Fr.int 60) x then Fr.int 1 else if Fr.lt x (Fr.int (-60)) then Fr.zero else Fr.div (expVal x) (Fr.add (Fr.int 1) (expVal x))

/-- The exact functions of activation codes 3 to 7 (R202). -/
def actVal (code : Nat) (v : Fr) : Fr :=
  match code with
  | 3 => -- 0.5 v (1 + tanh u) is v / (1 + e^−2u)
    let u := Fr.mul ⟨7978846, 10000000⟩ (Fr.add v (Fr.mul ⟨44715, 1000000⟩ (Fr.mul v (Fr.mul v v))))
    Fr.mul v (sigmoidVal (Fr.mul (Fr.int 2) u))
  | 4 => Fr.mul v (sigmoidVal v)
  | 5 => sigmoidVal v
  | 6 => Fr.sub (Fr.mul (Fr.int 2) (sigmoidVal (Fr.mul (Fr.int 2) v))) (Fr.int 1)
  | _ => expVal v

/-- Does a word lie within 2^-12 of a value, absolute or relative, whichever bound is larger (R202)? The 2^-40 beside it covers the nearness of the functions
above. -/
def nearVal (w : Word) (a : Fr) : Bool :=
  fmtF32.isFinite w.toNat && Fr.le (Fr.sub (fmtF32.val w.toNat) a).abs (Fr.mul (Fr.add (Fr.dy 1 (-12)) (Fr.dy 1 (-40))) (Fr.max (Fr.int 1) a.abs))
/-- A result that the manual fixes only to within 2^-12: the free word `w` where it lies there, else the nearest FP32 (DESIGN CHOICE, log entry 6). -/
def nearWord (w : Word) (a : Fr) : Word := if nearVal w a then w else f32Of a

/-- Does e^x leave the FP32 range? -/
def expOver (x : Fr) : Bool := Fr.le (Fr.int 89) x || Fr.lt (fmtF32.val fmtF32.maxFinite) (expVal x)
/-- e^v in FP32, saturating, and whether it did (R202, R241). -/
def expWord (free : Word) (v : Fr) : Word × Bool := if expOver v then (BitVec.ofNat 32 fmtF32.maxFinite, true) else (nearWord free (expVal v), false)

/-- d × 2^s for a promotion (R192): exact for s ≥ 0, nearest-even below, 0 when s ≤ −21. -/
def shiftRne (d s : Int) : Int := if 0 ≤ s then d * 2 ^ s.toNat else if s ≤ -21 then 0 else (Fr.dy d s).rne

end Sys2Proof.Machine
end

