-- ==== Sys2Proof/Machine/Narrow.lean ====
section
/-! DEFINITION. Narrow formats, scales, the sizing pass and rounding (R162-R185), and the generator of R172. -/

namespace Sys2Proof.Machine

/-- The format codes of R162. -/
inductive Fmt where
  | int4b | uint4z | mxfp4 | fp4t | int2b | bin | cb4 | cb2 | e4m3 | e5m2 | int8 | uint4b | bf16 | fp32
  deriving DecidableEq, Repr

/-- The format a code names; 0xE and 0xF name none (R162). -/
def Fmt.ofCode : Nat → Option Fmt
  | 0 => some .int4b | 1 => some .uint4z | 2 => some .mxfp4 | 3 => some .fp4t | 4 => some .int2b | 5 => some .bin
  | 6 => some .cb4 | 7 => some .cb2 | 8 => some .e4m3 | 9 => some .e5m2 | 10 => some .int8 | 11 => some .uint4b
  | 12 => some .bf16 | 13 => some .fp32 | _ => none

/-- The code of a format (R162). -/
def Fmt.code : Fmt → Nat
  | .int4b => 0 | .uint4z => 1 | .mxfp4 => 2 | .fp4t => 3 | .int2b => 4 | .bin => 5 | .cb4 => 6 | .cb2 => 7
  | .e4m3 => 8 | .e5m2 => 9 | .int8 => 10 | .uint4b => 11 | .bf16 => 12 | .fp32 => 13

/-- Bits of one element (R162). -/
def Fmt.width : Fmt → Nat
  | .int4b | .uint4z | .mxfp4 | .fp4t | .cb4 | .uint4b => 4
  | .int2b | .cb2 => 2
  | .bin => 1
  | .e4m3 | .e5m2 | .int8 => 8
  | .bf16 => 16
  | .fp32 => 32

/-- Formats with one E8M0 scale per block of 32 (R162, R163). -/
def Fmt.blockScaled : Fmt → Bool
  | .int4b | .mxfp4 | .int2b | .uint4b => true
  | _ => false

/-- Narrow formats that an epilogue or a row update produces with a scale (R203). -/
def Fmt.narrow : Fmt → Bool
  | .int4b | .uint4z | .mxfp4 | .fp4t | .int2b | .bin | .uint4b => true
  | _ => false

/-- The advances one conversion makes in the counters of R185. -/
structure ConvCount where
  nanIn : Nat := 0
  infIn : Nat := 0
  outOfRange : Nat := 0
  satDynamic : Nat := 0
  satRerun : Nat := 0
  satUnfixed : Nat := 0
  underflowBlocks : Nat := 0
  skewFaults : Nat := 0
  deriving DecidableEq, Repr

/-- Saturating 64-bit sum of two sets of counters (R185). -/
def ConvCount.add (a b : ConvCount) : ConvCount where
  nanIn := satAdd a.nanIn b.nanIn
  infIn := satAdd a.infIn b.infIn
  outOfRange := satAdd a.outOfRange b.outOfRange
  satDynamic := satAdd a.satDynamic b.satDynamic
  satRerun := satAdd a.satRerun b.satRerun
  satUnfixed := satAdd a.satUnfixed b.satUnfixed
  underflowBlocks := satAdd a.underflowBlocks b.underflowBlocks
  skewFaults := satAdd a.skewFaults b.skewFaults

/-- Magnitude of an FP4 E2M1 code [2:0], in halves (R162's FP4 table). -/
def fp4Halves : Nat → Nat
  | 0 => 0 | 1 => 1 | 2 => 2 | 3 => 3 | 4 => 4 | 5 => 6 | 6 => 8 | _ => 12

/-- Element value of a code, before scale and zero point (R164). FP4 1000 reads as 0; an FP8 NaN as 0; an E5M2 infinity as ±57,344. -/
def elemVal : Fmt → Nat → Fr
  | .int4b, c => Fr.int (s4 (c % 16))
  | .uint4z, c | .uint4b, c | .cb4, c => Fr.int ((c % 16 : Nat) : Int)
  | .cb2, c => Fr.int ((c % 4 : Nat) : Int)
  | .mxfp4, c | .fp4t, c => ⟨(if bit c 3 then -1 else 1) * ((fp4Halves (c % 8) : Nat) : Int), 2⟩
  | .int2b, c => Fr.int (s2 (c % 4))
  | .bin, c => Fr.int (if c % 2 = 1 then 1 else -1)
  | .int8, c => Fr.int (s8 (c % 256))
  | .e4m3, c => if fmtE4M3.isFinite c then fmtE4M3.val c else Fr.zero
  | .e5m2, c => if fmtE5M2.isFinite c then fmtE5M2.val c
                else if fmtE5M2.isInf c then Fr.int (if fmtE5M2.sign c then -57344 else 57344) else Fr.zero
  | .bf16, c => f32Val (bf16ToF32 c)
  | .fp32, c => f32Val (BitVec.ofNat 32 c)

/-- What reading an element code advances (R164, R185). -/
def elemCount : Fmt → Nat → ConvCount
  | .e4m3, c => if fmtE4M3.isNaN c then { nanIn := 1 } else {}
  | .e5m2, c => if fmtE5M2.isNaN c then { nanIn := 1 } else if fmtE5M2.isInf c then { infIn := 1 } else {}
  | _, _ => {}

/-- Element `j` of packed data of a format (R163). -/
def elemAt (f : Fmt) (bs : Bytes) (j : Nat) : Nat :=
  match f.width with
  | 4 => nibble bs j
  | 2 => fld bs (j / 4) 1 / 4 ^ (j % 4) % 4
  | 1 => fld bs (j / 8) 1 / 2 ^ (j % 8) % 2
  | 8 => fld bs j 1
  | 16 => fld bs (2 * j) 2
  | _ => fld bs (4 * j) 4

/-- Bytes of `n` packed elements (R163). -/
def elemBytes (f : Fmt) (n : Nat) : Nat := (n * f.width + 7) / 8

/-- Pack element codes (R163). -/
def packElems (f : Fmt) (cs : List Nat) : Bytes :=
  match f.width with
  | 4 => packNibbles cs
  | 2 => packPairs cs
  | 1 => packBits cs.length (fun i => cs.getD i 0 % 2 == 1)
  | 8 => cs.map (BitVec.ofNat 8)
  | 16 => cs.flatMap (leBytes 2)
  | _ => cs.flatMap (leBytes 4)

/-- The value of an E8M0 byte: 2^(E − 127), and 0 for 0xFF (R165). -/
def e8m0 (e : Nat) : Fr := if e = 255 then Fr.zero else Fr.dy 1 ((e : Int) - 127)

/-- FP32 of an exact de-quantised value, with OUT_OF_RANGE when it saturates (R165). -/
def dequant (a : Fr) : Word × ConvCount := (f32Of a, if f32Over a then { outOfRange := 1 } else {})

/-- Is a word finite, and its value (R170). -/
def finiteVal (w : Word) : Option Fr := if fmtF32.isFinite w.toNat then some (fmtF32.val w.toNat) else none

/-- The sizing limit M (R168). -/
def sizingLimit : Fmt → Nat
  | .int4b => 7 | .mxfp4 => 6 | .fp4t => 6 | .int2b => 1 | .uint4b => 15 | .uint4z => 15
  | .e4m3 => 448 | .e5m2 => 57344 | .int8 => 127 | _ => 1

/-- Greatest absolute value among the finite elements (R168). -/
def amax (xs : List Word) : Fr := xs.foldl (fun m x => match finiteVal x with | some v => Fr.max m v.abs | none => m) Fr.zero

/-- The smallest X with M × 2^X ≥ amax, clamped to −127 to 127 (R168): an exact comparison from −127 up. -/
def sizingExp (m : Nat) (a : Fr) : Int :=
  match findFrom (fun i => Fr.le a (Fr.dy m ((i : Int) - 127))) 255 0 with
  | some i => (i : Int) - 127
  | none => 127

/-- The E8M0 byte a sizing pass gives: 0 when amax is 0 (R168). -/
def sizingE (f : Fmt) (xs : List Word) : Nat :=
  let a := amax xs
  if a.num = 0 then 0 else (sizingExp (sizingLimit f) a + 127).toNat

/-- Round a fraction to one of two adjacent values lo ≤ y ≤ hi (R171): by draw when one is given, else to nearest with ties to even. -/
def pickAdjacent (y lo hi : Fr) (loEven : Bool) (draw : Option Nat) : Bool :=
  -- answers: take hi?
  match draw with
  | some r => decide (r < ((Fr.mul (Fr.div (Fr.sub y lo) (Fr.sub hi lo)) (Fr.int 65536)).floor).toNat)
  | none =>
    let dl := Fr.sub y lo
    let dh := Fr.sub hi y
    if Fr.lt dl dh then false else if Fr.lt dh dl then true else !loEven

/-- Integer element nearest `y` within [lo, hi] under R171, and whether it saturated. -/
def roundInt (lo hi : Int) (y : Fr) (draw : Option Nat) : Int × Bool :=
  if Fr.lt (Fr.int hi) y then (hi, true) else if Fr.lt y (Fr.int lo) then (lo, true)
  else
    let f := y.floor
    if Fr.eq (Fr.int f) y then (f, false)
    else if pickAdjacent y (Fr.int f) (Fr.int (f + 1)) (f % 2 == 0) draw then (f + 1, false) else (f, false)

/-- FP4 code nearest `y` under R171, and whether it saturated; code 1000 is never written (R164). -/
def roundFp4 (y : Fr) (draw : Option Nat) : Nat × Bool :=
  let neg := decide (y.num < 0)
  let a := y.abs
  let val := fun c => (⟨((fp4Halves c : Nat) : Int), 2⟩ : Fr)
  let done := fun c => if neg && c != 0 then c + 8 else c
  if Fr.lt (val 7) a then (done 7, true)
  else
    let c := (findFrom (fun c => Fr.lt a (val (c + 1))) 7 0).getD 7
    if Fr.eq (val c) a || c == 7 then (done c, false)
    else
      -- for a negative y the adjacent values mirror: lo is −val (c+1)
      let up := if neg then !(pickAdjacent y (Fr.neg (val (c + 1))) (Fr.neg (val c)) (c % 2 == 1) draw)
                else pickAdjacent y (val c) (val (c + 1)) (c % 2 == 0) draw
      (done (if up then c + 1 else c), false)

/-- Does an FP8 value lie beyond the largest finite one (R171)? -/
def beyondFinite (f : FFmt) (y : Fr) : Bool := Fr.lt (f.val f.maxFinite) y.abs

/-- Element code of the scaled value `y` (R171), and whether it saturated. -/
def roundElem (f : Fmt) (y : Fr) (draw : Option Nat) : Nat × Bool :=
  match f with
  | .int4b => let r := roundInt (-8) 7 y draw; ((r.1 % 16).toNat, r.2)
  | .int2b => let r := roundInt (-2) 1 y draw; ((r.1 % 4).toNat, r.2)
  | .int8 => let r := roundInt (-128) 127 y none; ((r.1 % 256).toNat, r.2)
  | .uint4b | .uint4z => let r := roundInt 0 15 y draw; (r.1.toNat, r.2)
  | .mxfp4 | .fp4t => roundFp4 y draw
  | .e4m3 => (fmtE4M3.ofFrSat y, beyondFinite fmtE4M3 y)
  | .e5m2 => (fmtE5M2.ofFrSat y, beyondFinite fmtE5M2 y)
  | .bin => (if 0 < y.num then 1 else 0, false)
  | _ => (0, false)

/-- Code of the sizing limit of a sign: what an infinite element converts to (R170). -/
def limitCode (f : Fmt) (neg : Bool) : Nat :=
  match f with
  | .uint4b | .uint4z => if neg then 0 else 15
  | .int4b => if neg then 9 else 7
  | .int2b => if neg then 3 else 1
  | .mxfp4 | .fp4t => if neg then 15 else 7
  | .int8 => if neg then 129 else 127
  | .e4m3 => 0x7E + flag neg 7
  | .e5m2 => 0x7B + flag neg 7
  | _ => 0

/-- How elements are converted: under a scale of a sizing pass, whose limit M is never passed (R170), or under a supplied one; and how each step of the
arithmetic is rounded: exactly for a conversion (R169, R171), in FP32 for an index's vectors (R127, R144). -/
structure ConvRule where
  sized : Bool
  step : Fr → Fr

/-- A conversion under a sizing pass, and one under a supplied scale. -/
def dynamicRule : ConvRule := ⟨true, id⟩
def staticRule : ConvRule := ⟨false, id⟩
/-- The procedure of R127, every step in FP32. -/
def f32Rule : ConvRule := ⟨true, fun a => f32Val (f32Of a)⟩

/-- The scaled value y of an element (R171). Under a scale that reads as 0 only 0 has one (R165). -/
def ConvRule.scaled (p : ConvRule) (v scale : Fr) (x : Word) : Fr :=
  if scale.num ≠ 0 ∨ v.num = 0 then p.step (Fr.div v scale) else ⟨(Config.overZero x).1, (Config.overZero x).2 + 1⟩

/-- Convert one element under a given scale: code, saturated?, counts (R169, R170, R171). `zp` is what a NaN converts to. -/
def convertElem (p : ConvRule) (f : Fmt) (scale : Fr) (zp : Nat) (x : Word) (draw : Option Nat) : Nat × Bool × ConvCount :=
  match finiteVal x with
  | some v =>
    let y := p.scaled v scale x
    if f = Fmt.uint4z then
      -- u = clamp(round(x / s) + zp, 0, 15) (R169); y saturates outside the element values less the zero point (R181)
      let u : Int := (roundInt (-(2 ^ 40)) (2 ^ 40) y draw).1 + zp
      (if u < 0 then 0 else if u > 15 then 15 else u.toNat, Fr.lt y (Fr.int (-(zp : Int))) || Fr.lt (Fr.int (15 - (zp : Int))) y, {})
    else if p.sized && Fr.lt (Fr.int (sizingLimit f)) y.abs then (limitCode f (decide (y.num < 0)), true, {})
    else
      let r := roundElem f y draw
      (r.1, r.2, {})
  | none =>
    if fmtF32.isNaN x.toNat then (zp, false, { nanIn := 1 })
    else (limitCode f (fmtF32.sign x.toNat), false, { infIn := 1 })

/-- Convert elements under a given scale: codes, how many saturated, and the counts of R170.
`draws` gives the stochastic draws by position when rounding is stochastic. -/
def convertScaled (p : ConvRule) (f : Fmt) (scale : Fr) (zp : Nat) (xs : List Word) (draws : Option (List Nat)) : List Nat × Nat × ConvCount :=
  let rs := xs.zipIdx.map fun (x : Word × Nat) => convertElem p f scale zp x.1 (draws.map fun (d : List Nat) => d.getD x.2 0)
  (rs.map (·.1), (rs.filter (·.2.1)).length, rs.foldl (fun a r => a.add r.2.2) {})

/-- A block converted by a sizing pass (R168, R170, R171): E8M0 byte, codes, counts. -/
def sizeBlock (f : Fmt) (xs : List Word) (draws : Option (List Nat)) : Nat × List Nat × ConvCount :=
  let e := sizingE f xs
  let r := convertScaled dynamicRule f (e8m0 e) 0 xs draws
  (e, r.1, r.2.2.add { satDynamic := r.2.1 })

/-- The row scale, zero point and codes of UINT4Z by a sizing pass (R169). -/
structure RowZ where
  scale : Nat
  zp : Nat
  codes : List Nat
  rowSum : Nat
  counts : ConvCount
  deriving DecidableEq, Repr

/-- The range lo, hi of a row, always including 0 (R127, R169). `outl j` marks an outlier channel. -/
def rowRange (xs : List Word) (outl : Nat → Bool) : Fr × Fr :=
  xs.zipIdx.foldl (fun (r : Fr × Fr) (x, j) =>
    if outl j then r else match finiteVal x with | some v => (Fr.min r.1 v, Fr.max r.2 v) | none => r) (Fr.zero, Fr.zero)

/-- A row with 0 at its outlier channels, which take no part in its conversion (R169, R176). -/
def withoutOutliers (xs : List Word) (outl : Nat → Bool) : List Word := xs.zipIdx.map fun x => if outl x.2 then 0 else x.1

/-- The FP16 scale of a range, and whether it was cut to 65,504 (R169). -/
def rowScale (p : ConvRule) (r : Fr × Fr) : Nat × Bool :=
  let a := p.step (Fr.div (p.step (Fr.sub r.2 r.1)) (Fr.int 15))
  let s := if r.1.num = 0 ∧ r.2.num = 0 then 0x3C00 else fmtF16.ofFrSat a
  (if s = 0 then 1 else s, decide (fmtF16.roundMag a.num.natAbs a.den > fmtF16.maxFinite))

/-- Size and convert a UINT4Z row with its FP16 scale (R169). Elements count as saturated where the scale was cut (R170, R185, DEDUCED, log entry 85). -/
def sizeRowZ (p : ConvRule) (xs : List Word) (outl : Nat → Bool) (draws : Option (List Nat)) : RowZ :=
  let r := rowRange xs outl
  let s := rowScale p r
  let sv := fmtF16.val s.1
  let zp := (max 0 (min 15 (p.step (Fr.div (Fr.neg r.1) sv)).rne)).toNat
  let c := convertScaled p .uint4z sv zp (withoutOutliers xs outl) draws
  let codes := c.1.zipIdx.map fun (u, j) => if outl j then zp else u
  ⟨s.1, zp, codes, codes.foldl (· + ·) 0, c.2.2.add { satDynamic := if s.2 then c.2.1 else 0 }⟩

/-- The outlier byte of a value under scale 1.0 (R128, R144, R170, R184), with what it counts. -/
def outlierByte (f : Fmt) (x : Word) : Nat × ConvCount := let r := convertElem staticRule f (Fr.int 1) 0 x none; (r.1, r.2.2)

/-- Cut a list into pieces of `n`. -/
def chunks {α : Type} (n : Nat) (l : List α) : List (List α) :=
  (List.range (ceilDiv l.length (max n 1))).map fun i => (l.drop (i * n)).take n

/-- De-quantise block-scaled data: element j of block m is element value × 2^(E_m − 127) (R89, R162). -/
def dequantBlocks (f : Fmt) (data : Bytes) (es : Bytes) (n : Nat) : List Word :=
  (List.range n).map fun j => f32Of (Fr.mul (elemVal f (elemAt f data j)) (e8m0 (fld es (j / 32) 1)))

/-- De-quantise a UINT4Z row: scale × (u − zp) (R89, R162). -/
def dequantRowZ (scale zp : Nat) (data : Bytes) (n : Nat) : List Word :=
  (List.range n).map fun j => f32Of (Fr.mul (f16Scale scale) (Fr.int ((nibble data j : Int) - zp)))

/-- FP32 words of BF16 or FP32 data. -/
def wideElems (f : Fmt) (data : Bytes) (n : Nat) : List Word :=
  (List.range n).map fun j => if f = .bf16 then bf16ToF32 (fld data (2 * j) 2) else BitVec.ofNat 32 (fld data (4 * j) 4)

/-- One step of the 64-bit generator of R172: the new state and the 16-bit draw. -/
def genStep (s : BitVec 64) : BitVec 64 × Nat :=
  let s := s ^^^ (s >>> 12)
  let s := s ^^^ (s <<< 25)
  let s := s ^^^ (s >>> 27)
  (s, ((s * 0x2545F4914F6CDD1D) >>> 48).toNat)

/-- The generator's start value (R172). -/
def genInit (seed unit tick : Nat) : BitVec 64 :=
  let s := (BitVec.ofNat 64 (seed * 2 ^ 32)) ^^^ (BitVec.ofNat 64 (unit * 2 ^ 16)) ^^^ (BitVec.ofNat 64 (tick % 2 ^ 16)) ^^^ 0x9E3779B97F4A7C15
  if s = 0 then 0x9E3779B97F4A7C15 else s

/-- `n` draws in order. -/
def genDraws : Nat → BitVec 64 → BitVec 64 × List Nat
  | 0, s => (s, [])
  | n + 1, s => let r := genStep s; let t := genDraws n r.1; (t.1, r.2 :: t.2)

/-- A free order of a list: the i-th place takes the element that pick k i chooses among those left (DESIGN CHOICE, log entry 5). -/
def permuteBy {α : Type} (k : Nat) : (n i : Nat) → List α → List α
  | 0, _, l => l
  | n + 1, i, l =>
    match l[Config.pick k i % max l.length 1]? with
    | none => l
    | some a => a :: permuteBy k n (i + 1) (l.eraseIdx (Config.pick k i % max l.length 1))

/-- FP32 sum in an order the manual does not fix (R88, R98, DESIGN CHOICE, log entry 5). -/
def f32SumFree (k : Nat) (l : List Word) : Word := f32Sum (permuteBy k l.length 0 l)

/-- The `n` draws of a conversion, each assigned to an element in an order the manual does not specify (R172). -/
def drawsFor (stochastic : Bool) (k n : Nat) (g : BitVec 64) : BitVec 64 × Option (List Nat) :=
  if stochastic then let r := genDraws n g; (r.1, some (permuteBy k n 0 r.2)) else (g, none)

end Sys2Proof.Machine
end

