-- ==== Sys2Proof/Machine/State.lean ====
section
/-! DEFINITION. The state of one UX4 module as plain data: everything the manual gives it, and the queue of commands that wait. -/

namespace Sys2Proof.Machine

/-- The machine never stops with a fault: the manual ends every failure in a reply, an event or a counter (file 04, R61). -/
inductive Fault where
  /-- Raised by nothing; kept so that the type has a name for a stop of the whole module. Safe. -/
  | none
  deriving DecidableEq, Repr

/-- Why a command has no meaning here. -/
inductive Refusal where
  /-- Raised by Dispatch for a command whose meaning is not written. Safe: nothing can be proved of its effect. -/
  | notModelled (mnemonic : String)
  deriving DecidableEq, Repr

/-! ## Ports (file 03, file 18) -/

/-- CMDs_STATE.STATE (R36). -/
inductive StreamState where
  | disabled | running | draining | faulted
  deriving DecidableEq, Repr

/-- One command stream of a port (R36, R48, R50). -/
structure CmdStream where
  base : Nat := 0
  size : Nat := 0
  enable : Bool := false
  poll : Bool := false
  reply : Nat := 0
  head : Nat := 0
  /-- TAIL as last read (R51). -/
  tail : Nat := 0
  state : StreamState := .disabled
  cause : Nat := 0
  /-- SEQ the next packet must carry (R50). -/
  nextSeq : Nat := 0
  /-- HEAD moved in this tick, so the head line is due (R48). -/
  headMoved : Bool := false
  deriving DecidableEq, Repr, Inhabited

/-- One reply stream of a port (R36, R58). -/
structure ReplyStream where
  base : Nat := 0
  size : Nat := 0
  enable : Bool := false
  /-- ENABLE was cleared; reserved records are still written (R37). -/
  stopping : Bool := false
  tail : Nat := 0
  /-- The consumed line as last read (R58). -/
  consumed : Nat := 0
  /-- REPLY_SEQ of the next record. -/
  seq : Nat := 0
  /-- Records reserved and not yet written (R52). -/
  reserved : Nat := 0
  deriving DecidableEq, Repr, Inhabited

/-- A write the module makes to host memory. -/
structure HostPost where
  addr : Nat
  data : Bytes
  deriving DecidableEq, Repr, Inhabited

/-- A final reply, before it has a place in a stream (R58). -/
structure Reply where
  tag : Nat
  status : Nat
  detail : Nat
  handle : Nat
  count : Nat
  tick : Nat
  micros : Nat
  /-- Result data, reports and trailer, in order, written before the record (R59). -/
  data : List HostPost
  deriving DecidableEq, Repr, Inhabited

/-- A final status with what goes with it. -/
structure Final where
  status : Nat
  detail : Nat := 0
  count : Nat := 0
  handle : Option Nat := none
  data : List HostPost := []
  /-- The port whose charge for one channel ends with the reply (R45, R73). -/
  refund : Option Nat := none
  deriving DecidableEq, Repr, Inhabited

/-- One entry of an MSI-X table (R348). -/
structure MsixEntry where
  addr : Nat := 0
  data : Nat := 0
  masked : Bool := true
  deriving DecidableEq, Repr, Inhabited

/-- A role challenge that has been issued (R42). -/
structure Challenge where
  role : Nat
  bytes : Bytes
  /-- Microseconds of service at which it was issued. -/
  issuedAt : Nat
  deriving DecidableEq, Repr, Inhabited

/-- One access point: ports 0 to 7, and the management port as number 8 (R34, R367). -/
structure Port where
  cmds : List CmdStream := List.replicate 4 {}
  replies : List ReplyStream := List.replicate 2 {}
  role : Nat := 0
  /-- Credential slot that granted installer (R44). -/
  roleSlot : Nat := 0
  /-- Cause under R44 by which installer is lost at the next boundary. -/
  roleLoss : Option Nat := none
  challenge : Option Challenge := none
  events : Nat := 0
  pollInterval : Nat := 10
  /-- The agreed ARCH_LEVEL byte (R62). -/
  negotiated : Option Nat := none
  epoch : Nat := 1
  attached : Bool := false
  detachCause : Nat := 0
  busMaster : Bool := true
  d0 : Bool := true
  /-- Amount charged of each of the six resources (R45). -/
  used : List Nat := List.replicate 6 0
  park : List Reply := []
  /-- Sink writes of commands of an earlier epoch that still run, for their parked replies; whether the data area could not take them all (R351). -/
  parking : List (Nat × List HostPost × Bool) := []
  /-- A discarded aperture write was logged as an Advisory Non-Fatal Error under AER (R345). -/
  advisory : Bool := false
  parkLost : Nat := 0
  irqCtrl : Nat := 0
  irqStatus : Nat := 0
  msix : List MsixEntry := List.replicate 4 {}
  pba : Nat := 0
  /-- Vectors with a cause in this tick (R348). -/
  due : Nat := 0
  windowDenied : Nat := 0
  hostDiscard : Nat := 0
  /-- Tail and consumed lines held Shared in the device cache (R51): 0–3 command streams, 4–5 reply streams. -/
  watched : List Nat := []
  /-- Pending commands that left, per tick, newest first, at most 64 (R20); the head is this tick's. -/
  departures : List Nat := [0]
  /-- Scope 1 counters of R390: replies written, BUSY ×4, REJECTED ×5, replies parked. -/
  counters : List Nat := List.replicate 11 0
  /-- Replies that wait for a record, oldest first: reply stream, whether a record is reserved there, the reply (DEDUCED, log entry 11). -/
  owed : List (Nat × Bool × Reply) := []
  deriving DecidableEq, Repr, Inhabited

/-- A registered host region (R341). -/
structure Region where
  port : Nat
  number : Nat
  base : Nat
  bytes : Nat
  /-- 4 KiB pages whose bias is DEVICE_OWNED (R342). -/
  owned : List Nat := []
  suspended : Bool := false
  deriving DecidableEq, Repr, Inhabited

/-- A BAR2 placement window (R344). -/
structure Window where
  port : Nat
  number : Nat
  object : Nat
  base : Nat
  bytes : Nat
  aperture : Nat
  /-- (requester ID, mask) entries (R345). -/
  requesters : List (Nat × Nat)
  deriving DecidableEq, Repr, Inhabited

/-! ## Commands in progress (file 02, file 04) -/

/-- A kind of per-tick capacity (R21). -/
inductive Res where
  | hops
  | cycles (cluster : Nat)
  /-- Row reads and updates of a gather engine, in bytes of whole granules. -/
  | rows (engine : Nat)
  /-- A physical stream mover that also serves a gather engine (R267). -/
  | mover (m : Nat)
  | pages
  | insertions (index shard : Nat)
  /-- Coordinator merge room (R139). -/
  | merge
  deriving DecidableEq, Repr

/-- What a stage does (R22). -/
inductive StageKind where
  | walk
  | phase (p : Nat)
  | gather
  | update
  | slow
  deriving DecidableEq, Repr

/-- One stage of a command, placed in a tick (R22). -/
structure Stage where
  kind : StageKind
  tick : Nat
  charge : List (Res × Nat)
  /-- Amount used since admission, and in this tick (R25). -/
  used : List (Res × Nat) := []
  usedNow : List (Res × Nat) := []
  finished : Bool := false
  deriving DecidableEq, Repr

/-- Where a command stands. -/
inductive CmdState where
  /-- In the Control Bar queue or the abort queue, being prepared (R55, R64). -/
  | queued
  /-- Prepared; its audit entry is being programmed (R383). -/
  | auditing
  /-- Handed to the frame sequencer; takes hold at the next boundary (R56). -/
  | ready
  /-- Fast path, decoded and not yet admitted (R19). -/
  | waiting
  /-- Admitted, not yet decided. -/
  | running
  deriving DecidableEq, Repr

/-- A command that has no final reply yet. -/
structure Cmd where
  id : Nat
  op : Nat
  q : Pkt
  /-- Attach epoch of its port when it was fetched (R351). -/
  epoch : Nat
  /-- Reply stream of its command stream, and whether a record is reserved there (R52). -/
  rstream : Nat
  reserved : Bool
  state : CmdState
  decoded : Nat
  waited : Nat := 0
  admitTick : Nat := 0
  deadline : Nat := 1
  strict : Bool := true
  stages : List Stage := []
  /-- Items, rows or pages completed. -/
  done : Nat := 0
  /-- Causes of PARTIAL seen so far, as R61's DETAIL bits. -/
  partialBits : Nat := 0
  /-- Stream named late (R226, R257), as DETAIL of DEADLINE_MISS. -/
  lateStream : Option Nat := none
  /-- Uncorrectable error met, with its tier (R61). -/
  faultTier : Option Nat := none
  /-- Binding generation of its channel at admission (R71, R72). -/
  binding : Nat := 0
  /-- Objects it keeps in use until its final reply (R72). -/
  uses : List Nat := []
  /-- Working values resolved at admission (R70, R103, R122); each family says in what order. -/
  work : List Nat := []
  /-- SEARCH_ENCODED: the encoder's BF16 output (R106), and the routing table valid at its admission boundary (R99). -/
  encoded : Bytes := []
  routes : Bytes := []
  /-- INSERT: the shard chosen for each entry, and the tick in which its slots and positions were reserved (R145). -/
  shards : List Nat := []
  reservedIn : Nat := 0
  /-- The fallback kernel that has been placed, by its load number (R231). -/
  fallback : Option Nat := none
  deriving DecidableEq, Repr

/-! ## Channels and settings (file 05) -/

/-- R69. -/
inductive ChanState where
  | free | live | destroying
  deriving DecidableEq, Repr

/-- A setting in force (R76). -/
structure SetVal where
  value : Nat
  since : Nat := 0
  /-- Accepted and held back under "older rule holds" (R79). -/
  awaiting : Option Nat := none
  deriving DecidableEq, Repr, Inhabited

/-- A channel slot (R65–R80). -/
structure Channel where
  slot : Nat
  state : ChanState := .free
  gen : Nat := 1
  type : Nat := 0
  port : Nat := 0
  reply : Nat := 0
  primary : Nat := 0
  encoder : Nat := 0
  sinkBase : Nat := 0
  sinkBytes : Nat := 0
  settings : List (Nat × SetVal) := []
  overrun : Nat := 0
  escalations : Nat := 0
  escRefused : Nat := 0
  stalls : Nat := 0
  lateLists : Nat := 0
  bindTick : Nat := 0
  /-- Advances at each REBIND (R71). -/
  binding : Nat := 0
  /-- Boundary at which a DESTROYING slot becomes FREE (R69). -/
  freeAt : Nat := 0
  /-- Channel counters of R185, R206, R234, R266 and R281, in that order (R390). -/
  counters : List Nat := List.replicate 30 0
  /-- ROWMAX_MISS (R239), which no scope of COUNTERS_READ returns. -/
  rowmaxMiss : Nat := 0
  deriving DecidableEq, Repr, Inhabited

/-! ## The frame (file 02) -/

/-- R17. -/
inductive Align where
  | locked | freeRun | slewing
  deriving DecidableEq, Repr

/-- What freed space is (R7, R27, R45). -/
inductive FreedKind where
  /-- Pages of an object: (tier 0 to 2, pages), charged to a port. -/
  | object (num : Nat)
  | pages (tier pages : Nat)
  | sectors (n stack : Nat)
  | rowSlot (table shard slot : Nat)
  /-- Side-list positions that head has passed, up to this one (R147, R150). -/
  | positions (index upTo : Nat)
  | bootRegion
  deriving DecidableEq, Repr

/-- Space freed and not yet released (R7, R27). -/
structure Freed where
  kind : FreedKind
  /-- Tick in which it was freed (R27). -/
  freedIn : Nat
  /-- Tick from which the two ticks are counted: `freedIn`, or the last tick of ELASTIC work that may read it (R7). -/
  tick : Nat
  deriving DecidableEq, Repr

/-- A command that is decided, with its final status, while its reply waits for the tail (R64). -/
structure Decided where
  cmd : Cmd
  final : Final
  deriving DecidableEq, Repr

/-- A packet that is over: by what an ABORT names it, its opcode and the tick in which it was answered (R64). -/
structure Tracked where
  access : Nat
  stream : Nat
  seq : Nat
  epoch : Nat
  op : Nat
  tag : Nat
  tick : Nat
  deriving DecidableEq, Repr

/-- The frame sequencer (R15–R33). -/
structure Frame where
  tick : Nat := 1
  /-- Commands decided in this tick whose reply comes in its tail, oldest first (R18, R56, R64). -/
  decided : List Decided := []
  /-- The command that the Control Bar has taken from its queue and prepares (R56). -/
  preparing : Option Nat := none
  /-- Packets answered or passed over that an ABORT still finds (R64, DESIGN CHOICE, log entry 28). -/
  tracked : List Tracked := []
  /-- The cut-off of this tick has passed (R18). -/
  tail : Bool := false
  align : Align := .locked
  /-- Port from which the admission rotation starts (R19). -/
  rotation : Nat := 0
  freed : List Freed := []
  /-- Microseconds of service, advanced by the period at each boundary (R42's 60 s). -/
  elapsed : Nat := 0
  /-- Boundaries since a marker from the leader (R29). -/
  missed : Nat := 0
  freeRunTicks : Nat := 0
  /-- Consecutive ticks with a boundary error beyond 40 ns (R28). -/
  badTicks : Nat := 0
  /-- Boundary offset from the leader still to be slewed, ns (R30). -/
  slewNs : Int := 0
  /-- The best marker of this tick: its link, its content and the boundary error it shows, in ns (R28). -/
  marker : Option (Nat × Marker × Int) := none
  /-- A marker came in for this boundary, so one is forwarded (R28). -/
  forward : Bool := false
  /-- Hops from the leader (R28). -/
  hops : Nat := 0
  /-- Is the leader paced by TICK_REF_IN (R333)? -/
  leaderPaced : Bool := false
  /-- Edges in the window so far (R31), and whether the reference is in use. -/
  refEdges : Nat := 0
  refUsed : Bool := false
  refAlarm : Bool := false
  /-- TICK_OUT pulses driven (R404). -/
  tickOut : Nat := 0
  /-- The current cycle of the clock that due cycles are told by (R275, DESIGN CHOICE, log entry 91). -/
  cycle : Nat := 0
  /-- Places given in this tick's order of readiness of side-list passes (R116). -/
  scanSeq : Nat := 0
  /-- Clusters that hold an ELASTIC phase running across this tick's boundary (R209). -/
  elasticClusters : List Nat := []
  /-- Capacity charged in this tick so far (R21, R25). -/
  charged : List (Res × Nat) := []
  deriving DecidableEq, Repr

/-! ## Memory system (file 16) -/

/-- One 64 KiB page of an object, where it departs from a plain direct page (R290–R295, R305, R307). -/
structure Page where
  /-- Sectors of its fulled form; none when direct (R293). -/
  fulled : Option Nat := none
  /-- Left direct under R293 until next written. -/
  skipped : Bool := false
  /-- Tick since which it has been direct (R293). -/
  directSince : Nat := 0
  /-- A backing page stands behind this T0 page (R291): its tier, the tick it was kept, and its sectors. -/
  backing : Option (Nat × Nat × Nat) := none
  dirty : List Nat := []
  /-- A PREFETCH_PLAN in progress has yet to write it (R280). -/
  unplaced : Bool := false
  /-- Left unwritten by a plan that was aborted (R280). -/
  stale : Bool := false
  /-- Tier the page lies in, when a migration has moved it or not yet moved it (R289, R290). -/
  tier : Option Nat := none
  /-- Copied in this tick and to be switched at the next boundary, to this tier (R290). -/
  switching : Option Nat := none
  /-- Corrected errors in this scrub period (R305, R307). -/
  errors : Nat := 0
  /-- The stack it lies on, and the cause, while its retirement finds no page (R307). -/
  retireWait : Option (Nat × Nat) := none
  /-- A write waits for an expansion page (R295). -/
  expandWait : Bool := false
  /-- The stack it lies on where a retirement has taken it off its rotation (R283, R307). -/
  stack : Option Nat := none
  deriving DecidableEq, Repr, Inhabited

/-- A migration under way on an object (R289). -/
structure Migration where
  /-- WAIT 1 commands that reply when it ends, each with the pages switched since it took hold. -/
  waiters : List (Nat × Nat) := []
  tier : Nat
  keep : Bool
  /-- Pages still to move. -/
  left : List Nat
  deriving DecidableEq, Repr, Inhabited

/-- An object, or a region of an index or table (R284, R285). -/
structure Obj where
  num : Nat
  owner : Nat
  pages : Nat
  base : Nat
  tier : Nat
  fulled : Bool := false
  hint : Nat := 0
  staged : Bool := false
  spread : Nat := 0
  /-- Its home set, ascending; with SPREAD 0 none is named (R286). -/
  homes : List Nat := []
  /-- Index or table object this is a region of; 0 for a plain object. -/
  parent : Nat := 0
  /-- Its bytes, each as the difference from what the object holds where nothing has been written: the repeated `fresh`, or zeros where that is empty
  (R91, R285). -/
  data : Memory := []
  fresh : Bytes := []
  pageInfo : List (Nat × Page) := []
  poison : List Nat := []
  migration : Option Migration := none
  /-- Freed and awaiting release (R288). -/
  freed : Bool := false
  /-- The rotation of its pages over this member's stacks: from which of its pages here, and the stacks in order (R283). -/
  rotation : List (Nat × List Nat) := []
  /-- It lies on the default T2 home set since an OBJ_PLACE or EXACT_PLACE 2 without a home set (R287). -/
  lentOut : Bool := false
  deriving DecidableEq, Repr, Inhabited

/-- One memory stack (R302, R303, R307, R308). -/
structure Stack where
  inService : Bool := true
  /-- 3 for 12.8, 2 for 9.6, 1 for 6.4 Gb/s (R357). -/
  rate : Nat := 3
  temp : Nat := 0
  refresh : Nat := 1
  throttled : Bool := false
  throttleAt : Nat := 95
  sensorLost : Bool := false
  spares : Nat := 16384
  /-- Granules with corrected errors: row, object and granule of it, in pages in use, and in pages retired (R308). -/
  rowErrors : List (Nat × Nat × Nat) := []
  retiredErrors : List (Nat × Nat × Nat) := []
  /-- Rows marked for repair, and rows mapped to spare rows (R308). -/
  markedRows : List Nat := []
  repairRows : List Nat := []
  /-- Pages taken out of use under R307. -/
  lost : Nat := 0
  /-- The generator of its controller's atomic unit, whose first value the manual does not give, and the UPDATE batch it was last set for: member and command
  (R172, DESIGN CHOICE, log entry 93). -/
  gen : BitVec 64 := 0x9E3779B97F4A7C15
  batch : Option (Nat × Nat) := none
  deriving DecidableEq, Repr, Inhabited

/-- Memory-system state of the member beside its objects and stacks (R282–R311). -/
structure MemSys where
  nextSerial : Nat := 1
  nextBase : Nat := 0
  /-- Pages taken from usable T1 under R307. -/
  lostPages : Nat := 0
  /-- Pages of this member's T1 held for others. -/
  lent : Nat := 0
  /-- Bytes held for other members, by global address, and the granules of them that are poisoned (R286, R305, R315). -/
  held : Memory := []
  heldPoison : List Nat := []
  carveout : Nat := 64
  fullSaved : Nat := 0
  fullSkipped : Nat := 0
  expansionWait : Nat := 0
  backingDropped : Nat := 0
  ceCorrected : List Nat := [0, 0, 0]
  uePoisoned : Nat := 0
  pagesRetired : Nat := 0
  rowsRepaired : Nat := 0
  throttleUs : Nat := 0
  refresh2Us : Nat := 0
  refresh4Us : Nat := 0
  /-- Hinted-cache lines held: (object, line), with the keep mark (R278, R297). -/
  cache : List (Nat × Nat × Bool) := []
  /-- KEEP holds of prefetch plans: command, last tick, object, first line, lines (R280). -/
  holds : List (Nat × Nat × Nat × Nat × Nat) := []
  deriving DecidableEq, Repr

/-- A job cut into slices (R26). -/
inductive JobKind where
  | mergeIndex (index : Nat)
  | bulkLoad (index : Nat)
  | copy
  | migrate (object : Nat)
  | fillTable (table : Nat)
  | rowUpdate
  | redeliver
  | prefetch
  deriving DecidableEq, Repr, Inhabited

structure Job where
  id : Nat
  kind : JobKind
  /-- Command that waits for it, if any. -/
  cmd : Option Nat
  port : Nat
  /-- Has it had its way since the last boundary (R26)? -/
  progressed : Bool := true
  stall : Nat := 0
  cursor : Nat := 0
  count : Nat := 0
  phase : Nat := 0
  args : List Nat := []
  deriving DecidableEq, Repr, Inhabited

/-! ## Fabric (file 17) -/

inductive LinkState where
  | down | training | up4 | up2 | refused | disabled
  deriving DecidableEq, Repr

/-- One Miusk link (R312, R329, R332). -/
structure Link where
  state : LinkState := .down
  lanes : Nat := 0
  failedLanes : List Nat := []
  partner : Nat := 0
  partnerLink : Nat := 0
  latency : Nat := 0
  replays : Nat := 0
  consecutive : Nat := 0
  mask : Nat := 0x1F
  hallId : Nat := 0
  heldOut : Bool := false
  /-- Live links its partner advertised (R317). -/
  advertised : List LiveLink := []
  /-- LINK_CONTROL action taking effect at the next boundary: (action, mask). -/
  action : Option (Nat × Nat) := none
  /-- A lane to be swapped at the next boundary (R329). -/
  swapLane : Option Nat := none
  deriving DecidableEq, Repr, Inhabited

/-- A fabric packet as the switch sends it (R321): header fields, type code, and the bytes after the header's fixed part. -/
structure FabPkt where
  typ : Nat
  cls : Nat
  mcast : Bool
  dst : Nat
  pairSeq : Nat
  coord : Nat
  query : Nat
  admitTick : Nat
  deadline : Nat
  poison : Bool := false
  retry : Bool := false
  /-- TYPE_SPEC, bytes 21–31. -/
  spec : Bytes
  payload : Bytes
  members : List Nat := []
  /-- Source member of a packet in transit; none for this member's own. -/
  src : Option Nat := none
  /-- Link chosen by R317's route; none when no route exists. -/
  link : Option Nat := none
  deriving DecidableEq, Repr

/-- A packet that came early (R320) or waits its turn. -/
structure HeldPkt where
  src : Nat
  pairSeq : Nat
  cmd : Instr
  deriving DecidableEq, Repr

/-- A fabric read outstanding or answered (R319): its tag, and the data once it has come. -/
structure FabRead where
  tag : Nat
  member : Nat
  data : Option Bytes := none
  /-- The data came poisoned (R313). -/
  bad : Bool := false
  deriving DecidableEq, Repr, Inhabited

/-- Fabric membership, routes and delivery (R13, R314–R335). -/
structure Fabric where
  joined : Bool := false
  member : Nat := 0
  hallId : Nat := 0
  leader : Nat := 0
  /-- Joined members known, self included. -/
  members : List Nat := []
  /-- Becomes a member at the next boundary: its number and hall (R330). -/
  joining : Option (Nat × Nat) := none
  links : List Link := List.replicate 36 {}
  /-- Link state changed since the last boundary (R317). -/
  stale : Bool := false
  /-- Route link per destination member (R317). -/
  routes : List (Nat × Nat) := []
  /-- Next PAIR_SEQ to each destination, and expected from each source (R320). -/
  txSeq : List (Nat × Nat) := []
  rxSeq : List (Nat × Nat) := []
  held : List HeldPkt := []
  /-- Sent and not yet acknowledged: packet and resends (R320). -/
  unacked : List (FabPkt × Nat) := []
  /-- Packets that wait for room in their pair's window, oldest first; each stands in `unacked` as well (R320). -/
  backlog : List FabPkt := []
  /-- Packets the switch has sent, oldest first: the module's fabric output. -/
  sent : List FabPkt := []
  /-- Marker flits sent: link and content. -/
  markers : List (Nat × Marker) := []
  /-- CANCELs that came before their WALK: (coordinator, query, until tick) (R326). -/
  cancels : List (Nat × Nat × Nat) := []
  /-- Reads of other members that this member has sent (R319). -/
  nextTag : Nat := 0
  reads : List FabRead := []
  /-- Counters of R335. -/
  flitReplay : Nat := 0
  laneSwap : Nat := 0
  linkRetrain : Nat := 0
  pktResend : Nat := 0
  pktUnreachable : Nat := 0
  detourRoutes : Nat := 0
  redirects : Nat := 0
  mergeMismatch : Nat := 0
  badType : Nat := 0
  deriving DecidableEq, Repr

/-! ## Management (file 19, file 20, file 21) -/

/-- R359. -/
inductive ModuleState where
  | full | reduced | minimum | safe
  deriving DecidableEq, Repr

/-- Step outcomes of R357. -/
structure StepEntry where
  attempts : Nat := 0
  outcome : Nat := 0
  variant : Nat := 0
  duration : Nat := 0
  unitsOut : Nat := 0
  detail : Nat := 0
  deriving DecidableEq, Repr, Inhabited

structure StartRecord where
  start : Nat
  cause : Nat
  slot : Nat
  state : Nat
  duration : Nat
  steps : List StepEntry
  deriving DecidableEq, Repr, Inhabited

/-- The boot ledger's persistent block (R357). -/
structure Ledger where
  seq : Nat := 0
  startCount : Nat := 0
  activeSlot : Nat := 0
  lastState : Nat := 0
  failRun : List Nat := List.replicate 11 0
  minimumHeld : Bool := false
  s8Skipped : Bool := false
  member : Nat := 0
  hallId : Nat := 0
  tileHold : Nat := 0
  clusterHold : Nat := 0
  stackHold : Nat := 0
  linkHold : Nat := 0
  stackRate : List Nat := List.replicate 12 3
  repairPolicy : Nat := 1
  agingMargin : Nat := 12
  agingWarn : Nat := 25
  stackRun : List Nat := List.replicate 12 0
  linkRun : List Nat := List.replicate 36 0
  tileRun : List Nat := List.replicate 4 0
  clusterRun : List Nat := List.replicate 8 0
  throttle : List Nat := List.replicate 12 95
  /-- TRAINING: 1 KiB of stored values per stack, its contents open (PRESUMED, log entry 10). -/
  trained : List Bool := List.replicate 12 true
  deriving DecidableEq, Repr

/-- A repair record entry (R364). -/
structure RepairEntry where
  seq : Nat
  tick : Nat
  start : Nat
  kind : Nat
  cause : Nat
  unit : Nat
  spare : Nat
  detail : Nat
  deriving DecidableEq, Repr, Inhabited

/-- A firmware slot (R374, R376). -/
structure FwSlot where
  /-- 0 EMPTY, 1 STAGING, 2 VALID, 3 ACTIVE, 4 REJECTED. -/
  state : Nat := 0
  svn : Nat := 0
  version : Nat := 0
  /-- Ranges programmed since BEGIN: (offset, length). -/
  ranges : List (Nat × Nat) := []
  image : Memory := []
  imageBytes : Nat := 0
  digest : Bytes := List.replicate 48 0
  deriving DecidableEq, Repr, Inhabited

/-- An entry of the audit journal (R382), with the sector it lies in (R383). -/
structure AuditEntry where
  seq : Nat
  sector : Nat
  bytes : Bytes
  deriving DecidableEq, Repr, Inhabited

/-- An event record (R385). -/
structure EventRec where
  seq : Nat
  code : Nat
  flags : Nat
  port : Nat
  count : Nat
  first : Nat
  last : Nat
  subject : Nat
  detail : Bytes
  deriving DecidableEq, Repr, Inhabited

/-- A coalescing window (R387). -/
structure EventWindow where
  code : Nat
  subject : Nat
  port : Nat
  opened : Nat
  length : Nat
  repeats : Nat := 0
  first : Nat := 0
  last : Nat := 0
  /-- Closed, and waiting for its record (R387). -/
  closing : Bool := false
  deriving DecidableEq, Repr, Inhabited

/-- An entry of the alarm state table (R388). -/
structure AlarmEntry where
  code : Nat
  subject : Nat
  active : Bool
  acked : Bool := false
  deriving DecidableEq, Repr, Inhabited

/-- A message the management port or DOE has answered (R368, R380). -/
structure Message where
  /-- MCTP endpoint, or 0x100 for DOE on function 0. -/
  via : Nat
  typ : Nat
  bytes : Bytes
  deriving DecidableEq, Repr, Inhabited

/-- An MCTP source endpoint (R369). -/
structure Endpoint where
  eid : Nat
  nextSeq : Nat := 0
  negotiated : Option Nat := none
  replySeq : Nat := 0
  deriving DecidableEq, Repr, Inhabited

/-- SPDM responder state per transport (R380). -/
structure Spdm where
  via : Nat
  /-- Requests answered so far in DSP0274's order: 0 none, 1 version, 2 capabilities, 3 algorithms. -/
  stage : Nat := 0
  /-- Messages that a signature will cover: version, capabilities and algorithms; digests and certificates; measurements. -/
  vca : Bytes := []
  certs : Bytes := []
  meas : Bytes := []
  deriving DecidableEq, Repr, Inhabited

/-- The management core (R354–R392). -/
structure Mgmt where
  ledger : Ledger := {}
  /-- The block as written before: the other copy in flash (R356). -/
  ledgerOld : Ledger := {}
  starts : List StartRecord := []
  repairs : List RepairEntry := []
  repairSeq : Nat := 0
  moduleState : ModuleState := .full
  steps : List StepEntry := List.replicate 11 {}
  minimumSteps : Nat := 0
  /-- Firmware (R372–R376). -/
  slotA : FwSlot := {}
  slotB : FwSlot := {}
  running : Nat := 0
  rollback : Nat := 0
  /-- FW_ACTIVATE draining: its slot, command and ticks left (R375). -/
  draining : Option (Nat × Nat × Nat) := none
  restartPending : Option Nat := none
  /-- FW_STAGE BEGIN erasing, or FINISH verifying: slot and command (R374). -/
  eraseSlot : Option (Nat × Nat) := none
  verifySlot : Option (Nat × Nat) := none
  /-- Fuses and keys (R41, R372, R378, R381). -/
  key1 : Bytes := List.replicate 48 0
  key2 : Option Bytes := none
  makerKey : Bytes := List.replicate 48 0
  decommissioned : Bool := false
  repairFuses : Bytes := []
  /-- Credential slots: RSA modulus and SLH key, none when empty (R41). -/
  credentials : List (Option (Bytes × Bytes)) := [none, none, none, none]
  identity : Option Bytes := none
  identities : Nat := 0
  certificate : Bytes := []
  chain : Bytes := []
  testMode : Bool := false
  failedAnswers : Nat := 0
  /-- Microseconds of service at which the lockout ends (R42). -/
  lockout : Option Nat := none
  /-- Audit journal (R382–R384). -/
  audit : List AuditEntry := []
  auditSeq : Nat := 0
  auditHead : Bytes := List.replicate 48 0
  auditSector : Nat := 0
  auditOffset : Nat := 0
  auditReturned : Nat := 0
  auditPending : List Nat := []
  auditEntries : Nat := 0
  /-- Event journal (R385–R388). -/
  general : List EventRec := []
  alarms : List EventRec := []
  generalSeq : Nat := 1
  alarmSeq : Nat := 1
  windows : List EventWindow := []
  alarmTable : List AlarmEntry := []
  /-- Per class 0–6: records in this tick, drops, drops since its last GAP record, first and last tick of those. -/
  classNow : List Nat := List.replicate 7 0
  drops : List Nat := List.replicate 7 0
  gapDrops : List (Nat × Nat × Nat) := List.replicate 7 (0, 0, 0)
  alarmDrop : Nat := 0
  gapRecords : Nat := 0
  coalesced : Nat := 0
  /-- Loads and telemetry (R390, R391). -/
  cbLoad : Nat := 0
  mgmtLoad : Nat := 0
  cbBusy : Nat := 0
  badMsg : Nat := 0
  telemetryHalved : Nat := 0
  halved : Bool := false
  lightTicks : Nat := 0
  calmTicks : Nat := 0
  /-- Warning conditions of R402 that hold: per die sensor, and the input below or above its bounds. -/
  dieHot : List Bool := List.replicate 5 false
  vinLow : Bool := false
  vinHigh : Bool := false
  dieTemps : List Nat := List.replicate 5 0
  vinMv : Nat := 54000
  vinMw : Nat := 0
  agingWarned : List Nat := []
  /-- Repairs decided and not yet made: (unit, cause, margin) (R8, R361). -/
  swaps : List (Nat × Nat × Nat) := []
  /-- MCTP and SPDM (R368, R380). -/
  dynAddr : Nat := 0
  eid : Nat := 0
  endpoints : List Endpoint := []
  responses : List Message := []
  spdm : List Spdm := []
  deriving DecidableEq, Repr

/-- Pins and power (R395–R404). -/
structure Power where
  modEn : Bool := true
  modRstN : Bool := true
  perstN : Bool := true
  refclk : Bool := true
  vinOk : Bool := true
  /-- Rails are up. -/
  on : Bool := true
  /-- A start has begun and has not ended (R354), and the step in progress; 11 when none is. -/
  inStart : Bool := false
  startStep : Nat := 11
  pwrgd : Bool := true
  hostReadyN : Bool := false
  faultN : Bool := true
  thermtripN : Bool := true
  alertN : Bool := true
  tripLatch : Bool := false
  /-- Host link: rate code 0 to 3, width, flit, CXL.io, CXL.cache (R340). -/
  linkUp : Bool := true
  rate : Nat := 3
  width : Nat := 8
  flit : Bool := true
  cxlIo : Bool := false
  cxlCache : Bool := false
  vfEnable : Bool := true
  timeouts : Nat := 0
  deriving DecidableEq, Repr

/-! ## Indexes and searches (files 06 to 09) -/

/-- Positions of the side list's ring (R147). -/
abbrev sideRing : Nat := 262144

/-- A MERGE waiting for its snapshot (R149): entries up to this ring position, and the command. -/
structure MergeWait where
  cmd : Nat
  upTo : Nat
  merged : Nat := 0
  deriving DecidableEq, Repr, Inhabited

/-- An INSERT's or DELETE's entry as a shard holds it between admission and commit (R146, R148). -/
structure Staged where
  cmd : Nat
  /-- INSERT: reserved ring position; DELETE: none. -/
  pos : Option Nat
  slot : Nat
  key : Nat
  /-- Place of the entry in its packet. -/
  entry : Nat := 0
  reissued : Bool := false
  /-- INSERT: what preparation derived, written in the tick of admission: exact vector, outlier bytes, code, key table entry, side-list record
  (R144, R146). -/
  data : List Bytes := []
  deriving DecidableEq, Repr, Inhabited

/-- The shard of an index that this member holds (R84, R147, R155). -/
structure Shard where
  number : Nat
  /-- Object numbers of its regions (R84); 0 when absent. -/
  adj : Nat := 0
  exact : Nat := 0
  outl : Nat := 0
  codes : Nat := 0
  keys : Nat := 0
  tomb : Nat := 0
  books : Nat := 0
  proj : Nat := 0
  entry : Nat := 0
  side : Nat := 0
  /-- Slots ever issued: 0 to issued − 1 (R145). -/
  issued : Nat := 0
  head : Nat := 0
  tail : Nat := 0
  reserved : Nat := 0
  /-- Entries of the ring merged or skipped and not yet passed by head (R150). -/
  taken : List Nat := []
  /-- Released or applied positions at or beyond the tail (R145, R146). -/
  settled : List Nat := []
  staged : List Staged := []
  /-- Reclaim queue: slot, stamp F, and the tick from which its two ticks are counted (R7, R155, R156). -/
  reclaim : List (Nat × Nat × Nat) := []
  /-- Positions below this one have been released to new INSERTs (R7, R147). -/
  floor : Nat := 0
  /-- Deleted slots awaiting a sweep: (slot, boundary) (R155). -/
  deleted : List (Nat × Nat) := []
  /-- Sweep pass: P, H, cursor (R155). -/
  pass : Option (Nat × Nat × Nat) := none
  merged : Nat := 0
  forcedCount : Nat := 0
  forced : Bool := false
  /-- Parameters in force: allowance, sweep blocks, width, alpha, hop charge, hop budget (R149). -/
  allowance : Nat := 4096
  sweepBlocks : Nat := 32768
  width : Nat := 2
  alpha : Nat := 20
  hopCharge : Nat := 256
  hopBudget : Nat := 256
  waits : List MergeWait := []
  /-- Entry-point table staged for the next boundary (R153). -/
  entryStaged : Option (List Bytes) := none
  /-- Entries that head passed in each of the last 64 ticks with a slice, newest first (R145). -/
  rates : List Nat := []
  /-- The slice admitted in this tick has its insertion and hop allowances left (R26). -/
  slice : Option (Nat × Nat) := none
  /-- The tick's slice has run (R149). -/
  ran : Bool := false
  /-- Boundary of the side list as pass readers see it (R116). -/
  scanHead : Nat := 0
  scanTail : Nat := 0
  /-- When a pass became ready, as a place in this tick's order of readiness (R116). -/
  ready : Option Nat := none
  /-- Scan pass: walks it covers, and the bounds it reads; none when idle (R116). -/
  passWalks : Option (List Nat) := none
  passHead : Nat := 0
  passTail : Nat := 0
  scanCycles : Nat := 0
  deriving DecidableEq, Repr, Inhabited

/-- An index (R81). -/
structure Index where
  num : Nat
  owner : Nat
  dims : Nat
  sketch : Nat
  degree : Nat
  subspaces : Nat
  form : Nat
  metric : Nat
  outFmt : Nat
  outDims : List Nat
  slots : Nat
  mode : Nat
  first : Nat
  count : Nat
  partitions : Nat
  shard : Option Shard
  /-- Object number of the routing table copy, and the boundary b from which it is in force (R99, R160). -/
  route : Nat := 0
  routeSince : Nat := 0
  /-- A new table written, to take effect at the next boundary (R160): the command that wrote it. -/
  routeStaged : Option (Bytes × Option Nat) := none
  /-- BULK_LOAD running (R159): staged projection, codebooks, routing table. -/
  loading : Bool := false
  staged : List Bytes := []
  /-- BULK_LOAD: records of this shard's staged entries, by slot, and its table of entry points so far (R159). -/
  loadRecs : List Bytes := []
  loadEntry : List Bytes := []
  freed : Bool := false
  deriving DecidableEq, Repr, Inhabited

/-- A heap or pool entry (R108), with the record through which it was reached (R150). -/
structure WEntry where
  slot : Nat
  dist : Nat
  side : Bool := false
  seed : Bool := false
  pendingTomb : Bool := false
  deriving DecidableEq, Repr, Inhabited

/-- R107 STATE. -/
inductive SlotState where
  | seeding | walking | stopped | paused | ended
  deriving DecidableEq, Repr

/-- One walk slot's context (R107). -/
structure WSlot where
  engine : Nat
  slot : Nat
  state : SlotState := .seeding
  hops : Nat := 0
  heap : List WEntry := []
  pool : List WEntry := []
  visited : List Nat := []
  /-- Why it stopped: 1 exhausted or converged, 2 budget, 3 cut-off, 4 its context was uncorrectable (R110, R120). -/
  why : Nat := 0
  recordsSeen : Nat := 0
  filterPasses : Nat := 0
  visitedMarks : Nat := 0
  /-- Node whose block is being fetched, and its hop register (R12). -/
  hop : Option (Nat × Nat) := none
  deriving DecidableEq, Repr, Inhabited

/-- A candidate in rescoring (R121, R133). -/
structure Cand where
  slot : Nat
  side : Bool
  dup : Bool := false
  code : Word := 0
  exact : Option Word := none
  /-- It is among the E best by codebook score (R125). -/
  chosen : Bool := false
  /-- Its exact reads are outstanding (R131). -/
  waiting : Bool := false
  removed : Bool := false
  deriving DecidableEq, Repr, Inhabited

/-- Phase of a shard-walk on this member. -/
inductive WalkPhase where
  | placed | walking | paused | ended | exact | sent
  deriving DecidableEq, Repr

/-- A shard-walk placed on this member (R100, R109–R134). -/
structure Walk where
  id : Nat
  /-- Coordinator member and query number (R107). -/
  coord : Nat
  query : Nat
  index : Nat
  shard : Nat
  k : Nat
  width : Nat
  budget : Nat
  strict : Bool
  degrade : Bool
  escalation : Nat
  exactCount : Nat
  charge : Nat
  sketch : Bytes
  predicate : Bytes
  tagSet : Bytes
  vector : Bytes
  admitTick : Nat
  deadline : Nat
  /-- Tick in which it is placed (R23). -/
  tick : Nat
  phase : WalkPhase := .placed
  continued : Bool := false
  escalated : Bool := false
  scanned : Bool := false
  cancelled : Bool := false
  truncated : Bool := false
  faultTier : Option Nat := none
  walkHops : Nat := 0
  usedNow : Nat := 0
  slots : List WSlot := []
  cause : Nat := 0
  cands : List Cand := []
  cheaper : Bool := false
  /-- Command of this member that it serves, when it is the coordinator. -/
  cmd : Option Nat := none
  /-- Its port and channel slot, then (R45, R119). -/
  port : Nat := 0
  chan : Nat := 0
  /-- Entry points in force at its placement boundary (R109). -/
  seeds : List Bytes := []
  /-- Tick in which its context was freed, once it has ended, and the tick from which its two ticks are counted (R7). -/
  freedIn : Option Nat := none
  freeTick : Nat := 0
  /-- FLAGS.NO_ESCALATION (R107). -/
  noEscalation : Bool := false
  deriving DecidableEq, Repr, Inhabited

/-- What the coordinator knows of one shard of a query (R138). -/
inductive ShardAnswer where
  | waiting | missing
  | list (l : ListMsg)
  deriving DecidableEq, Repr

/-- One query at its coordinator (R135–R141). -/
structure Query where
  number : Nat
  cmd : Nat
  index : Nat
  metric : Nat
  k : Nat
  shards : List (Nat × ShardAnswer)
  /-- Channel slot, port, and the sink section's address, as bound at admission (R70, R142). -/
  chan : Nat := 0
  port : Nat := 0
  sink : Nat := 0
  strict : Bool := true
  degrade : Bool := true
  admitTick : Nat := 0
  deadline : Nat := 1
  /-- Causes of PARTIAL that the query brings from its encoder phase, as R61's DETAIL bits (R141, R231). -/
  bits : Nat := 0
  /-- Walk slots charged to its port while no local walk carries them (R45). -/
  slots : Nat := 0
  /-- Final status, once merged, and the section's writes (R141). -/
  result : Option Final := none
  deriving DecidableEq, Repr, Inhabited

/-- Units in service (R2, R355, R360, R366). -/
structure Units where
  /-- Tiles in service. -/
  tiles : List Nat := [0, 1, 2, 3]
  clusters : List Nat := [0, 1, 2, 3, 4, 5, 6, 7]
  /-- Active engines per tile. -/
  engines : List Nat := [16, 16, 16, 16]
  /-- Engines marked out, by number 0 to 63. -/
  enginesOut : List Nat := []
  /-- Tiles whose spare engine is unused. -/
  spareEngines : List Nat := [0, 1, 2, 3]
  /-- Unused spare columns per cluster. -/
  spareColumns : List Nat := List.replicate 8 16
  /-- Clusters to be marked out at the first boundary at which they are idle (R362). -/
  clustersLeaving : List Nat := []
  deriving DecidableEq, Repr

/-! ## Tables (file 14) -/

/-- A table as this member holds it (R247–R250). -/
structure Table where
  num : Nat
  owner : Nat := 0
  /-- E, elements per row. -/
  elems : Nat := 32
  /-- Format code (R162). -/
  fmt : Nat := 0
  opt : Bool := false
  rows : Nat := 1
  /-- 0 single, 1 replicated, 2 sharded; PLACE 3 is resolved at definition (R247). -/
  place : Nat := 0
  spare : Nat := 0
  first : Nat := 0
  count : Nat := 1
  /-- Row bytes and slot bytes of R248. -/
  rowBytes : Nat := 0
  slotBytes : Nat := 0
  /-- Objects of this member's row heap and row directory; 0 when it holds no copy or shard (R250). -/
  heap : Nat := 0
  dir : Nat := 0
  /-- Rows of the copy or shard here. -/
  rowsHere : Nat := 0
  /-- Free slots here as runs (first slot, slots) (R260). -/
  freeRuns : List (Nat × Nat) := []
  /-- Boundary from which it is usable; none while TABLE_DEFINE fills it (R247). -/
  usableFrom : Option Nat := none
  freed : Bool := false
  deriving DecidableEq, Repr, Inhabited

/-- A part of a row read: the bag, its summed weight, and how many occurrences it sums (R256). -/
structure GTerm where
  bag : Nat
  weight : Word
  occurrences : Nat
  deriving DecidableEq, Repr, Inhabited

/-- Where a row read stands. -/
inductive ReadState where
  /-- Directory entry not yet read; row not yet read; arrived; dropped (R257). -/
  | entry | row | arrived | dropped
  deriving DecidableEq, Repr

/-- One distinct row of one window (R255). -/
structure GRead where
  window : Nat
  row : Nat
  /-- Member whose copy or shard is read. -/
  member : Nat
  occurrences : Nat
  terms : List GTerm
  state : ReadState := .entry
  /-- Fabric reads outstanding for it (R319), and the slot its entry named. -/
  tags : List Nat := []
  loc : Nat := 0
  /-- Whether the row itself has been read, its entry having named the slot (ROWS_FETCHED, R257). -/
  made : Bool := false
  vals : List Word := []
  deriving DecidableEq, Repr

/-- An accumulator of a bag: one compensated sum per element, and the elements that took a value that is no number. -/
structure BagAcc where
  bag : Nat
  sums : List Comp
  rows : Nat := 0
  open_ : List Nat := []
  deriving DecidableEq, Repr

/-- A GATHER batch under way (R253–R257). -/
structure Gather where
  cmd : Nat
  table : Nat
  pool : Nat
  bf16 : Bool
  bags : Nat
  indices : Nat
  /-- Engine each window was dealt to (R255). -/
  engines : List Nat
  reads : List GRead
  /-- Windows whose rows have been added to their bags. -/
  merged : List Nat := []
  acc : List BagAcc := []
  ranges : Nat := 0
  clamps : Nat := 0
  adds : Nat := 0
  /-- Stream named late: 0x200 + engine (R268). -/
  late : Option Nat := none
  deriving DecidableEq, Repr

/-- One entry of a row update (R258, R265). -/
structure UpdEntry where
  /-- REPORT byte so far; none while it has not been decided. -/
  outcome : Option Nat := none
  deriving DecidableEq, Repr, Inhabited

/-- A packet an update has sent to another member and its entries (R265). -/
structure UpdSent where
  member : Nat
  pairSeq : Nat
  entries : List Nat
  deriving DecidableEq, Repr, Inhabited

/-- A row update under way (R258–R265). -/
structure Update where
  cmd : Nat
  table : Nat
  entries : List UpdEntry
  /-- Packets not yet acknowledged. -/
  sent : List UpdSent := []
  /-- The seed of its batch (R172). -/
  seed : Nat := 0
  /-- Replacements of a replicated table that swap at the next boundary: entry, local row, new slot (R261). -/
  swaps : List (Nat × Nat × Nat) := []
  deriving DecidableEq, Repr, Inhabited

/-! ## Kernels and clusters (files 11, 12, 13, 15) -/

/-- A kernel loaded on a channel (R208, R210, R211, R229). -/
structure Kernel where
  /-- Number of the load, by which phases name it. -/
  id : Nat
  /-- Channel slot, and the port of that channel, which is charged for the instruction store (R45). -/
  slot : Nat
  port : Nat := 0
  digest : Bytes := []
  image : Bytes := []
  /-- Physical clusters, in logical order (R208). -/
  clusters : List Nat := []
  /-- Bound of each phase in cycles (R223). -/
  bounds : List Nat := []
  /-- KERNEL_UNLOAD or DESTROY has taken hold (R229, R73). -/
  leaving : Bool := false
  /-- Tick of the last reply of a run admitted before it left, or of the unload. -/
  lastReply : Nat := 0
  deriving DecidableEq, Repr, Inhabited

/-- What an address register's binding stands for (R210, R228, R230). -/
inductive BindTo where
  | object (num : Nat)
  /-- The channel's result sink: host address and bytes. -/
  | sink (base bytes : Nat)
  /-- An encoder's features and its query buffer (R230). -/
  | features
  | query (bytes : Nat)
  deriving DecidableEq, Repr

/-- A phase placed on a cluster and not yet started (R209). -/
structure PhaseWait where
  cmd : Nat
  kernel : Nat
  phase : Nat
  tick : Nat
  deriving DecidableEq, Repr, Inhabited

/-- The phase in progress on a cluster (R207). -/
structure PhaseRun where
  cmd : Nat
  kernel : Nat
  phase : Nat
  logical : Nat
  binds : List (BindTo × Nat) := []
  /-- Re-run allowance left (R182). -/
  rerun : Nat := 0
  /-- Earliest late stream, and every stream named late (R276). -/
  late : Option Nat := none
  named : List Nat := []
  /-- PHASE or END has issued (R207). -/
  ending : Bool := false
  /-- Stochastic generator (R172). -/
  gen : BitVec 64 := 0
  /-- Cycle at which the phase started (R275). -/
  since : Nat := 0
  deriving DecidableEq, Repr

/-- A ring's run-time state (R274). -/
structure Ring where
  num : Nat
  active : Bool := false
  stopped : Bool := false
  /-- Binding and offset of its stream (R217). -/
  bind : Option Nat := none
  offset : Nat := 0
  len : Nat := 0
  /-- Which stream of this ring it is: the model's own count in place of each tag's one-bit generation (R270, DESIGN CHOICE, log entry 91). -/
  gen : Nat := 0
  /-- Cycle at which the stream started (R225, R275). -/
  since : Nat := 0
  /-- Input: slots issued, slots released, and the slots that have arrived. A slot is issued when each of its transfers has a tag. -/
  issued : Nat := 0
  /-- Transfers of the slot after those that have been granted a tag (R269, R275); an output ring's, of the slot it writes back next. -/
  granted : Nat := 0
  /-- Transfers of the oldest outstanding slot that have come back before its last were granted: a slot may need more than 512 tags (R269). -/
  back : Nat := 0
  head : Nat := 0
  /-- Cycles at which the latest slots were released, by slot (R225, R275). -/
  freedAt : List (Nat × Nat) := []
  slots : List (Nat × Bytes) := []
  /-- Indexed ring: index words taken so far (R272). -/
  words : List Nat := []
  /-- Output: bytes not yet written back, slots written back, slots acknowledged. -/
  buf : Bytes := []
  wrote : Nat := 0
  acked : Nat := 0
  deriving DecidableEq, Repr, Inhabited

/-- A Batt entry (R190), with the scale product and per-tile corrections it takes at its drain (R192). -/
structure BEntry where
  acc : Int := 0
  side : Word := 0
  s : Word := 0
  c : Word := 0
  f : Word := 0x3F800000
  corr : Int := 0
  deriving DecidableEq, Repr, Inhabited

/-- A Batt tile that is not FRESH (R190, R191, R195). -/
structure Tile where
  set : Nat
  index : Nat
  float : Bool
  /-- Set by a preload alone: its mode is that of the first promotion (R194). -/
  preloaded : Bool := false
  accExp : Int := 0
  halvings : Nat := 0
  rows : List (List BEntry)
  deriving DecidableEq, Repr, Inhabited

/-- A Crown list record (R240). -/
structure CList where
  row : Nat
  entries : List (Nat × Word)
  seen : Nat
  tied : Nat
  m : Word
  sumSel : Word
  sumOut : Word
  op : Nat
  exp : Bool
  dup : Bool := false
  radix : Bool := false
  part : Bool := false
  deriving DecidableEq, Repr, Inhabited

/-- The open SEL span of a cluster's Crown (R237): values (tensor row, column, value) in delivery order. -/
structure Span where
  op : Nat
  k : Nat
  ring : Nat
  exp : Bool
  split : Option Nat
  values : List (Nat × Nat × Word) := []
  deriving DecidableEq, Repr, Inhabited

/-- A partial of a split tile on its way, or arrived: the command, phase and split group it belongs to, its sender and its tile (R199). -/
structure Partial where
  cmd : Nat
  phase : Nat
  group : Nat
  src : Nat
  tile : Nat
  arrived : Bool := false
  values : List (List Word)
  deriving DecidableEq, Repr, Inhabited

/-- A unit's operation, issued and not complete, with the registers it read at issue (R215): a drain's row and column and its two addresses; an
array operation's steps, a selection's K, a move's slots in `row`; a START's address in `at_`. -/
structure Issued where
  op : KOp
  row : Nat := 0
  col : Nat := 0
  at_ : Option Nat × Nat := (none, 0)
  list : Option Nat × Nat := (none, 0)
  /-- A word of the Batt or of the Crown's selection store that it reads is uncorrectable (R205, R235). -/
  bad : Bool := false
  /-- Cycle at which it issued (R276). -/
  since : Nat := 0
  deriving DecidableEq, Repr

/-- A look-up table of R179, as what it was built from: formats and cells per output row of its LUT_BUILD, groups' codebook length, reduction length, the
activation with its scale records, and the codebooks. -/
structure Lut where
  fmtA : Nat
  fmtB : Nat
  lines : Nat
  glen : Nat
  k : Nat
  act : Bytes
  recs : Bytes
  base : Nat
  books : Bytes
  deriving DecidableEq, Repr

/-- A tile that has been drained and whose conversion waits for the other tiles that its scales or its channels are chosen from (R203): tensor row and
column of its first entry, the values of stage 5 row by row, and the static scale records it came with. -/
structure HeldTile where
  odesc : Nat
  row : Nat
  col : Nat
  vals : List (List Word)
  given : Bytes
  deriving DecidableEq, Repr

/-- Tags that a stream left outstanding, at a START over it or at the end of its phase (R270, R277): ring, mover, the model's own number of the stream (its
generation), whether they are writes, the tags of each outstanding slot; whether the stage has ended, and whether a boundary has retired them since. -/
structure Owed where
  ring : Nat
  mover : Nat
  gen : Nat
  output : Bool
  tags : List Nat
  ended : Bool := false
  retired : Bool := false
  deriving DecidableEq, Repr, Inhabited

/-- One cluster: its sequencer, rings, Batt and Crown. -/
structure Cluster where
  queue : List PhaseWait := []
  run : Option PhaseRun := none
  pc : Nat := 0
  /-- Slots of the bundle at pc that have issued: 1 CTRL, 2 MOVE0, 3 MOVE1, 4 ARRAY, 5 EPI, 6 SEL, 7 ADDR (R227's numbering). -/
  issued : List Nat := []
  /-- What the CTRL slot at pc has come to: LOOP's trips, 1 for a BRANCH or BREAK taken. -/
  taken : Nat := 0
  /-- Loops entered, innermost first: first bundle, last bundle, counter (R216). -/
  loops : List (Nat × Nat × Nat) := []
  a : List (Option Nat × Nat) := List.replicate 32 (none, 0)
  x : List Word := List.replicate 16 0
  l : List Nat := List.replicate 16 0
  p : List Bool := true :: List.replicate 7 false
  rings : List Ring := (List.range 16).map fun i => { num := i }
  /-- Tags of streams that are over (R270, R277). -/
  owed : List Owed := []
  /-- Operations issued and not complete, by unit (R215, R223): at most one each. -/
  busy : List Issued := []
  /-- The active Batt set (R197). -/
  active : Nat := 0
  tiles : List Tile := []
  /-- The look-up table (R179). -/
  lut : Option Lut := none
  /-- Tiles drained and not yet converted, in the order of their drains (R203). -/
  held : List HeldTile := []
  span : Option Span := none
  rowMax : List (Nat × Word) := []
  /-- Split records held for COLLECT: command, phase and split group, cluster, record (R244); and which members have delivered. -/
  records : List ((Nat × Nat × Nat) × Nat × CList) := []
  delivered : List ((Nat × Nat × Nat) × Nat) := []
  partials : List Partial := []
  /-- Atomic adds sent and not acknowledged (R200). -/
  adds : Nat := 0
  /-- Channel slot of the last phase here: what a late response counts against (R281). -/
  owner : Option Nat := none
  deriving DecidableEq, Repr, Inhabited

/-! ## The module -/

/-- The state of the module. `pending` is the queue of commands that wait, first in, first out. -/
structure State where
  pending : List Instr := []
  /-- The model's own counter of free values drawn so far (DESIGN CHOICE, log entry 4). -/
  free : Nat := 0
  power : Power := {}
  frame : Frame := {}
  ports : List Port := []
  regions : List Region := []
  windows : List Window := []
  channels : List Channel := []
  /-- Member-wide and per-port settings (R409). -/
  settings : List (Nat × SetVal) := []
  cmds : List Cmd := []
  nextId : Nat := 0
  jobs : List Job := []
  nextJob : Nat := 0
  objs : List Obj := []
  mem : MemSys := {}
  stackList : List Stack := List.replicate 12 {}
  indexes : List Index := []
  walks : List Walk := []
  nextWalk : Nat := 0
  queries : List Query := []
  nextQuery : Nat := 0
  tables : List Table := []
  gathers : List Gather := []
  updates : List Update := []
  kernels : List Kernel := []
  clusters : List Cluster := List.replicate 8 {}
  /-- Walk engines in service and spare per tile; units out (R2, R360). -/
  units : Units := {}
  fabric : Fabric := {}
  mgmt : Mgmt := {}
  hostMem : Memory := []
  /-- Host-bound writes of the step in progress, oldest first; empty between steps (R59). -/
  posted : List HostPost := []
  /-- MSI-X messages sent, oldest first: (port, vector, address, data) (R348). -/
  msixSent : List (Nat × Nat × Nat × Nat) := []
  deriving DecidableEq, Repr

/-! ## Reset -/

/-- Defaults of the member-wide settings (R409). -/
def memberDefaults : List (Nat × Nat) :=
  [(0x0101, 250), (0x0102, 10), (0x0103, 0), (0x0104, 0), (0x0105, 16),
   (0x0401, 64), (0x0402, 8), (0x0403, 4), (0x0404, 16384), (0x0405, 0xFFFFFFFF), (0x0406, 24), (0x0407, 16),
   (0x0501, 1), (0x0502, 12), (0x0503, 25), (0x0601, 64),
   (0x0611, 64), (0x0612, 64), (0x0613, 16), (0x0614, 64), (0x0615, 32), (0x0616, 16)]

/-- Defaults of one port's settings (R46's Per-port settings table). -/
def portDefaults (p : Nat) : List (Nat × Nat) :=
  (List.range 7).map fun i =>
    (0x0200 + 0x10 * p + i, if i = 0 then (if p = 0 then 7 else 1) else if p = 0 then 0xFFFFFFFF else 0)

/-- Every setting outside channels at its default, in ID order, in force from tick 0 (R409). -/
def settingsReset : List (Nat × SetVal) :=
  ((memberDefaults.take 5) ++ (List.range 8).flatMap portDefaults ++ memberDefaults.drop 5).map fun p => (p.1, { value := p.2 })

/-- The module right after a start with every unit present: standalone, tick 1 begun (R15, R356, R359; DESIGN CHOICE, log entry 2). -/
def State.reset : State where
  ports := List.replicate 9 {}
  settings := settingsReset
  fabric := { members := [0] }
  mgmt := { ledger := { startCount := 1 }
            slotA := { state := 3, version := 1 }
            credentials := [some (Config.deviceBytes "credential 0 RSA" 384, Config.deviceBytes "credential 0 SLH" 48), none, none, none]
            identity := some (Config.deviceBytes "identity digest" 48)
            key1 := Config.deviceBytes "firmware key digest" 48
            makerKey := Config.deviceBytes "maker key digest" 48
            identities := 1 }

end Sys2Proof.Machine
end

