-- ==== Sys2Proof/Machine/Ops.lean ====
section
/-! DEFINITION. The named operations over the module's state that every family of commands shares: the shape of one
command's effect, free values, ports, host memory, replies, events, alarms, the audit journal, quotas. -/

namespace Sys2Proof.Machine

/-! ## The shape of an effect -/

/-- Host memory after a list of writes, oldest first. -/
def postAll (m : Memory) : List HostPost → Memory
  | [] => m
  | w :: ws => postAll (m.write w.addr w.data) ws

/-- One command's effect: what `f` makes of the state, with the queue as it stood and the host-bound writes that `f` posted
carried out in order (R59). -/
def act (f : State → State) (s : State) : Host.Outcome State Fault Refusal :=
  let t := f s
  .next { t with pending := s.pending, hostMem := postAll s.hostMem t.posted, posted := [] }

/-- Is the module up: rails on, start complete? -/
def State.up (s : State) : Bool := s.power.on && !s.power.inStart

/-- An effect that only a running module has; with the rails off nothing on the module runs (file 21). -/
def whenUp (f : State → State) (s : State) : State := if s.up then f s else s

/-- The management core serves its port from the end of S2, or from entry to SAFE (R367). -/
def State.mgmtUp (s : State) : Bool := s.power.on && (!s.power.inStart || [2, 3].contains (s.mgmt.steps.getD 2 {}).outcome)

/-- An effect of the management core on its own port. -/
def whenServed (f : State → State) (s : State) : State := if s.mgmtUp then f s else s

/-- Host memory as a read in the middle of a step sees it. -/
def State.hostView (s : State) : Memory := postAll s.hostMem s.posted

/-! ## Field updates -/

def State.tick (s : State) : Nat := s.frame.tick
def State.setFrame (f : Frame → Frame) (s : State) : State := { s with frame := f s.frame }
def State.setMgmt (f : Mgmt → Mgmt) (s : State) : State := { s with mgmt := f s.mgmt }
def State.setPower (f : Power → Power) (s : State) : State := { s with power := f s.power }
def State.setFabric (f : Fabric → Fabric) (s : State) : State := { s with fabric := f s.fabric }
def State.setMem (f : MemSys → MemSys) (s : State) : State := { s with mem := f s.mem }
def State.setUnits (f : Units → Units) (s : State) : State := { s with units := f s.units }
def State.port (s : State) (p : Nat) : Port := s.ports.getD p {}
def State.setPort (p : Nat) (f : Port → Port) (s : State) : State := { s with ports := modifyAt s.ports p f }
def State.setObj (n : Nat) (f : Obj → Obj) (s : State) : State := { s with objs := modifyIf s.objs (fun o => o.num == n) f }
def State.obj (s : State) (n : Nat) : Option Obj := s.objs.find? fun o => o.num == n && !o.freed
def State.setChan (slot : Nat) (f : Channel → Channel) (s : State) : State :=
  { s with channels := modifyIf s.channels (fun c => c.slot == slot) f }
def State.chan (s : State) (slot : Nat) : Option Channel := s.channels.find? fun c => c.slot == slot
def State.setCmd (id : Nat) (f : Cmd → Cmd) (s : State) : State := { s with cmds := modifyIf s.cmds (fun c => c.id == id) f }
def State.cmd (s : State) (id : Nat) : Option Cmd := s.cmds.find? fun c => c.id == id
def State.setJob (id : Nat) (f : Job → Job) (s : State) : State := { s with jobs := modifyIf s.jobs (fun j => j.id == id) f }
def State.index (s : State) (n : Nat) : Option Index := s.indexes.find? fun x => x.num == n && !x.freed
def State.setIndex (n : Nat) (f : Index → Index) (s : State) : State := { s with indexes := modifyIf s.indexes (fun x => x.num == n) f }
def State.setShard (n : Nat) (f : Shard → Shard) (s : State) : State := s.setIndex n fun x => { x with shard := x.shard.map f }
def State.walk (s : State) (id : Nat) : Option Walk := s.walks.find? fun w => w.id == id
def State.setWalk (id : Nat) (f : Walk → Walk) (s : State) : State := { s with walks := modifyIf s.walks (fun w => w.id == id) f }
def State.setQuery (n : Nat) (f : Query → Query) (s : State) : State := { s with queries := modifyIf s.queries (fun x => x.number == n) f }
def State.setLink (l : Nat) (f : Link → Link) (s : State) : State :=
  { s with fabric := { s.fabric with links := modifyAt s.fabric.links l f } }
def State.setStack (k : Nat) (f : Stack → Stack) (s : State) : State := { s with stackList := modifyAt s.stackList k f }
def State.setCluster (k : Nat) (f : Cluster → Cluster) (s : State) : State := { s with clusters := modifyAt s.clusters k f }

/-- Change the persistent block: it goes to the copy with the lower SEQ, carrying SEQ plus one (R356). -/
def writeLedger (f : Ledger → Ledger) (s : State) : State :=
  s.setMgmt fun m => { m with ledgerOld := m.ledger, ledger := { f m.ledger with seq := (m.ledger.seq + 1) % 2 ^ 32 } }

/-- Add `n` at position `i` of a list of counters, saturating at 2^64 − 1 (R185, R311, R335). -/
def bump (i n : Nat) (l : List Nat) : List Nat := modifyAt l i fun x => satAdd x n

/-- A number the manual leaves open, and the state with the draw counted (DESIGN CHOICE, log entry 4). -/
def draw (s : State) : Nat × State := (Config.freeNat s.free, { s with free := s.free + 1 })

/-! ## Settings -/

/-- The setting's value in force (R76). -/
def State.setting (s : State) (sid : Nat) : Nat := ((assocGet sid s.settings).map SetVal.value).getD 0
def State.period (s : State) : Nat := s.setting 0x0101
def State.guard (s : State) : Nat := s.setting 0x0102
/-- A channel setting's value in force (R78). -/
def Channel.setting (c : Channel) (sid : Nat) : Nat := ((assocGet sid c.settings).map SetVal.value).getD 0
/-- PORT_RIGHTS in force (R39). -/
def State.rights (s : State) (p : Nat) : Nat := if p < 8 then s.setting (0x0200 + 0x10 * p) else 7
/-- QUOTAq_LIMIT in force (R45). -/
def State.quota (s : State) (p q : Nat) : Nat := if p < 8 then s.setting (0x0201 + 0x10 * p + q) else 0xFFFFFFFF
/-- QUOTAq_USED. -/
def State.usedOf (s : State) (p q : Nat) : Nat := (s.port p).used.getD q 0
/-- Does the quota allow `n` more (0xFFFF_FFFF is no limit, R36)? -/
def State.quotaAllows (s : State) (p q n : Nat) : Bool := s.quota p q == 0xFFFFFFFF || decide (s.usedOf p q + n ≤ s.quota p q)
/-- Charge or refund a resource (R45). -/
def chargeQuota (p q n : Nat) (s : State) : State := s.setPort p fun x => { x with used := modifyAt x.used q (· + n) }
def refundQuota (p q n : Nat) (s : State) : State := s.setPort p fun x => { x with used := modifyAt x.used q (· - n) }
/-- PCB_STATUS.OVER_QUOTA (R46). -/
def State.overQuota (s : State) (p : Nat) : Bool :=
  (List.range 6).any fun q => s.quota p q != 0xFFFFFFFF && decide (s.quota p q < s.usedOf p q)

/-! ## Host memory and regions -/

/-- Does the region hold `n` bytes at `a`? -/
def Region.holds (r : Region) (p a n : Nat) : Bool := r.port == p && decide (r.base ≤ a) && decide (a + n ≤ r.base + r.bytes)
/-- The port's region that holds a host address range (R341). -/
def State.regionAt (s : State) (p a n : Nat) : Option Region := s.regions.find? fun r => r.holds p a n
/-- The range lies in a region of the port that is not suspended (R341, R352). -/
def State.reachable (s : State) (p a n : Nat) : Bool := match s.regionAt p a n with
  | some r => !r.suspended
  | none => false
/-- Do a region and a range share a byte? -/
def Region.overlaps (r : Region) (p a n : Nat) : Bool := r.port == p && decide (r.base < a + n) && decide (a < r.base + r.bytes)

/-- One write to host memory: discarded and counted when its region is released or suspended (R343, R352). -/
def hostPost (p : Nat) (w : HostPost) (s : State) : State :=
  if w.data.isEmpty then s
  else if s.reachable p w.addr w.data.length then { s with posted := s.posted ++ [w] }
  else s.setPort p fun x => { x with hostDiscard := min (x.hostDiscard + 1) 0xFFFFFFFF }

def hostPosts (p : Nat) (ws : List HostPost) (s : State) : State := ws.foldl (fun t w => hostPost p w t) s

/-! ## Events, alarms (R385–R388) -/

/-- Put a record in the general ring, dropping the oldest beyond 917,504 (R385). -/
def putGeneral (code flags port count first last subject : Nat) (detail : Bytes) (s : State) : State :=
  s.setMgmt fun m => { m with
    general := (if m.general.length < 917504 then m.general else m.general.drop 1) ++ [⟨m.generalSeq, code, flags, port, count, first, last, subject, detail⟩]
    generalSeq := m.generalSeq + 1 }

/-- Is the alarm of a record acknowledged or cleared (R388)? -/
def Mgmt.settled (m : Mgmt) (r : EventRec) : Bool :=
  match m.alarmTable.find? fun e => e.code == r.code && e.subject == r.subject with
  | some e => e.acked || !e.active
  | none => true

/-- Drop one record of a full alarm ring: the oldest whose alarm is settled, else the oldest (R388). -/
def Mgmt.dropAlarm (m : Mgmt) : Mgmt :=
  if m.alarms.length < 131072 then m
  else match m.alarms.find? m.settled with
    | some r => { m with alarms := m.alarms.erase r, alarmDrop := satAdd m.alarmDrop 1 }
    | none => { m with alarms := m.alarms.drop 1, alarmDrop := satAdd m.alarmDrop 1 }

/-- Put a record in the alarm ring (R385, R388). -/
def putAlarm (code flags port count first last subject : Nat) (detail : Bytes) (s : State) : State :=
  s.setMgmt fun m => let m := m.dropAlarm
    { m with alarms := m.alarms ++ [⟨m.alarmSeq, code, flags, port, count, first, last, subject, detail⟩], alarmSeq := m.alarmSeq + 1 }

/-- LOG_LIMIT of an event class (R386); class 0 has none. -/
def State.logLimit (s : State) (cls : Nat) : Nat := s.setting (0x0610 + cls)

/-- A class's GAP record, when it has dropped events since its last one (R386). -/
def putGap (cls : Nat) (s : State) : State :=
  match s.mgmt.gapDrops.getD cls (0, 0, 0) with
  | (0, _, _) => s
  | (n, first, last) =>
    (putGeneral (0x1000 * cls) 2 0xFF n first last 0 [] s).setMgmt fun m =>
      { m with gapDrops := modifyAt m.gapDrops cls (fun _ => (0, 0, 0)), gapRecords := satAdd m.gapRecords 1 }

/-- Write a record of a class, charged against its limit (R386). -/
def putRecord (cls code flags port count first last subject : Nat) (detail : Bytes) (s : State) : State :=
  if cls = 0 then putAlarm code flags port count first last subject detail s
  else (putGeneral (0x1000 * cls + code) flags port count first last subject detail (putGap cls s)).setMgmt fun m =>
    { m with classNow := modifyAt m.classNow cls (· + 1) }

/-- An event occurs: it opens or joins a coalescing window, is written, or is dropped (R386, R387). -/
def logEvent (cls code port subject : Nat) (detail : Bytes) (s : State) : State :=
  let full := 0x1000 * cls + code
  match s.mgmt.windows.find? fun w => w.code == full && w.subject == subject && !w.closing with
  | some _ => s.setMgmt fun m => { m with
      windows := modifyIf m.windows (fun w => w.code == full && w.subject == subject && !w.closing) fun w =>
        { w with repeats := w.repeats + 1, first := if w.repeats = 0 then s.tick else w.first, last := s.tick }
      coalesced := satAdd m.coalesced 1 }
  | none =>
    if cls ≠ 0 ∧ s.logLimit cls ≤ s.mgmt.classNow.getD cls 0 then
      s.setMgmt fun m => { m with
        drops := bump cls 1 m.drops
        gapDrops := modifyAt m.gapDrops cls fun g => (g.1 + 1, if g.1 = 0 then s.tick else g.2.1, s.tick) }
    else
      (putRecord cls code 0 port 1 s.tick s.tick subject detail s).setMgmt fun m => { m with
        windows := if m.windows.length < 1024 then m.windows ++ [{ code := full, subject := subject, port := port, opened := s.tick, length := s.setting 0x0601 }]
                   else m.windows }

/-- An event that is no alarm, by its name (R386's Event classes table). -/
def event (cls : Nat) (name : String) (port subject : Nat) (s : State) : State :=
  logEvent cls (Config.eventCode name % 4096) port subject [] s

/-- Raise an alarm (R388): a state entry, a record, and vector 3 of port 0 due (R348). -/
def raiseAlarm (code subject : Nat) (s : State) : State :=
  if s.mgmt.alarmTable.any fun e => e.code == code && e.subject == subject && e.active then s
  else
    let s := logEvent 0 code 0xFF subject [] s
    let s := s.setMgmt fun m =>
      let t := m.alarmTable.filter fun e => !(e.code == code && e.subject == subject)
      let e : AlarmEntry := { code := code, subject := subject, active := true }
      if t.length < 1024 then { m with alarmTable := t ++ [e] }
      else match t.find? fun e => !e.active && e.acked with
        | some old => { m with alarmTable := t.erase old ++ [e] }
        | none => { m with alarmTable := t }
    s.setPort 0 fun x => { x with due := if bit x.due 3 then x.due else x.due + 8 }

/-- An alarm's condition has ended: a record with CLEAR, and the entry CLEARED, or freed when acknowledged (R388). -/
def clearAlarm (code subject : Nat) (s : State) : State :=
  if s.mgmt.alarmTable.any fun e => e.code == code && e.subject == subject && e.active then
    (putAlarm code 4 0xFF 1 s.tick s.tick subject [] s).setMgmt fun m => { m with
      alarmTable := (m.alarmTable.filter fun e => !(e.code == code && e.subject == subject && e.acked)).map fun e =>
        if e.code == code && e.subject == subject then { e with active := false } else e }
  else s

/-! ## PCB_EVENTS (R36, R348) -/

/-- Set bits of PCB_EVENTS; a bit that rises makes vector 2 due. -/
def setEvents (p mask : Nat) (s : State) : State :=
  s.setPort p fun x =>
    let rise := (List.range 4).any fun i => bit mask i && !bit x.events i
    { x with
      events := (List.range 4).foldl (fun a i => a + flag (bit x.events i || bit mask i) i) 0
      due := if rise && !bit x.due 2 then x.due + 4 else x.due }

/-! ## The audit journal (R382, R383) -/

/-- A number as an audit field, 8 bytes. -/
def afield (n : Nat) : Bytes := leBytes 8 n

/-- Bytes of an audit entry (R382). -/
def auditBytes (s : State) (kind outcome access role tag seq : Nat) (fields : Bytes) : Bytes :=
  let len := max 80 (roundUp (72 + fields.length) 16)
  leBytes 2 len ++ leBytes 1 kind ++ leBytes 1 outcome ++ leBytes 4 s.mgmt.auditSeq ++ leBytes 6 (if s.power.inStart then 0 else s.tick)
    ++ leBytes 1 access ++ leBytes 1 role ++ leBytes 4 tag ++ leBytes 4 seq ++ s.mgmt.auditHead ++ fields
    ++ zeros (len - 72 - fields.length)

/-- Append an entry to the hash chain; no entry spans two sectors, and moving into the last erased sector erases the oldest,
with AUDIT_OVERWRITE when an entry that no AUDIT_READ returned is lost (R382, R383). -/
def auditWrite (kind outcome access role tag seq : Nat) (fields : Bytes) (s : State) : State :=
  let bs := auditBytes s kind outcome access role tag seq fields
  let m := s.mgmt
  let fits := decide (m.auditOffset + bs.length ≤ 4096)
  let sector := if fits then m.auditSector else m.auditSector + 1
  let kept := m.audit.filter fun e => decide (sector < e.sector + 4095)
  let lost := m.audit.any fun e => decide (e.sector + 4095 ≤ sector) && decide (m.auditReturned ≤ e.seq)
  let s := s.setMgmt fun m => { m with
    audit := kept ++ [⟨m.auditSeq, sector, bs⟩]
    auditSeq := (m.auditSeq + 1) % 2 ^ 32
    auditHead := sha384 bs
    auditSector := sector
    auditOffset := (if fits then m.auditOffset else 0) + bs.length
    auditEntries := satAdd m.auditEntries 1 }
  if lost then raiseAlarm 0x00D 0 s else s

/-- Role an access point holds, as numbered by R382. -/
def State.role (s : State) (p : Nat) : Nat := (s.port p).role

/-- An entry for an act of a command. -/
def auditFor (kind outcome : Nat) (q : Pkt) (fields : Bytes) (s : State) : State :=
  auditWrite kind outcome q.access (s.role q.access) q.tag q.seq fields s

/-! ## Replies (R58–R60, R347, R351) -/

/-- STATUS: class and code (R58). -/
def status (cls code : Nat) : Nat := 0x1000 * cls + code

def Reply.body (r : Reply) : Bytes :=
  leBytes 4 r.tag ++ leBytes 2 r.status ++ leBytes 2 r.detail ++ leBytes 4 r.handle ++ leBytes 4 r.count ++ leBytes 6 r.tick ++ leBytes 2 r.micros

/-- The flag word (R58). -/
def flagWord (epoch seq : Nat) : Bytes := leBytes 2 epoch ++ leBytes 4 seq ++ leBytes 2 0xA55A

/-- Record positions of a reply stream (R58). -/
def ReplyStream.positions (r : ReplyStream) : Nat := (r.size * 4096 - 64) / 32

/-- The consumed line's position number; none when the value names no record position (R58). -/
def ReplyStream.consumedAt (r : ReplyStream) : Option Nat :=
  if r.consumed = 0 then some 0
  else if 0x40 ≤ r.consumed ∧ (r.consumed - 0x40) % 32 = 0 ∧ (r.consumed - 0x40) / 32 < r.positions then some ((r.consumed - 0x40) / 32)
  else none

/-- May a reserved record be written: CONSUMED names a position, and TAIL would not come to equal it (R58)? -/
def ReplyStream.writable (r : ReplyStream) : Bool :=
  match r.consumedAt with
  | none => false
  | some c => decide (((r.tail - 0x40) / 32 + r.positions - c) % r.positions + 1 < r.positions)

/-- Records that can still be reserved (R52, R58). -/
def ReplyStream.room (r : ReplyStream) : Nat :=
  match r.consumedAt with
  | none => 0
  | some c => (r.positions - 1) - ((r.tail - 0x40) / 32 + r.positions - c) % r.positions - r.reserved

/-- Write a record and its flag word at the stream's tail (R58, R59). -/
def writeRecord (p t : Nat) (r : Reply) (s : State) : State :=
  match (s.port p).replies[t]? with
  | none => s
  | some rs =>
    let a := rs.base + rs.tail
    let s := hostPosts p r.data s
    let s := hostPost p ⟨a, r.body⟩ s
    let s := hostPost p ⟨a + 24, flagWord (s.port p).epoch rs.seq⟩ s
    let next := if (rs.tail - 0x40) / 32 + 1 < rs.positions then rs.tail + 32 else 0x40
    s.setPort p fun x => { x with
      replies := modifyAt x.replies t fun y => { y with tail := next, seq := (y.seq + 1) % 2 ^ 32 }
      due := if bit x.due t then x.due else x.due + 2 ^ t
      counters := bump 0 1 x.counters }

/-- Bytes of host writes. -/
def postBytes (ws : List HostPost) : Nat := (ws.map fun w => w.data.length).foldl (· + ·) 0
/-- Bytes a parked reply takes of the park data area (R351). -/
def Reply.dataBytes (r : Reply) : Nat := postBytes r.data

/-- 4 KiB pages of the park data area in use, each reply's writes from a page of their own (R340, DESIGN CHOICE, log entry 99). -/
def Port.parkPages (x : Port) : Nat :=
  (x.park.map fun r => ceilDiv r.dataBytes 4096).foldl (· + ·) 0 + (x.parking.map fun k => ceilDiv (postBytes k.2.1) 4096).foldl (· + ·) 0

/-- A sink write of a running command of an earlier epoch is held for its reply; one that overflows the data area is discarded, and the reply is lost (R351). -/
def parkWrite (p cmd : Nat) (w : HostPost) (s : State) : State :=
  s.setPort p fun x =>
    let mine := (assocGet cmd x.parking).getD ([], false)
    let y := { x with parking := assocPut cmd (mine.1 ++ [w], mine.2) x.parking }
    if y.parkPages ≤ 16384 then y else { x with parking := assocPut cmd (mine.1, true) x.parking }

/-- Hold a reply fetched under an earlier epoch, or lose it when the store is full (R351). -/
def parkReply (p : Nat) (r : Reply) (s : State) : State :=
  s.setPort p fun x =>
    if x.park.length < 4096 ∧ x.parkPages + ceilDiv r.dataBytes 4096 ≤ 16384
    then { x with park := x.park ++ [r], counters := bump 10 1 x.counters }
    else { x with parkLost := min (x.parkLost + 1) 0xFFFFFFFF }

/-- Index of a status in the scope 1 counters of R390. -/
def replyCounter (st : Nat) : Option Nat :=
  if st / 0x1000 = 3 then some (st % 0x1000) else if st / 0x1000 = 2 then some (4 + st % 0x1000) else none

/-- Give a reply its record: parked when fetched under an earlier epoch, written when the stream can take it, else kept until
it can (R52, R351; DEDUCED, log entry 11). -/
def deliver (p t epoch : Nat) (reserved : Bool) (r : Reply) (s : State) : State :=
  let x := s.port p
  if epoch ≠ x.epoch then parkReply p r s
  else match x.replies[t]? with
    | none => s
    | some rs =>
      if rs.enable && reserved && rs.writable then
        writeRecord p t r (s.setPort p fun x => { x with replies := modifyAt x.replies t fun y => { y with reserved := y.reserved - 1 } })
      else if rs.enable && !reserved && decide (0 < rs.room) && !rs.stopping then writeRecord p t r s
      else s.setPort p fun x => { x with owed := x.owed ++ [(t, rs.enable && reserved, r)] }

/-- Release of a bootstrap region: its numbers are 4,094 for command stream 0 and 4,095 for reply stream 0 (R37, R341). -/
def dropBoot (p number : Nat) (s : State) : State :=
  if s.regions.any fun r => r.port == p && r.number == number then
    { s with regions := s.regions.filter fun r => !(r.port == p && r.number == number),
             frame := { s.frame with freed := s.frame.freed ++ [⟨.bootRegion, s.frame.tick, s.frame.tick⟩] } }
  else s

/-- A draining command stream with no command left becomes DISABLED; a stopping reply stream with no reservation left reads
ENABLE 0 (R37). -/
def settleStreams (p : Nat) (s : State) : State :=
  let busy := fun st => (s.cmds ++ s.frame.decided.map Decided.cmd).any fun c => c.q.access == p && c.q.stream == st && c.epoch == (s.port p).epoch
  let x := s.port p
  let doneC := (List.range 4).filter fun i => ((x.cmds.getD i {}).state == .draining) && !busy i
  let doneR := (List.range 2).filter fun i => let r := x.replies.getD i {}; r.enable && r.stopping && r.reserved == 0
  let s := s.setPort p fun x => { x with
    cmds := doneC.foldl (fun l i => modifyAt l i fun c => { c with state := .disabled }) x.cmds
    replies := doneR.foldl (fun l i => modifyAt l i fun r => { r with enable := false, stopping := false }) x.replies
    watched := x.watched.filter fun w => !(doneC.contains w) && !(doneR.contains (w - 4) && decide (4 ≤ w)) }
  let s := if doneC.contains 0 then dropBoot p 4094 s else s
  if doneR.contains 0 then dropBoot p 4095 s else s

/-- Microseconds of TICK_DONE: open, within the tick (R58; DESIGN CHOICE, log entry 4). -/
def microsNow (s : State) : Nat × State := let d := draw s; (min (d.1 % (s.period + 1)) 0xFFFF, d.2)

/-- One response of the management port: the record, then the output bytes (R369). -/
def mgmtReply (q : Pkt) (r : Reply) (s : State) : State :=
  let seq := ((s.mgmt.endpoints.find? fun e => e.eid == q.stream).map Endpoint.replySeq).getD 0
  let out := (r.data.flatMap fun w => w.data).take (65536 - 32)
  s.setMgmt fun m => { m with
    responses := m.responses ++ [⟨q.stream, 0x7E, r.body ++ flagWord 0 seq ++ out⟩]
    endpoints := modifyIf m.endpoints (fun e => e.eid == q.stream) fun e => { e with replySeq := (e.replySeq + 1) % 2 ^ 32 } }

/-- A reply counted by its status in the port's counters (R390). -/
def countReply (q : Pkt) (f : Final) (s : State) : State :=
  match replyCounter f.status with
  | some i => s.setPort q.access fun x => { x with counters := bump i 1 x.counters }
  | none => s

/-- An OK under NO_REPLY_ON_OK: its result data is written, and its record is given back (R52, R60). -/
def suppressReply (q : Pkt) (epoch rstream : Nat) (reserved : Bool) (f : Final) (s : State) : State :=
  let s := hostPosts q.access f.data s
  if reserved && epoch == (s.port q.access).epoch then
    s.setPort q.access fun x => { x with replies := modifyAt x.replies rstream fun y => { y with reserved := y.reserved - 1 } }
  else s

/-- Issue a packet's one final reply (R59, R60): suppressed when NO_REPLY_ON_OK applies to an OK, on the management port with the bytes that its
response would have carried (DESIGN CHOICE, log entry 65). -/
def reply (q : Pkt) (epoch rstream : Nat) (reserved : Bool) (f : Final) (s : State) : State :=
  let m := microsNow s
  let s := countReply q f m.2
  let r : Reply := ⟨q.tag, f.status, f.detail, f.handle.getD q.handle, f.count, s.tick, m.1, f.data⟩
  if q.access = 8 then (if bit q.flags 0 && decide (f.status / 0x1000 = 0) then s else mgmtReply q r s)
  else settleStreams q.access
    (if bit q.flags 0 && decide (f.status / 0x1000 = 0) then suppressReply q epoch rstream reserved f s else deliver q.access rstream epoch reserved r s)

/-- Statuses that many commands end with. -/
def okDone (count : Nat) (data : List HostPost := []) : Final := { status := status 0 0, count := count, data := data }
/-- REJECTED/PARAMETER with its reason and the offending field's packet offset (R61). -/
def badParam (reason paramByte : Nat) : Final := { status := status 2 1, detail := 0x1000 * reason + (32 + paramByte) / 16 }
/-- REJECTED/PARAMETER where no single field is at fault (R61). -/
def badParam0 (reason : Nat) : Final := { status := status 2 1, detail := 0x1000 * reason }
/-- REJECTED/QUOTA: resource plus one, and whether the device lacks it (R46). -/
def badQuota (res1 : Nat) (device : Bool) : Final := { status := status 2 2, detail := res1 + flag device 15 }
def badRole (detail : Nat) : Final := { status := status 2 3, detail := detail }
def badHandle : Final := { status := status 2 5 }

/-- Charge the departure of a pending command (R20). -/
def countDeparture (p : Nat) (s : State) : State := s.setPort p fun x => { x with departures := modifyAt x.departures 0 (· + 1) }

/-- Is the command pending: decoded and not yet admitted (R20, R55)? -/
def Cmd.pendingNow (c : Cmd) : Bool := c.state != .running && c.op != 0xC001

/-- Pending commands of a port (R20, R36 PENDING). -/
def State.pendingCount (s : State) (p : Nat) : Nat := (s.cmds.filter fun c => c.q.access == p && c.pendingNow).length

/-- Opcodes the packet front end decodes without the Control Bar (R55). -/
def fastPath (op : Nat) : Bool := [0x2001, 0x2002, 0x4002, 0x4003, 0x4004, 0x5002].contains op

/-- Slow-path commands that wait for capacity like fast-path ones once they reach the frame sequencer (R21, R106, R259, R327). -/
def needsCapacity (op : Nat) : Bool := [0x2003, 0x4005, 0x6008].contains op

/-- An ABORT still finds the packet after its reply (R64). -/
def track (op : Nat) (q : Pkt) (epoch : Nat) (s : State) : State :=
  s.setFrame fun f => { f with tracked := f.tracked ++ [⟨q.access, q.stream, q.seq, epoch, op, q.tag, f.tick⟩] }

/-- The final reply, with the sink writes that wait for it; it is lost when the park data area could not take them (R351). -/
def replyFor (c : Cmd) (f : Final) (s : State) : State :=
  match assocGet c.id (s.port c.q.access).parking with
  | none => reply c.q c.epoch c.rstream c.reserved f s
  | some k =>
    let s := s.setPort c.q.access fun x => { x with parking := x.parking.filter fun e => e.1 != c.id }
    if k.2 then (countReply c.q f s).setPort c.q.access fun x => { x with parkLost := min (x.parkLost + 1) 0xFFFFFFFF }
    else reply c.q c.epoch c.rstream c.reserved { f with data := k.1 ++ f.data } s

/-- The one final reply of a command, and the charge that ends with it (R45, R59, R60, R73). -/
def issueReply (c : Cmd) (f : Final) (s : State) : State :=
  let s := replyFor c f (track c.op c.q c.epoch s)
  match f.refund with
  | some p => refundQuota p 4 1 s
  | none => s

/-- Does the reply come in the tail: that of a slow-path command, and that of a command ended at a boundary by ABORT, CHANNEL_DESTROY or a maker test
mode (R18, R56, R64, R73, R146)? GET_TICK, the slow-path commands with stages, and commands that are rejected or busy, ABORT's own reply apart, reply as
soon as they are decided (R19, DEDUCED, log entry 27). -/
def repliesInTail (op : Nat) (f : Final) : Bool :=
  if f.status / 0x1000 = 4 then f.status % 0x1000 != 3 || !fastPath op
  else if f.status / 0x1000 = 2 || f.status / 0x1000 = 3 then op == 0xC001
  else !fastPath op && !needsCapacity op && op != 0x0004

/-- A decided command's reply is issued at once, or waits for the tail (R60, R64). -/
def answer (c : Cmd) (f : Final) (s : State) : State :=
  if repliesInTail c.op f && !s.frame.tail then s.setFrame fun x => { x with decided := x.decided ++ [⟨c, f⟩] }
  else issueReply c f s

/-- A command is decided: it leaves, and it is answered (R60). -/
def finish (c : Cmd) (f : Final) (s : State) : State :=
  let s := { s with cmds := s.cmds.filter fun d => d.id != c.id }
  answer c f (if c.pendingNow then countDeparture c.q.access s else s)

/-- Replies that waited for the tail are issued, in the order in which their commands were decided (R64, R73). -/
def issueDecided (s : State) : State :=
  s.frame.decided.foldl (fun s d => issueReply d.cmd d.final s) (s.setFrame fun f => { f with decided := [] })

/-! ## The Control Bar's queue (R55, R56) -/

/-- The queued command that the Control Bar takes next: an ABORT before every other, else in order of arrival (R56). -/
def State.nextQueued (s : State) : Option Nat :=
  let l := s.cmds.filter fun c => c.state == .queued
  ((l.find? fun c => c.op == 0xC001) <|> l.head?).map Cmd.id

/-- An idle Control Bar takes the next command; one that is preparing a command goes on with it (R56). -/
def State.takeNext (s : State) : State :=
  let busy : Bool := match s.frame.preparing with
    | some id => s.cmds.any fun c => c.id == id && c.state == .queued
    | none => false
  if busy then s else s.setFrame fun f => { f with preparing := s.nextQueued }

/-! ## FENCE (R57) -/

/-- Is the command behind a FENCE: its own, with an earlier packet of the stream unanswered, or that of an earlier packet not yet admitted? -/
def State.fenced (s : State) (c : Cmd) : Bool :=
  let same := fun (d : Cmd) => d.q.access == c.q.access && d.q.stream == c.q.stream && d.epoch == c.epoch && decide (d.id < c.id)
  (bit c.q.flags 1 && (s.cmds ++ s.frame.decided.map Decided.cmd).any same) || s.cmds.any fun d => same d && bit d.q.flags 1 && d.state != .running

/-! ## Freed space (R7, R27) -/

/-- Space freed in the current tick. -/
def freeSpace (k : FreedKind) (s : State) : State :=
  s.setFrame fun f => { f with freed := f.freed ++ [⟨k, f.tick, f.tick⟩] }

/-- The next command number: above every one in use. -/
def State.freshId (s : State) : Nat := s.cmds.foldl (fun n c => max n (c.id + 1)) s.nextId
/-- The next job number: above every one in use. -/
def State.freshJob (s : State) : Nat := s.jobs.foldl (fun n j => max n (j.id + 1)) s.nextJob

/-- Fabric membership (R13). -/
def State.joined (s : State) (m : Nat) : Bool := s.fabric.members.contains m
def State.self (s : State) : Nat := s.fabric.member
/-- Object number of a serial on this member (R284). -/
def State.objNumber (s : State) (serial : Nat) : Nat := s.fabric.member * 2 ^ 21 + serial

end Sys2Proof.Machine
end

