-- ==== Sys2Proof/Machine/Operands.lean ====
section
/-! DEFINITION. Operands of the command packets: opcodes, handles, reserved fields, ranges and consistency, host addresses;
each check answers the final status it fails with (R53, R54, R61, R406). -/

namespace Sys2Proof.Machine

/-! ## Opcodes (R406) -/

/-- The opcodes of level 1 below class 0xE, PAD included (R406). -/
def opcodes : List Nat :=
  [0x0000, 0x0001, 0x0002, 0x0003, 0x0004, 0x0005, 0x1001, 0x1002, 0x1003, 0x1004, 0x2001, 0x2002, 0x2003,
   0x3001, 0x3002, 0x3003, 0x3004, 0x3005, 0x3006, 0x4001, 0x4002, 0x4003, 0x4004, 0x4005, 0x5001, 0x5002, 0x5003,
   0x6001, 0x6002, 0x6003, 0x6004, 0x6005, 0x6006, 0x6007, 0x6008, 0x7001, 0x7002, 0x7003, 0x7004, 0x8001, 0x8002,
   0x9001, 0x9002, 0x9003, 0xA001, 0xA002, 0xA003, 0xA004, 0xB001, 0xB002, 0xB003, 0xC001,
   0xE001, 0xE002, 0xE003, 0xE004, 0xE005]

/-- Is this a channel setting (R78)? -/
def chanSetting (sid : Nat) : Bool := decide (0x0301 ≤ sid) && decide (sid ≤ 0x030D)

/-- Channel types an opcode accepts; none when the packet names no channel (R65, R406). -/
def chanTypes (op : Nat) (ps : Bytes) : Option (List Nat) :=
  let all := [1, 2, 3, 4, 5, 6, 7]
  match op with
  | 0x1002 | 0x1003 | 0x1004 => some all
  | 0x2001 | 0x2002 | 0x2003 => some [1]
  | 0x3002 | 0x3003 | 0x3004 | 0x3005 => some [2]
  | 0x3006 => some [1, 2]
  | 0x4002 => some [3]
  | 0x4003 | 0x4004 | 0x4005 => some [4]
  | 0x5001 | 0x5002 | 0x5003 => some [5]
  | 0x6003 | 0x6007 => some [7]
  | 0x6004 => some [6]
  | 0x8001 | 0x8002 => if chanSetting (fld ps 0 2) then some all else none
  | 0x9002 => if fld ps 0 1 = 0 then some all else none
  | _ => none

/-- Handle fields (R66). -/
def handlePort (h : Nat) : Nat := bits h 31 29
def handleType (h : Nat) : Nat := bits h 28 24
def handleSlot (h : Nat) : Nat := bits h 23 8
def handleGen (h : Nat) : Nat := bits h 7 0
/-- The handle of a channel (R66). -/
def Channel.handle (c : Channel) : Nat := c.port * 2 ^ 29 + c.type * 2 ^ 24 + c.slot * 256 + c.gen

/-- The live channel a handle names, whatever port asks (R66). -/
def State.handleChan (s : State) (h : Nat) : Option Channel :=
  match s.chan (handleSlot h) with
  | some c => if c.state == .live && c.handle == h then some c else none
  | none => none

/-! ## Small checks -/

/-- The first failing check of a list gives the status. -/
def firstBad : List (Bool × Final) → Option Final
  | [] => none
  | (bad, f) :: rest => if bad then some f else firstBad rest

/-- A field of `n` bytes at parameter byte `off` whose bits under `mask` must be zero (R4). -/
structure Rsv where
  off : Nat
  n : Nat
  mask : Nat

def rsv (off n : Nat) : Rsv := ⟨off, n, 256 ^ n - 1⟩
def rsvm (off n mask : Nat) : Rsv := ⟨off, n, mask⟩

/-- Reserved fields of a predicate at `off` (R111). -/
def rsvPredicate (off : Nat) : List Rsv :=
  (List.range 4).flatMap fun i => [rsvm (off + 8 * i) 1 0xC0, rsv (off + 8 * i + 2) 2]

/-- Vector bytes in the packet for `dims` dimensions (R102). -/
def vecBytes (fmt dims : Nat) : Nat := if fmt = 0 then 2 * dims else dims / 2 + dims / 32
/-- The same rounded up to 16 bytes: Q. -/
def vecQ (fmt dims : Nat) : Nat := roundUp (vecBytes fmt dims) 16

/-- Vector format of a search or INSERT packet: byte 3 of SEARCH and SEARCH_BATCH, byte 2 of INSERT (R102, R143). -/
def qformat (op : Nat) (ps : Bytes) : Nat := if op = 0x3002 then fld ps 2 1 else fld ps 3 1

/-- Reserved bits of the inline entries of a row update, `first` being the parameter byte of the first: ROW [63:40], and the padding behind the `row`
data bytes, which is to be zero (R258; that a nonzero byte there is a reserved bit set is a DESIGN CHOICE, log entry 82). -/
def rsvEntries (ps : Bytes) (first row : Nat) : List Rsv :=
  if row = 0 ∨ fld ps 5 1 ≠ 0 then []
  else
    let n := roundUp (8 + row) 16
    (List.range (min (fld ps 0 4) 65536)).flatMap fun i => [rsv (first + i * n + 5) 3, rsv (first + i * n + 8 + row) (n - 8 - row)]

/-- Reserved parameter fields of each opcode (R4 and each opcode's own rule). `dims` are the dimensions of the vectors the packet carries, and
`row` the data bytes of a row it carries. FW_STATUS is taken as 8 reserved bytes and the output address (DESIGN CHOICE, log entry 83). -/
def rsvFields (op : Nat) (ps : Bytes) (dims row : Nat) : List Rsv :=
  let fmt := qformat op ps
  let tail := fun off => [rsv (off + vecBytes fmt dims) (vecQ fmt dims - vecBytes fmt dims)]
  match op with
  | 0x0001 => [rsv 2 14]
  | 0x0002 | 0x0003 | 0x0004 => [rsv 0 8]
  | 0x0005 => [rsv 1 15]
  | 0x1001 => [rsvm 0 1 0xE0, rsvm 1 1 0xFE, rsv 2 2, rsv 12 4, rsv 28 4, rsv 34 2, rsv 42 2, rsv 50 2, rsv 58 2]
  | 0x1003 => [rsv 0 8]
  | 0x1004 => [rsv 1 7, rsv 20 12]
  | 0x2001 => [rsvm 10 1 0xFE, rsv 11 5] ++ rsvPredicate 16 ++ tail 80
  | 0x2002 => [rsvm 10 1 0xFE, rsv 11 1, rsv 14 2] ++ (List.range (min (fld ps 12 2) 64)).flatMap fun i =>
      let o := 16 + i * (64 + vecQ fmt dims)
      rsvPredicate o ++ tail (o + 64)
  | 0x2003 => [rsvm 10 1 0xFE, rsv 11 5] ++ rsvPredicate 16 ++ [rsv 84 12]
      ++ [rsv (96 + fld ps 80 4) (roundUp (fld ps 80 4) 16 - fld ps 80 4)]
  | 0x3001 => [rsv 10 6, rsvm 37 1 0xF8, rsv 39 1, rsv 46 2, rsv 48 16]
  | 0x3002 => [rsv 3 5] ++ (List.range (min (fld ps 0 2) 256)).flatMap fun i =>
      let o := 16 + i * (32 + vecQ fmt dims)
      rsv (o + 18) 14 :: tail (o + 32)
  | 0x3003 => [rsv 2 6] ++ (List.range (min (fld ps 0 2) 4093)).flatMap fun i => [rsvm (21 + 16 * i) 2 0xF800, rsv (23 + 16 * i) 1]
  | 0x3004 | 0x3005 => [rsv 8 8]
  | 0x3006 => [rsv 2 6]
  | 0x4001 => [rsvm 3 1 0xFE, rsv 10 2, rsv 20 4, rsv 32 32]
  | 0x4002 =>
    let m := fld ps 8 1
    let at_ := 48 + if m % 4 = 0 then 0 else roundUp (4 * (fld ps 0 4 + 1)) 8
    [rsvm 8 1 0xF0, rsv 9 7, rsv 20 4, rsv 36 4]
      ++ if bit m 3 then [] else (List.range (min (fld ps 4 4) (ps.length / 8))).map fun i => rsv (at_ + 8 * i + 5) 3
  | 0x4003 | 0x4004 => rsv 12 4 :: rsvEntries ps 32 row
  | 0x4005 => [rsv 12 4, rsv 56 8] ++ rsvEntries ps 64 row
  | 0x5001 => [rsv 4 4]
  | 0x5002 => [rsv 2 14] ++ ((List.range 16).filter fun i => decide (fld ps 0 1 ≤ i)).map (fun i => rsv (16 + 4 * i) 4)
      ++ (List.range (fld ps 1 1)).map fun i => rsv (84 + 16 * i) 4
  | 0x6004 => rsv 2 6 :: (List.range (min (fld ps 0 2) 1024)).map fun i => rsv (46 + 32 * i) 2
  | 0x6001 => [rsvm 0 8 (2 ^ 64 - 2 ^ 47), rsvm 8 1 0xC0, rsvm 9 1 0xFC, rsv 10 2, rsvm 12 2 0xF800, rsvm 14 2 0xF000, rsv 24 8]
  | 0x6002 => [rsv 4 12]
  | 0x6003 => [rsvm 4 1 0xC0, rsvm 5 1 0xFC, rsv 6 10]
  | 0x6005 => match fld ps 0 1 with
    | 0 => [rsv 2 2, rsv 4 4, rsv 24 8, rsv 32 16]
    | 1 => [rsv 1 1, rsv 2 2]
    | 2 => [rsv 4 4, rsv 24 8, rsv 32 16]
    | 3 => [rsv 1 1, rsv 4 4, rsv 8 8, rsv 16 8, rsv 24 8, rsv 32 16]
    | _ => []
  | 0x6006 => [rsv 1 1, rsv 4 12]
  | 0x6008 => [rsv 31 1]
  | 0x7001 => [rsv 0 8]
  | 0x7002 => [rsvm 0 2 0xF800, rsv 2 6]
  | 0x7004 => [rsvm 2 1 0xE0, rsv 3 13]
  | 0x8001 | 0x8002 => [rsv 2 6]
  | 0x9001 => [rsv 1 3, rsv 24 8]
  | 0x9002 => [rsv 1 7]
  | 0x9003 => [rsv 2 2, rsv 8 8]
  | 0xA001 => [rsv 3 5]
  | 0xA002 => [rsv 0 16]
  | 0xA003 => [rsv 40 8]
  | 0xA004 => [rsv 16 16]
  | 0xB001 => [rsv 1 3, rsv 24 8]
  | 0xB002 => [rsv 2 14]
  | 0xB003 => [rsv 0 8]
  | 0xC001 => [rsv 2 2, rsv 12 4]
  | _ => []

/-- Check 4 of R54: the first reserved field with a nonzero bit gives reason 1 and its offset (R4, R61). -/
def rsvCheck (op : Nat) (q : Pkt) (dims row : Nat) : Option Final :=
  if q.rsv ≠ 0 then some { status := status 2 1, detail := 0x1000 }
  else ((rsvFields op q.params dims row).find? fun r => r.mask &&& fld q.params r.off r.n != 0).map fun r => badParam 1 r.off

/-- Parameter bytes an opcode carries when its length is fixed. -/
def fixedLen (op : Nat) (ps : Bytes) : Option Nat :=
  match op with
  | 0x0001 | 0x0002 | 0x0004 | 0x0005 | 0x1003 | 0x3004 | 0x3005 | 0x3006 | 0x6002 | 0x6003 | 0x6006 | 0x7001 | 0x7002 | 0x7004
  | 0x5001 | 0x8001 | 0x8002 | 0x9002 | 0x9003 | 0xA002 | 0xB002 | 0xB003 | 0xC001 => some 16
  | 0x1001 | 0x3001 | 0x4001 => some 64
  | 0x1002 | 0x5003 | 0x7003 => some 0
  | 0x5002 => some (80 + 16 * fld ps 1 1)
  | 0x6004 => some (16 + 32 * fld ps 0 2)
  | 0x1004 | 0x6001 | 0x6007 | 0x6008 | 0x9001 | 0xA004 => some 32
  | 0x6005 | 0xA003 => some 48
  | 0xA001 => if fld ps 0 1 = 1 then some 16624 else some 16
  | _ => none

/-- The packet's length disagrees with its opcode: reason 2, at PKT_LEN's offset (R43, R73, R102). -/
def badLen : Final := { status := status 2 1, detail := 0x2000 }

/-- A host address field: on a port it must be aligned (reason 0) and lie with its bytes in a usable region of the port
(reason 3, R34, R352); on the management port it must be 0 (reason 2, R369). -/
def addrCheck (q : Pkt) (off align len : Nat) (zeroOk : Bool) (s : State) : Option Final :=
  let a := fld q.params off 8
  if q.access = 8 then (if a = 0 then none else some (badParam 2 off))
  else if a = 0 && zeroOk then none
  else firstBad [(a % align != 0, badParam 0 off), (!s.reachable q.access a len, badParam 3 off)]

/-! ## Searches (R102–R106, R111, R112) -/

/-- A vector that no rule accepts: a BF16 NaN or infinity, or an INT4 scale byte of 0xFF (R102). -/
def vectorBad (fmt dims : Nat) (v : Bytes) : Bool :=
  if fmt = 0 then (List.range dims).any fun j => !fmtBF16.isFinite (fld v (2 * j) 2)
  else (List.range (dims / 32)).any fun m => fld v (dims / 2 + m) 1 == 0xFF

/-- Clause `i` of a predicate: KIND, NEGATE, FIELD, TAG_BASE, A, B (R111). -/
structure Clause where
  kind : Nat
  negate : Bool
  field : Nat
  base : Nat
  a : Nat
  b : Nat

def clauseAt (bs : Bytes) (i : Nat) : Clause :=
  let c := fld bs (8 * i) 1
  ⟨c % 8, bit c 3, bits c 5 4, fld bs (8 * i + 1) 1, fld bs (8 * i + 4) 2, fld bs (8 * i + 6) 2⟩

/-- Why one clause is refused (R111, R112): the reason, if any. -/
def clauseBad (c : Clause) : Option Nat :=
  if 4 ≤ c.kind then some 0
  else match c.kind with
    | 0 => if c.negate || c.field != 0 || c.base != 0 || c.a != 0 || c.b != 0 then some 2 else none
    | 1 => if c.b &&& (0xFFFF - c.a) != 0 || c.base != 0 then some 2 else none
    | 2 => if c.base != 0 then some 2 else none
    | _ => if c.field != 0 || c.a != 0 || c.b != 0 then some 2 else none

/-- R112 over a predicate and tag set standing at parameter bytes `off` and `off + 32`. -/
def predicateBad (ps : Bytes) (off : Nat) : Option Final :=
  let bs := slice ps off 32
  let cl := (List.range 4).map (clauseAt bs)
  let tags := (cl.filter fun c => c.kind == 3).length
  match (List.range 4).find? fun i => (clauseBad (clauseAt bs i)).isSome with
  | some i => some (badParam ((clauseBad (clauseAt bs i)).getD 0) (off + 8 * i))
  | none => firstBad [(decide (1 < tags), badParam 2 off), (tags == 0 && !zeroAt ps (off + 32) 32, badParam 2 (off + 32))]

/-- The working values of a search: packet value, or the channel's (R103, R122). -/
def pickVal (v dflt : Nat) : Nat := if v = 0 then dflt else v

/-- Shards a search on this index visits when it names `parts` partitions (R98). -/
def Index.visited (x : Index) (parts : Nat) : Nat := if x.mode = 2 then pickVal parts x.partitions else x.count

/-- Bytes 0–11, the common checks of SEARCH, SEARCH_BATCH and SEARCH_ENCODED (R102, R103, R139), for `count` queries. -/
def searchCheck (q : Pkt) (c : Channel) (x : Index) (count : Nat) (s : State) : Option Final :=
  let ps := q.params
  let k := fld ps 0 2
  let w := fld ps 2 1
  let hb := fld ps 4 2
  let parts := fld ps 6 2
  let ec := fld ps 8 2
  let kk := pickVal k (c.setting 0x0304)
  let ww := pickVal w (c.setting 0x0305)
  firstBad
    [(decide (4096 < k), badParam 0 0), (decide (8 < w), badParam 0 2),
     (hb != 0 && (decide (hb < 16) || decide (1024 < hb)), badParam 0 4),
     (decide ((if x.mode = 2 then x.count else 0) < parts), badParam 0 6),
     (ec != 0 && (decide (ec < 16) || decide (256 < ec)), badParam 0 8),
     (decide (c.sinkBytes < count * (16 * kk + 64)), badParam 2 0),
     (decide (262144 < count * (x.visited parts * kk)), badParam0 4),
     (s.quota q.access 3 != 0xFFFFFFFF && decide (s.quota q.access 3 < count * ww), badQuota 4 false)]

/-! ## Settings (R409) -/

/-- Range of a setting: least, greatest, step (R409). -/
def settingRange (sid : Nat) : Option (Nat × Nat × Nat) :=
  if 0x0200 ≤ sid ∧ sid < 0x0280 then
    (if sid % 16 = 0 then some (0, 7, 1) else if sid % 16 ≤ 6 then some (0, 0xFFFFFFFF, 1) else none)
  else if 0x0611 ≤ sid ∧ sid ≤ 0x0616 then some (1, 1024, 1)
  else match sid with
    | 0x0101 => some (50, 2000, 5) | 0x0102 => some (5, 500, 5) | 0x0103 => some (0, 16, 1) | 0x0104 => some (0, 1, 1)
    | 0x0105 => some (1, 255, 1)
    | 0x0301 => some (1, 255, 1) | 0x0302 => some (0, 1, 1) | 0x0303 => some (1, 2, 1) | 0x0304 => some (1, 4096, 1)
    | 0x0305 => some (1, 8, 1) | 0x0306 => some (16, 1024, 1) | 0x0307 => some (0, 1024, 1) | 0x0308 => some (0, 1024, 1)
    | 0x0309 => some (16, 256, 1) | 0x030A => some (0, 0xFFFFFFFF, 1) | 0x030B => some (0, 1, 1)
    | 0x030C => some (0, 0xFFFFFFFF, 1) | 0x030D => some (1, 32, 1)
    | 0x0401 => some (0, 256, 32) | 0x0402 => some (0, 32, 1) | 0x0403 => some (0, 32, 1) | 0x0404 => some (0, 1048576, 1)
    | 0x0405 => some (0, 0xFFFFFFFF, 1) | 0x0406 => some (1, 168, 1) | 0x0407 => some (1, 255, 1)
    | 0x0501 => some (0, 3, 1) | 0x0502 => some (5, 50, 1) | 0x0503 => some (10, 100, 1) | 0x0601 => some (1, 4096, 1)
    | _ => none

/-- Channel types a channel setting applies to (R78). -/
def settingTypes (sid : Nat) : List Nat :=
  match sid with
  | 0x0301 | 0x0302 => [1, 2, 3, 4, 5, 6, 7]
  | 0x0303 => [1, 3, 5, 6]
  | 0x0304 | 0x0305 | 0x0308 | 0x0309 => [1]
  | 0x0306 | 0x0307 => [1, 2]
  | 0x030A => [1, 5]
  | 0x030B | 0x030C => [4, 5]
  | 0x030D => [5]
  | _ => []

/-- Is a value in a setting's range (R76, R78)? -/
def inRange (sid v : Nat) : Bool :=
  match settingRange sid with
  | some (lo, hi, step) => (decide (lo ≤ v) && decide (v ≤ hi) && v % step == 0 && !((sid == 0x0307) && v != 0 && decide (v < 16)))
  | none => false

/-- Default of a channel setting; TIER_LATE from the count of joined members (R14, R78). -/
def chanDefault (joined sid : Nat) : Nat :=
  match sid with
  | 0x0301 => 1 | 0x0303 => (if joined ≤ 32 then 1 else 2) | 0x0304 => 32 | 0x0305 => 4 | 0x0306 => 256 | 0x0309 => 64 | 0x030D => 2
  | _ => 0

/-! ## Objects a packet may name (R34) -/

/-- An own object or region of the port on this member; the number of an index or table names none of its regions (R34, R84). -/
def State.ownObj (s : State) (p n : Nat) : Option Obj := s.objs.find? fun o => o.num == n && o.owner == p && !o.freed && o.parent != n

end Sys2Proof.Machine
end

