-- ==== Sys2Proof/Machine/Objects.lean ====
section
/-! DEFINITION. Operations over objects and the memory tiers: capacity, physical use, charges, home sets, creation, freeing
and release, and reads and writes of object bytes (R282–R296). -/

namespace Sys2Proof.Machine

/-- Bytes of one page. -/
abbrev pageBytes : Nat := 65536

/-- Stacks in service. -/
def State.stacksIn (s : State) : Nat := (s.stackList.filter Stack.inService).length
/-- T1_PRESENT: 24 dies of 96 Gb per stack (R11, R366). -/
def State.t1Present (s : State) : Nat := s.stacksIn * (288 * 2 ^ 30)
/-- T1_USABLE: 97%, less pages taken under R307 (R11, R366). -/
def State.t1Usable (s : State) : Nat := s.t1Present * 97 / 100 - s.mem.lostPages * pageBytes
/-- T0_PRESENT: 96 MiB per tile in service (R282, R366). -/
def State.t0Present (s : State) : Nat := s.units.tiles.length * (96 * 2 ^ 20)
/-- T0 system reserve, 6 MiB per tile in service (R282). -/
def State.t0Reserve (s : State) : Nat := s.units.tiles.length * (6 * 2 ^ 20)
/-- Carve-out in force: a quarter of the setting per tile in service (R297). -/
def State.carveout (s : State) (setting : Nat) : Nat := setting * 2 ^ 20 * s.units.tiles.length / 4

/-- Does a member belong to the object's home set (R286)? With SPREAD 0 the object lies on its creator. -/
def Obj.homeHas (o : Obj) (m : Nat) : Bool :=
  if o.spread = 0 then m == o.num / 2 ^ 21 else o.homes.contains m

/-- Member a page lies on under SPREAD 2, or the creator (R286). -/
def Obj.homeOf (o : Obj) (page : Nat) : Nat :=
  if o.spread = 2 then o.homes.getD (page % max o.homes.length 1) (o.num / 2 ^ 21) else o.num / 2 ^ 21

/-- Pages of the object that one member holds (R286). -/
def Obj.shareOf (o : Obj) (m : Nat) : Nat :=
  if !o.homeHas m then 0
  else if o.spread = 2 then (o.pages + o.homes.length - 1 - o.homes.idxOf m) / max o.homes.length 1 else o.pages

/-- Tier a page lies in on a member (R286, R290). -/
def Obj.pageTier (o : Obj) (page : Nat) : Nat := (((assocGet page o.pageInfo).bind Page.tier)).getD o.tier

/-- Pages and 4 KiB sectors this member's T0 and T1 hold for the object (R296): default pages, corrected page by page. -/
def Obj.useT0 (o : Obj) (self : Nat) : Nat :=
  let base := if o.tier = 0 then o.shareOf self else 0
  let infos := o.pageInfo.filter fun p => o.homeOf p.1 == self || o.spread == 1
  base + (infos.filter fun p => (p.2.tier.getD o.tier) == 0).length
    - (if o.tier = 0 then infos.length else 0)

def Page.sectors (p : Page) : Nat := p.fulled.getD 16

/-- Do a member's pages of the object lie in its T1 by default? -/
def Obj.inT1 (o : Obj) (self : Nat) : Bool := o.tier == 1 || (o.tier == 2 && o.homeHas self)
/-- The pages of a member that stand out from the default. -/
def Obj.infosOn (o : Obj) (self : Nat) : List (Nat × Page) := o.pageInfo.filter fun p => o.homeOf p.1 == self || o.spread == 1
/-- Sectors of T1 that such a page holds, its backing page among them. -/
def Obj.infoT1 (o : Obj) (p : Page) : Nat := (if (p.tier.getD o.tier) = 1 then p.sectors else 0) + (match p.backing with
  | some (1, _, n) => n
  | _ => 0)
def Obj.useT1 (o : Obj) (self : Nat) : Nat :=
  let base := if o.inT1 self then 16 * o.shareOf self else 0
  base - (if o.inT1 self then 16 * (o.infosOn self).length else 0) + ((o.infosOn self).map fun p => o.infoT1 p.2).foldl (· + ·) 0

/-- 4 KiB sectors of a tier freed and not yet released (R7, R290, R295). -/
def State.freedSectors (s : State) (tier : Nat) : Nat :=
  (s.frame.freed.map fun f => match f.kind with
    | .pages t n => if t = tier then 16 * n else 0
    | .sectors n _ => if tier = 1 then n else 0
    | _ => 0).foldl (· + ·) 0

/-- Free T0 pages left for objects at a carve-out setting (R282). -/
def State.t0FreeAt (s : State) (carve : Nat) : Nat :=
  (s.t0Present - s.t0Reserve - s.carveout carve) / pageBytes - (s.objs.map fun o => o.useT0 s.self).foldl (· + ·) 0 - s.freedSectors 0 / 16
def State.t0Free (s : State) : Nat := s.t0FreeAt (s.setting 0x0401)
/-- T0 pages objects hold. -/
def State.t0Held (s : State) : Nat := (s.objs.map fun o => o.useT0 s.self).foldl (· + ·) 0
/-- Free T1 pages: usable less physical use, in whole pages (R296). -/
def State.t1Free (s : State) : Nat :=
  (s.t1Usable / 4096 - (s.objs.map fun o => o.useT1 s.self).foldl (· + ·) 0
    - s.freedSectors 1) / 16 - s.mem.lent
/-- Expansion reserve available (R295, R311). -/
def State.reserveFree (s : State) : Nat := min (s.setting 0x0404) s.t1Free

/-! ## Stacks (R283) -/

/-- A page of the object as counted among the pages its member holds (R286). -/
def Obj.localPage (o : Obj) (page : Nat) : Nat := if o.spread = 2 then page / max o.homes.length 1 else page
/-- Stack at a place of a rotation. -/
def rotationAt (l : List (Nat × List Nat)) (i : Nat) : Option Nat :=
  match (l.filter fun g => decide (g.1 ≤ i)).getLast? with
  | some g => g.2[(i - g.1) % max g.2.length 1]?
  | none => none
/-- Places of the first `n` of a rotation that lie on stack `k`. -/
def rotationCount (l : List (Nat × List Nat)) (n k : Nat) : Nat :=
  (l.zipIdx.map fun g =>
    let hi := min n (((l[g.2 + 1]?).map Prod.fst).getD n)
    match g.1.2.idxOf? k with
    | some j => (hi - g.1.1 + (g.1.2.length - 1 - j)) / g.1.2.length
    | none => 0).foldl (· + ·) 0

/-- Stack on which a T1 page of the object lies here; none where the page mover has placed none of it (R283). -/
def Obj.stackOf (o : Obj) (page : Nat) : Option Nat := (assocGet page o.pageInfo).bind Page.stack <|> rotationAt o.rotation (o.localPage page)
/-- Sectors of a stack that the object holds here. -/
def Obj.onStack (o : Obj) (self k : Nat) : Nat :=
  let base := if o.inT1 self then 16 * rotationCount o.rotation (o.shareOf self) k - 16 * ((o.infosOn self).filter fun p => rotationAt o.rotation (o.localPage p.1) == some k).length
    else 0
  base + (((o.infosOn self).filter fun p => o.stackOf p.1 == some k).map fun p => o.infoT1 p.2).foldl (· + ·) 0
/-- Free pages of a stack: its share of usable T1, less what R307 has taken, what objects hold and what waits for its release; pages held for other members count
evenly on every stack (R283, DESIGN CHOICE, log entry 92). -/
def State.stackFree (s : State) (k : Nat) : Nat :=
  let st := s.stackList.getD k { inService := false }
  let freed := (s.frame.freed.map fun f => match f.kind with
    | .sectors n m => if m = k then n else 0
    | _ => 0).foldl (· + ·) 0
  if st.inService then
    (288 * 2 ^ 30 * 97 / 100 / 4096 - 16 * st.lost - (s.objs.map fun o => o.onStack s.self k).foldl (· + ·) 0 - freed) / 16 - ceilDiv s.mem.lent (max s.stacksIn 1)
  else 0

/-- Rotate `left` pages from page `at_` over stacks with these free pages: a stack that is full is skipped from then on. -/
def rotationOver : (fuel at_ left : Nat) → List (Nat × Nat) → List (Nat × List Nat)
  | 0, _, _, _ => []
  | fuel + 1, at_, left, l =>
    if left = 0 ∨ l.isEmpty = true then []
    else
      let m := (l.map Prod.snd).foldl min (2 ^ 48)
      let n := m * l.length
      (at_, l.map Prod.fst) :: rotationOver fuel (at_ + n) (left - n) ((l.map fun p => (p.1, p.2 - m)).filter fun p => p.2 != 0)
/-- The stack with the most free pages; a tie goes to the lower number. -/
def State.mostFree (s : State) : Nat := (List.range 12).foldl (fun b k => if s.stackFree b < s.stackFree k then k else b) 0
/-- The rotation of a T1 object's pages: from the stack with the most free pages, over every stack in service that has free pages (R283). -/
def State.rotationFor (s : State) (pages : Nat) : List (Nat × List Nat) :=
  let first := s.mostFree
  rotationOver 13 0 pages (((List.range 12).map fun j => let k := (first + j) % 12; (k, s.stackFree k)).filter fun p => p.2 != 0)
/-- The page mover places an object's pages on stacks where none of them lies in T1 yet. -/
def State.rotated (s : State) (old new : Obj) : Obj :=
  if new.inT1 s.self && (old.rotation.isEmpty || old.useT1 s.self == 0) then { new with rotation := s.rotationFor (new.shareOf s.self) } else new

/-- Lines of one tile's part of a carve-out of this many MiB (R297). -/
def partLines (carve : Nat) : Nat := carve * 2 ^ 20 / 4 / 256
/-- The tile on whose part of the carve-out a line of an object lies: the one with the line's stack, three stacks to a tile (R297). -/
def State.lineTile (s : State) (obj line : Nat) : Nat := (((s.obj obj).bind fun o => o.stackOf (line / 256)).getD 12) / 3
/-- The carve-out shrinks: each tile's part discards lines in the order in which it would replace them (R278, R298; DESIGN CHOICE, log entry 96). -/
def trimCache (carve : Nat) (s : State) : State :=
  let out := (List.range 5).flatMap fun t =>
    let here := s.mem.cache.filter fun e => s.lineTile e.1 e.2.1 == t
    ((here.filter fun e => !e.2.2) ++ here.filter fun e => e.2.2).take (here.length - partLines carve)
  s.setMem fun m => { m with cache := m.cache.filter fun e => !out.contains e }

/-- What an object charges its port: (tier resource, pages) (R45). -/
def Obj.charges (o : Obj) (self : Nat) : List (Nat × Nat) :=
  if o.spread = 0 then [(o.tier, o.pages)]
  else
    let local_ := o.shareOf self
    let all := if o.spread = 1 then o.pages * o.homes.length else o.pages
    if o.tier = 2 then [(2, all)] else [(o.tier, local_), (2, all - local_)]

def chargeObj (o : Obj) (s : State) : State := (o.charges s.self).foldl (fun t c => chargeQuota o.owner c.1 c.2 t) s
def refundObj (o : Obj) (s : State) : State := (o.charges s.self).foldl (fun t c => refundQuota o.owner c.1 c.2 t) s

/-- Sum of charges per tier resource. -/
def sumTier (cs : List (Nat × Nat)) (t : Nat) : Nat := (cs.filterMap fun c => if c.1 = t then some c.2 else none).foldl (· + ·) 0

/-- The first tier whose port limit a set of charges breaks (R46). -/
def quotaBreak (p : Nat) (cs : List (Nat × Nat)) (s : State) : Option Nat := [0, 1, 2].find? fun t => !s.quotaAllows p t (sumTier cs t)

/-- Can every member take its share of these new objects (R82, R287)? Another member's answer is open (DESIGN CHOICE, log entry 9). -/
def membersTake (os : List Obj) (s : State) : Option (Nat × Bool) :=
  let t0 := (os.map fun o => o.useT0 s.self).foldl (· + ·) 0
  let t1 := ceilDiv ((os.map fun o => o.useT1 s.self).foldl (· + ·) 0) 16
  if s.t0Free < t0 then some (1, true)
  else if s.t1Free - s.setting 0x0404 < t1 then some (2, true)
  else if os.any fun o => o.spread != 0 && o.homes.any fun m =>
      m != s.self && !Config.remoteTakes s.free m (o.shareOf m) then some (3, true)
  else none

/-- The joined members of the creator's group, ascending. -/
def State.groupMembers (s : State) : List Nat := ((List.range 32).map (· + 32 * (s.self / 32))).filter s.joined
/-- The default home set of R286: every joined member of the creator's group, without the creator for T2. Pages go round over it as over a set
of neighbours (DEDUCED, log entry 94). -/
def State.defaultHomes (s : State) (tier : Nat) : List Nat := s.groupMembers.filter fun m => tier != 2 || m != s.self

/-- Serial numbers free on this member (R284). -/
def State.serialFree (s : State) (n : Nat) : Bool := !s.objs.any (fun o => o.num == s.objNumber n) && !s.indexes.any (fun x => x.num == s.objNumber n)
  && !s.tables.any (fun x => x.num == s.objNumber n)
def State.liveNumbers (s : State) : Nat := s.objs.length + s.indexes.length + s.tables.length

/-- Next serial to issue (R284): 1 to 0x1F_FFFE in rotation, skipping numbers in use. -/
def State.nextSerialFree (s : State) : Nat :=
  match findFrom (fun i => s.serialFree ((i - 1) % 0x1FFFFE + 1)) (s.liveNumbers + 1) s.mem.nextSerial with
  | some i => (i - 1) % 0x1FFFFE + 1
  | none => 1

/-- Take a fresh object number. -/
def takeNumber (s : State) : Nat × State :=
  let n := s.nextSerialFree
  (s.objNumber n, s.setMem fun m => { m with nextSerial := n % 0x1FFFFE + 1 })

/-- Create an object: number, address range, stacks, charge (R283–R285). -/
def createObj (mk : Nat → Nat → Obj) (s : State) : Nat × State :=
  let t := takeNumber s
  let o := mk t.1 t.2.mem.nextBase
  let o := t.2.rotated o o
  let s := chargeObj o { t.2 with objs := t.2.objs ++ [o] }
  (t.1, s.setMem fun m => { m with nextBase := m.nextBase + o.pages * pageBytes })

/-- Free an object's space: it waits for its release under R7, charged until then (R288). -/
def freeObj (n : Nat) (s : State) : State :=
  if s.objs.any fun o => o.num == n && !o.freed then freeSpace (.object n) (s.setObj n fun o => { o with freed := true }) else s

/-- Has the command a stage that runs in a frame and is not over? Jobs and commands that only wait for a boundary have none (R22, R26). -/
def Cmd.inStage (c : Cmd) : Bool := c.stages.any fun g => g.kind != .slow && !g.finished

/-- Is an ELASTIC stage admitted no later than tick `t` still running (R7, R27)? -/
def State.elasticHolds (s : State) (t : Nat) : Bool :=
  s.cmds.any (fun c => c.state == .running && !c.strict && decide (c.admitTick ≤ t) && c.inStage)
    || s.walks.any fun w => !w.strict && decide (w.admitTick ≤ t) && w.phase != .sent

/-- The tick from which the two ticks of space freed in tick `t` are counted: `since`, or this one while ELASTIC work may still read it (R7). -/
def State.countedFrom (s : State) (t since : Nat) : Nat := if s.elasticHolds t then max since s.tick else since

/-- Release one kind of freed space. -/
def releaseKind (k : FreedKind) (s : State) : State :=
  match k with
  | .object n =>
    let s := match s.objs.find? fun o => o.num == n with
      | some o => refundObj o s
      | none => s
    { s with objs := s.objs.filter fun o => o.num != n
             indexes := s.indexes.filter fun x => !(x.num == n && x.freed)
             tables := s.tables.filter fun x => !(x.num == n && x.freed) }
  | .positions i upTo => s.setShard i fun h => { h with floor := max h.floor upTo }
  | .rowSlot t _ k => { s with tables := modifyIf s.tables (fun x => x.num == t) fun x => { x with freeRuns := (k, 1) :: x.freeRuns } }
  | .pages _ _ | .sectors _ _ | .bootRegion => s

/-- Have the two ticks of freed space passed at tick `n` (R27)? Side-list positions go to INSERTs one tick before, since an INSERT writes what it
reserves in a later tick, that of its admission (R145, R146). -/
def Freed.due (f : Freed) (n : Nat) : Bool := match f.kind with
  | .positions _ _ => decide (f.tick + 1 ≤ n)
  | _ => decide (f.tick + 2 ≤ n)

/-- Reclaimed slots that ELASTIC work may still read are held on (R7, R156). -/
def State.holdReclaimed (s : State) : State :=
  { s with indexes := s.indexes.map fun x => { x with
      shard := x.shard.map fun h => { h with reclaim := h.reclaim.map fun r => (r.1, r.2.1, s.countedFrom r.2.1 r.2.2) } } }

/-- Release the space whose two ticks have passed; space that ELASTIC work may still read is held on (R7, R27). -/
def releaseFreed (s : State) : State :=
  let n := s.tick
  let held := s.frame.freed.map fun f => { f with tick := s.countedFrom f.freedIn f.tick }
  let s := s.holdReclaimed.setFrame fun f => { f with freed := held.filter fun x => !x.due n }
  (held.filter fun x => x.due n).foldl (fun t f => releaseKind f.kind t) s

/-! ## Bytes of objects -/

/-- Bytes at an offset against what the object holds where nothing has been written. -/
def Obj.against (o : Obj) (off : Nat) (bs : Bytes) : Bytes :=
  if o.fresh.isEmpty then bs else bs.zipIdx.map fun p => p.1 ^^^ o.fresh.getD ((off + p.2) % o.fresh.length) 0

/-- `n` bytes of an object at an offset, as this member sees them. -/
def State.readObj (s : State) (num off n : Nat) : Bytes := match s.obj num with
  | some o => o.against off (o.data.read off n)
  | none => zeros n

/-- The object with every byte of its T0 and T1 pages zero; pages in T2, which lie on other members, keep theirs (R44). -/
def Obj.scrubbed (o : Obj) : Obj :=
  let keep := fun off : Nat => o.pageTier (off / pageBytes) == 2
  let kept := o.data.filter fun c => keep c.1
  if o.fresh.isEmpty || o.tier == 2 then { o with data := kept, poison := o.poison.filter fun g => keep (256 * g) }
  else { o with data := [], fresh := [], poison := [] }

/-- Is any 256-byte granule of the range poisoned (R305)? -/
def State.poisoned (s : State) (num off n : Nat) : Bool := match s.obj num with
  | some o => o.poison.any fun g => decide (off / 256 ≤ g) && decide (g ≤ (off + n - 1) / 256)
  | none => false

/-- Pages a write touches lose their fulled form and become direct from this tick (R293, R295), or wait for an expansion page; a written
sector of a page with a backing page is dirty (R291). -/
def touchPages (tick off n : Nat) (waits : Bool) (o : Obj) : Obj :=
  { o with pageInfo := o.pageInfo.map fun p =>
      if off / pageBytes ≤ p.1 ∧ p.1 ≤ (off + n - 1) / pageBytes then
        (p.1, { p.2 with
          fulled := if waits then p.2.fulled else none
          expandWait := p.2.expandWait || (waits && p.2.fulled.isSome)
          skipped := false, stale := false
          directSince := if p.2.fulled.isSome then tick else p.2.directSince
          dirty := if p.2.backing.isSome
            then dedupBy id (p.2.dirty ++ (List.range 16).filter fun k =>
              decide (p.1 * pageBytes + k * 4096 < off + n) && decide (off < p.1 * pageBytes + (k + 1) * 4096))
            else p.2.dirty })
      else p }

/-- Sectors of the fulled pages of a range, with their stacks. -/
def State.fulledIn (s : State) (num off n : Nat) : List (Nat × Nat) := match s.obj num with
  | some o => (o.pageInfo.filter fun p => decide (off / pageBytes ≤ p.1) && decide (p.1 ≤ (off + n - 1) / pageBytes)).filterMap fun p =>
      p.2.fulled.map fun n => (n, (o.stackOf p.1).getD 12)
  | none => []

/-- Must a write wait for an expansion page (R295)? -/
def State.writeWaits (s : State) (num off n : Nat) : Bool := !(s.fulledIn num off n).isEmpty && s.t1Free == 0

/-- Does a write to the range still wait for an expansion page (R295)? -/
def State.expanding (s : State) (num off n : Nat) : Bool := match s.obj num with
  | some o => o.pageInfo.any fun p => p.2.expandWait && decide (off / pageBytes ≤ p.1) && decide (p.1 ≤ (off + n - 1) / pageBytes)
  | none => false

/-- Write bytes into an object; a write of a whole granule clears its poison (R305). Fulled pages it touches are expanded: their sectors are
freed, or the write waits, counted, with MEM_RESERVE raised (R295; DESIGN CHOICE, log entry 18). -/
def State.writeObj (num off : Nat) (bs : Bytes) (s : State) : State :=
  if bs.isEmpty then s
  else
    let fs := s.fulledIn num off bs.length
    let waits := s.writeWaits num off bs.length
    let s := if waits then raiseAlarm 0x005 0 (s.setMem fun m => { m with expansionWait := satAdd m.expansionWait 1 })
      else fs.foldl (fun s n => freeSpace (.sectors n.1 n.2) s) s
    s.setObj num fun o => touchPages s.tick off bs.length waits { o with
      data := o.data.write off (o.against off bs)
      poison := o.poison.filter fun g => !(decide (off ≤ 256 * g) && decide (256 * g + 256 ≤ off + bs.length)) }

/-- An uncorrectable error in a read of `len` bytes of an object at `off` (R305). A granule of the range that is poisoned already is the
one met; else the error poisons one, which of them being open (DESIGN CHOICE, log entry 4), and UE_POISONED advances. An UNCORRECTABLE event gives the
stack, 0xFF where the page is in no stack here (DESIGN CHOICE, log entry 92), and the offset. -/
def uncorrectable (num off len : Nat) (s : State) : State :=
  match s.obj num with
  | none => event 1 "UNCORRECTABLE" 0xFF 0 s
  | some o =>
    let first := off / 256
    let count := max 1 ((off + len + 255) / 256 - first)
    let hit := o.poison.find? fun g => decide (first ≤ g) && decide (g < first + count)
    let d := draw s
    let g := hit.getD (first + d.1 % count)
    let s := if hit.isSome then d.2 else (d.2.setObj num fun o => { o with poison := o.poison ++ [g] }).setMem fun m => { m with uePoisoned := satAdd m.uePoisoned 1 }
    let k := if o.pageTier (g / 256) == 1 then (o.stackOf (g / 256)).getD 0xFF else 0xFF
    logEvent 1 (Config.eventCode "UNCORRECTABLE" % 4096) o.owner num (leBytes 1 k ++ leBytes 8 (256 * g)) s

end Sys2Proof.Machine
end

