-- ==== Sys2Proof/Machine/Session.lean ====
section
/-! DEFINITION. Session commands (class 0x0): NEGOTIATE, IDENTIFY, NOP_ECHO, GET_TICK and REDELIVER, and their checks. -/

namespace Sys2Proof.Machine

/-- The agreed ARCH_LEVEL byte of an access point or management endpoint (R62, R369). -/
def State.agreed (s : State) (q : Pkt) : Option Nat :=
  if q.access = 8 then (s.mgmt.endpoints.find? fun e => e.eid == q.stream).bind Endpoint.negotiated
  else (s.port q.access).negotiated

/-- REJECTED/LEVEL: agreed byte, or LEVEL_MAX and MINOR_MAX before agreement, and the reason (R61). -/
def badLevel (q : Pkt) (reason : Nat) (s : State) : Final :=
  { status := status 2 4, detail := 256 * reason + (s.agreed q).getD 0x10 }

/-- NEGOTIATE (R62). The part offers level 1, minor 0 alone (R1). -/
def holdNegotiate (c : Cmd) (s : State) : State :=
  let hi := fld c.q.params 0 1
  let lo := fld c.q.params 1 1
  let others := (s.cmds ++ s.frame.decided.map Decided.cmd).any fun d => d.id != c.id && d.q.access == c.q.access && (c.q.access != 8 || d.q.stream == c.q.stream)
  if (s.agreed c.q).isSome && others then finish c (badLevel c.q 6 s) s
  else if lo ≤ 0x10 ∧ 0x10 ≤ hi then
    let s := if c.q.access = 8 then s.setMgmt fun m => { m with
          endpoints := modifyIf m.endpoints (fun e => e.eid == c.q.stream) fun e => { e with negotiated := some 0x10 } }
        else s.setPort c.q.access fun x => { x with negotiated := some 0x10 }
    finish c { status := status 0 0, detail := 0x10 } s
  else finish c (badLevel c.q 5 s) s

/-- Bits of a list of numbers. -/
def mask (l : List Nat) : Nat := (dedupBy id l).foldl (fun a i => a + 2 ^ i) 0

/-- STATE code of R359. -/
def ModuleState.code : ModuleState → Nat
  | .full => 0 | .reduced => 1 | .minimum => 2 | .safe => 3

/-- Link width code of R366: 0 down, 1 two lanes, 2 four lanes. -/
def Link.widthCode (l : Link) : Nat := match l.state with
  | .up4 => 2
  | .up2 => 1
  | _ => 0
def Link.isUp (l : Link) : Bool := l.widthCode != 0

/-- MB/s of a stack at a rate code (R366). -/
def rateBw : Nat → Nat
  | 3 => 819200 | 2 => 614400 | 1 => 409600 | _ => 0

/-- The firmware slot record of a slot number. -/
def Mgmt.slot (m : Mgmt) (n : Nat) : FwSlot := if n = 0 then m.slotA else m.slotB
def Mgmt.setSlot (m : Mgmt) (n : Nat) (f : FwSlot → FwSlot) : Mgmt :=
  if n = 0 then { m with slotA := f m.slotA } else { m with slotB := f m.slotB }

/-- Active walk engines. -/
def State.engineCount (s : State) : Nat := s.units.engines.foldl (· + ·) 0

/-- The IDENTIFY report (R366). DEVICE is that of the issuing function; the management port is no function, and reads function 0's (DESIGN CHOICE, log
entry 69). -/
def identifyReport (access : Nat) (s : State) : Bytes :=
  let u := s.units
  let m := s.mgmt
  let rateOf := fun i => let k := s.stackList.getD i {}; if k.inService then k.rate else 0
  leBytes 2 0x1F8A ++ leBytes 2 (if access = 0 ∨ access = 8 then 0x4C04 else 0x4C05) ++ leBytes 1 0xB0 ++ leBytes 1 0x10
    ++ leBytes 1 m.moduleState.code ++ leBytes 1 m.running ++ leBytes 4 m.ledger.startCount
    ++ leBytes 2 (s.self + flag s.fabric.joined 15) ++ leBytes 1 (mask u.tiles) ++ leBytes 1 (mask u.clusters)
    ++ (List.range 4).flatMap (fun t => leBytes 1 (u.engines.getD t 0)) ++ leBytes 1 (mask u.spareEngines) ++ zeros 1
    ++ leBytes 2 (mask ((List.range 12).filter fun i => (s.stackList.getD i {}).inService))
    ++ leBytes 6 ((List.range 12).foldl (fun a i => a + rateOf i * 16 ^ i) 0) ++ zeros 2
    ++ leBytes 8 s.t1Present ++ leBytes 8 s.t1Usable ++ leBytes 4 s.t0Present ++ leBytes 4 (s.engineCount * 2048)
    ++ leBytes 8 (mask ((List.range 36).filter fun i => (s.fabric.links.getD i {}).isUp))
    ++ leBytes 9 ((List.range 36).foldl (fun a i => a + (s.fabric.links.getD i {}).widthCode * 4 ^ i) 0) ++ zeros 7
    ++ (List.range 8).flatMap (fun c => leBytes 1 (if u.clusters.contains c then u.spareColumns.getD c 0 else 0xFF))
    ++ leBytes 4 ((List.range 12).foldl (fun a i => a + rateBw (rateOf i)) 0) ++ leBytes 4 (m.slot m.running).version
    ++ leBytes 4 ((List.range 11).foldl (fun a i => let e := m.steps.getD i {}; a + flag (e.outcome == 3 || e.variant != 0) i) 0)
    ++ leBytes 4 m.minimumSteps ++ leBytes 8 (s.t1Usable * 8 / 11777) ++ zeros 16

/-- One report written at the address in parameter bytes 8–15 (R366, R407, R332, R376, R390). -/
def reportAt (c : Cmd) (bs : Bytes) : List HostPost := [⟨fld c.q.params 8 8, bs⟩]

/-- IDENTIFY (R366). -/
def holdIdentify (c : Cmd) (s : State) : State := finish c (okDone 128 (reportAt c (identifyReport c.q.access s))) s

/-- NOP_ECHO (R407): the echo data goes to the output address, or nowhere when it is 0 on a port. -/
def holdNopEcho (c : Cmd) (s : State) : State :=
  let echo := c.q.params.drop 16
  if c.q.access ≠ 8 ∧ fld c.q.params 8 8 = 0 then finish c (okDone 0) s
  else finish c (okDone echo.length (reportAt c echo)) s

/-- Alignment code of R407. -/
def Align.code : Align → Nat
  | .locked => 0 | .freeRun => 1 | .slewing => 2

/-- GET_TICK's 32 bytes; nanoseconds since the boundary are open, within the tick (R17, R407, DESIGN CHOICE, log entry 4). -/
def tickReport (ns : Nat) (s : State) : Bytes :=
  leBytes 6 s.tick ++ leBytes 2 (s.period / 5) ++ leBytes 2 (s.guard / 5) ++ leBytes 2 s.fabric.leader ++ leBytes 4 ns
    ++ leBytes 1 s.frame.align.code ++ zeros 15

/-- GET_TICK (R17, R407). -/
def holdGetTick (c : Cmd) (s : State) : State :=
  let d := draw s
  let s := d.2
  let rep := tickReport (d.1 % (1000 * s.period + 1)) s
  let data := if c.q.access ≠ 8 ∧ fld c.q.params 8 8 = 0 then [] else reportAt c rep
  finish c (okDone (s.tick % 2 ^ 32) data) s

/-! ## REDELIVER (R353) -/

/-- Is there a free record in the command's reply stream? -/
def State.recordFree (s : State) (p t : Nat) : Bool := match (s.port p).replies[t]? with
  | some r => r.enable && !r.stopping && decide (0 < r.room)
  | none => false

/-- End of a REDELIVER: the LOST record first when replies were lost, then its own record (R353). -/
def redeliverEnd (c : Cmd) (count : Nat) (s : State) : State :=
  let x := s.port c.q.access
  let m := microsNow s
  let s := if x.parkLost = 0 then s
    else (writeRecord c.q.access c.rstream ⟨0, status 6 1, 0, 0, x.parkLost, s.tick, m.1, []⟩ m.2).setPort c.q.access fun y => { y with parkLost := 0 }
  finish c (okDone count) s

/-- Deliver up to `n` parked replies less one in the order they were parked, and end when none is left; stop when no record is free (R353). -/
def redeliverSome (c : Cmd) (jid mode : Nat) : (n count : Nat) → State → State
  | 0, count, s => s.setJob jid fun j => { j with count := count, progressed := true }
  | n + 1, count, s =>
    let p := c.q.access
    match (s.port p).park with
    | [] =>
      if (s.port p).parkLost = 0 ∨ s.recordFree p c.rstream then
        redeliverEnd c count { s with jobs := s.jobs.filter fun j => j.id != jid }
      else s.setJob jid fun j => { j with count := count }
    | r :: rest =>
      let drop := fun (s : State) => s.setPort p fun x => { x with park := rest }
      if n = 0 then s.setJob jid fun j => { j with count := count, progressed := true }
      else if mode = 1 || r.data.any (fun w => !w.data.isEmpty && !s.reachable p w.addr w.data.length) then
        redeliverSome c jid mode n count ((drop s).setPort p fun x => { x with parkLost := min (x.parkLost + 1) 0xFFFFFFFF })
      else if s.recordFree p c.rstream then redeliverSome c jid mode n (count + 1) (writeRecord p c.rstream r (drop s))
      else s.setJob jid fun j => { j with count := count }

/-- One slice of a REDELIVER job: up to 1,024 replies (R353). -/
def redeliverSlice (j : Job) (s : State) : State :=
  match j.cmd.bind s.cmd with
  | some c => redeliverSome c j.id (j.args.getD 0 0) 1025 j.count s
  | none => { s with jobs := s.jobs.filter fun k => k.id != j.id }

/-- Start a job for a command: the command runs until its job ends (R26). -/
def startJob (c : Cmd) (k : JobKind) (args : List Nat) (s : State) : State × Nat :=
  let s := s.setCmd c.id fun d => { d with state := .running, admitTick := s.tick }
  ({ s with jobs := s.jobs ++ [{ id := s.freshJob, kind := k, cmd := some c.id, port := c.q.access, args := args }], nextJob := s.freshJob + 1 }, s.freshJob)

/-- REDELIVER (R353): its first slice runs in the tick in which it takes hold. -/
def holdRedeliver (c : Cmd) (s : State) : State :=
  let r := startJob c .redeliver [fld c.q.params 0 1] s
  match r.1.jobs.find? fun j => j.id == r.2 with
  | some j => redeliverSlice j r.1
  | none => r.1

/-- Range and address checks of the session opcodes (check 5 of R54). -/
def checkSession (op : Nat) (q : Pkt) (s : State) : Option Final :=
  match op with
  | 0x0002 => addrCheck q 8 64 128 false s
  | 0x0003 => if q.params.length < 16 then some badLen else addrCheck q 8 1 (q.params.length - 16) true s
  | 0x0004 => addrCheck q 8 1 32 true s
  | 0x0005 => firstBad [(decide (1 < fld q.params 0 1), badParam 0 0)]
  | _ => none

end Sys2Proof.Machine
end

