-- ==== Sys2Proof/Machine/FabricNet.lean ====
section
/-! DEFINITION. Routes over the Miusk fabric and the sending of packets: the route of each destination, PAIR_SEQ, multicast copies
(R314–R326). -/

namespace Sys2Proof.Machine

/-! ## Routes (R317) -/

/-- A link seen from its other end. -/
def LiveLink.flip (l : LiveLink) : LiveLink := ⟨l.b, l.bLink, l.a, l.aLink, l.half⟩

/-- The live links this member knows, each both ways: its own that are up, and those its neighbours advertise (R317). -/
def Fabric.live (f : Fabric) : List LiveLink :=
  let own := (f.links.zipIdx.filter fun l => l.1.isUp).map fun l => (⟨f.member, l.2, l.1.partner, l.1.partnerLink, l.1.state == .up2⟩ : LiveLink)
  let told := (f.links.filter Link.isUp).flatMap Link.advertised
  let all := own ++ told.filter fun l => l.a != f.member && l.b != f.member
  dedupBy (fun l => (l.a * 2048 + l.b) * 2048 + l.aLink) (all ++ all.map LiveLink.flip)

/-- Does a known live link join two members? -/
def joins (live : List LiveLink) (x y : Nat) : Bool := live.any fun l => l.a == x && l.b == y

/-- The link to a direct neighbour that is up. -/
def Fabric.linkTo (f : Fabric) (m : Nat) : Option Nat :=
  (List.range 36).find? fun i => let l := f.links.getD i {}; l.isUp && l.partner == m

/-- First hop toward a member of the own group: itself, or the lowest member with live links to both ends (R317). -/
def Fabric.hopInGroup (f : Fabric) (live : List LiveLink) (m : Nat) : Option Nat :=
  if (f.linkTo m).isSome then some m
  else ((List.range 32).map (· + 32 * (f.member / 32))).find? fun v => v != f.member && v != m && joins live f.member v && joins live v m

/-- The links between two groups, ordered by their member on the first group's side and then by its link number; those at half width are left out while one
at full width exists (R317). -/
def between (live : List LiveLink) (g h : Nat) : List LiveLink :=
  let l := live.filter fun p => p.a / 32 == g && p.b / 32 == h
  let full := l.filter fun p => !p.half
  sortBy (fun x y => decide (x.a < y.a) || (x.a == y.a && decide (x.aLink < y.aLink))) (if full.isEmpty then l else full)

/-- First hop toward another group by a chosen link. -/
def Fabric.hopToGroup (f : Fabric) (live : List LiveLink) (dst h : Nat) : Option Nat :=
  let l := between live (f.member / 32) h
  match l[(f.member + dst) % max l.length 1]? with
  | some p => if p.a = f.member then some p.b else f.hopInGroup live p.a
  | none => none

/-- First hop toward a destination, and whether the route detours through a third group (R317). -/
def Fabric.firstHop (f : Fabric) (live : List LiveLink) (dst : Nat) : Option (Nat × Bool) :=
  let g := f.member / 32
  let h := dst / 32
  if g = h then (f.hopInGroup live dst).map fun m => (m, false)
  else match f.hopToGroup live dst h with
    | some m => some (m, false)
    | none =>
      match (List.range 64).find? fun j => j != g && j != h && !(between live g j).isEmpty && !(between live j h).isEmpty with
      | some j => (f.hopToGroup live dst j).map fun m => (m, true)
      | none => none

/-- Members that known links reach from those of `seen`. -/
def reachOver (live : List LiveLink) : (fuel : Nat) → (seen : List Nat) → List Nat
  | 0, seen => seen
  | fuel + 1, seen =>
    match (live.filter fun p => seen.contains p.a && !seen.contains p.b).map LiveLink.b with
    | [] => seen
    | new => reachOver live fuel (dedupBy id (seen ++ new))

/-- Recompute every route (R317). Members that no live link reaches any more no longer count as joined here (R331, DEDUCED, log entry 36); the leader
does until it is lost (R29). DETOUR_ROUTES advances for each route through a third group. -/
def recomputeRoutes (s : State) : State :=
  s.setFabric fun f =>
    let live := f.live
    let near := reachOver live f.members.length [f.member]
    let f := { f with members := f.members.filter fun m => m == f.member || m == f.leader || near.contains m }
    let rs := (f.members.filter (· != f.member)).filterMap fun m => match f.firstHop live m with
      | some h => (f.linkTo h.1).map fun l => (m, l, h.2)
      | none => none
    { f with
      stale := false
      routes := rs.map fun r => (r.1, r.2.1)
      detourRoutes := satAdd f.detourRoutes (rs.filter fun r => r.2.2).length }

/-- The route's link to a destination. -/
def State.routeTo (s : State) (m : Nat) : Option Nat := assocGet m s.fabric.routes
/-- Can this member send to a destination: joined, with a route (R138, R325)? -/
def State.canReach (s : State) (m : Nat) : Bool := s.joined m && (s.routeTo m).isSome

/-! ## Sending (R320, R321, R325) -/

/-- Packets of a pair that may stand unacknowledged (R320). -/
abbrev pairWindow : Nat := 4096

/-- Packets to a destination that have gone out and are not acknowledged. -/
def Fabric.inFlight (f : Fabric) (dst : Nat) : Nat := (f.unacked.filter fun p => p.1.dst == dst).length - (f.backlog.filter fun p => p.dst == dst).length

/-- Send a unicast packet: it takes the pair's next PAIR_SEQ and stays unacknowledged until acknowledged; it waits while the window is full (R320). -/
def sendFab (p : FabPkt) (s : State) : State :=
  s.setFabric fun f =>
    let q := (assocGet p.dst f.txSeq).getD 0
    let p := { p with pairSeq := q, link := assocGet p.dst f.routes }
    let room := decide (f.inFlight p.dst < pairWindow)
    { f with
      txSeq := assocPut p.dst ((q + 1) % 65536) f.txSeq, unacked := f.unacked ++ [(p, 0)]
      sent := if room then f.sent ++ [p] else f.sent, backlog := if room then f.backlog else f.backlog ++ [p] }

/-- Packets that waited for their pair's window go out while it has room (R320). -/
def sendBacklog (dst : Nat) (s : State) : State :=
  s.setFabric fun f =>
    let go := (f.backlog.filter fun p => p.dst == dst).take (pairWindow - f.inFlight dst)
    { f with sent := f.sent ++ go, backlog := f.backlog.filter fun p => !go.contains p }

/-- Send a packet that is not sequenced: ACK and forwarded copies. -/
def sendRaw (p : FabPkt) (s : State) : State := s.setFabric fun f => { f with sent := f.sent ++ [{ p with link := assocGet p.dst f.routes }] }

/-- Multicast (R325): one copy to each destination of the own group, and one to each other group with the bitmap cut to it. -/
def sendMulti (p : FabPkt) (members : List Nat) (s : State) : State :=
  let g := s.self / 32
  let own := members.filter fun m => m / 32 == g
  let groups := dedupBy id ((members.filter fun m => m / 32 != g).map (· / 32))
  let mk := fun (ms : List Nat) => { p with mcast := true, dst := 0x7FF, pairSeq := 0, members := ms, link := (ms.head?).bind fun m => assocGet m s.fabric.routes }
  s.setFabric fun f => { f with
    sent := f.sent ++ own.map (fun m => mk [m]) ++ groups.map fun h => mk (members.filter fun m => m / 32 == h) }

/-! ## Writes and atomics on pages of other members (R286, R315, R321) -/

/-- Global address of a byte of an object: the object address range of its creator (R315). -/
def Obj.globalAddr (o : Obj) (off : Nat) : Nat := 2 ^ 62 + 2 ^ 51 * (o.num / 2 ^ 21) + o.base + off

/-- TYPE_SPEC of READ and WRITE (R321). -/
def memSpec (addr n : Nat) : Bytes := leBytes 1 0 ++ leBytes 8 addr ++ leBytes 2 n

/-- A memory packet of a command goes to the home of the page it names or, for a replicated object, to every other copy by multicast (R286, R319). -/
def sendToHome (c : Cmd) (o : Obj) (typ cls off : Nat) (spec payload : Bytes) (s : State) : State :=
  let p : FabPkt := { typ := typ, cls := cls, mcast := false, dst := o.homeOf (off / pageBytes), pairSeq := 0, coord := s.self, query := c.id
                      admitTick := c.admitTick, deadline := c.deadline, spec := spec, payload := payload }
  if o.spread = 1 then
    let away := o.homes.filter fun m => m != s.self && s.canReach m
    if away.isEmpty then s else sendMulti p away s
  else if o.spread = 2 ∧ p.dst ≠ s.self ∧ s.canReach p.dst = true then sendFab p s
  else s

/-- The granules of a write in runs of at most 64 that lie in one page: first granule and count (R321). -/
def writeRuns (off n : Nat) : List (Nat × Nat) :=
  let last := (off + n - 1) / 256
  (List.range (last / 64 + 1 - off / 256 / 64)).map fun i =>
    let b := (off / 256 / 64 + i) * 64
    (max b (off / 256), min (b + 63) last + 1 - max b (off / 256))

/-- A command's write of an object: it stands in this member's view, and WRITE packets carry the granules that lie elsewhere, or the copies, to the members
that hold them (R286, R299, R321; DESIGN CHOICE, log entry 9). -/
def writeFor (c : Cmd) (cls num off : Nat) (bs : Bytes) (s : State) : State :=
  let s := s.writeObj num off bs
  match s.obj num with
  | none => s
  | some o =>
    if o.spread = 0 ∨ bs.isEmpty = true then s
    else (writeRuns off bs.length).foldl (fun s r =>
      sendToHome c o 0x03 cls (256 * r.1) (memSpec (o.globalAddr (256 * r.1)) r.2) (s.readObj num (256 * r.1) (256 * r.2)) s) s

/-- As `writeFor`, for the command of this id while there is one. -/
def writeBy (id : Option Nat) (cls num off : Nat) (bs : Bytes) (s : State) : State :=
  match id.bind s.cmd with
  | some c => writeFor c cls num off bs s
  | none => s.writeObj num off bs

end Sys2Proof.Machine
end

