-- ==== Sys2Proof/Machine/Channels.lean ====
section
/-! DEFINITION. Channels and settings: creation, rebinding, destruction, status, SET and GET with their consistency rules (R65–R80). -/

namespace Sys2Proof.Machine

/-! ## Channel settings -/

/-- Put a channel setting in force. -/
def Channel.put (c : Channel) (sid v tick : Nat) : Channel := { c with settings := assocPut sid { value := v, since := tick } c.settings }
/-- Record a value that waits under "older rule holds" (R79). -/
def Channel.hold (c : Channel) (sid v : Nat) : Channel :=
  { c with settings := assocPut sid { ((assocGet sid c.settings).getD { value := 0 }) with awaiting := some v } c.settings }
def Channel.awaiting (c : Channel) (sid : Nat) : Option Nat := (assocGet sid c.settings).bind SetVal.awaiting

/-- Let a recorded HOP_BUDGET or ESCALATION_HOPS take effect once it agrees with the other in force (R79, R80's example). -/
def Channel.resolve (c : Channel) (tick : Nat) : Channel :=
  let c := match c.awaiting 0x0306 with
    | some v => if c.setting 0x0308 = 0 ∨ v < c.setting 0x0308 then c.put 0x0306 v tick else c
    | none => c
  match c.awaiting 0x0308 with
  | some v => if v = 0 ∨ c.setting 0x0306 < v then c.put 0x0308 v tick else c
  | none => c

/-- Trailer length in the K and sink rule (R79, R141). -/
abbrev trailerBytes : Nat := 64

/-- Is the handle that of a LIVE KERNEL channel of this port (R80)? -/
def State.kernelChan (s : State) (p h : Nat) : Option Channel :=
  match s.handleChan h with
  | some k => if k.type = 5 ∧ k.port = p then some k else none
  | none => none

/-- A SET of one channel setting on a channel: the channel after it, or the status it fails with (R77–R80). `off` is the
parameter byte of the value. -/
def setChan (c : Channel) (sid v off : Nat) (s : State) : Channel ⊕ Final :=
  let put := Sum.inl ((c.put sid v s.tick).resolve s.tick)
  match sid with
  | 0x0304 => if 16 * v + trailerBytes ≤ c.sinkBytes then put else .inr (badParam 2 off)
  | 0x0305 => if s.quota c.port 3 ≠ 0xFFFFFFFF ∧ s.quota c.port 3 < v then .inr (badQuota 4 false) else put
  | 0x0306 => if v < c.setting 0x0307 then .inr (badParam 2 off)
      else if c.setting 0x0308 = 0 ∨ v < c.setting 0x0308 then put else .inl (c.hold sid v)
  | 0x0307 => if v ≤ c.setting 0x0306 then put else .inr (badParam 2 off)
  | 0x0308 => if v = 0 ∨ c.setting 0x0306 < v then put else .inl (c.hold sid v)
  | 0x030A => if v = 0 ∨ (s.kernelChan c.port v).isSome then put else .inr (badParam 3 off)
  | _ => put

/-- Settings of a fresh channel of a type (R67, R78, R14). -/
def freshSettings (type joined tick : Nat) : List (Nat × SetVal) :=
  ((List.range 13).map (· + 0x0301)).filterMap fun sid =>
    if (settingTypes sid).contains type then some (sid, { value := chanDefault joined sid, since := tick }) else none

/-! ## CHANNEL_CREATE (R67) -/

/-- Is the object an own PRIMARY of this channel type for the port, usable on this member (R34, R67)? -/
def State.primaryOk (s : State) (p type n : Nat) : Bool :=
  match type with
  | 1 | 2 => match s.index n with
    | some x => x.owner == p && (x.mode != 0 || x.num / 2 ^ 21 == s.self)
    | none => false
  | 3 | 4 => match s.tables.find? fun t => t.num == n && !t.freed with
    | some t => t.owner == p && (t.usableFrom.any fun b => decide (b ≤ s.tick)) && (t.place != 0 || t.num / 2 ^ 21 == s.self)
    | none => false
  | _ => n == 0

/-- Apply the OVERRIDES in entry order (R67). -/
def applyOverrides (ps : Bytes) (s : State) : (n i : Nat) → Channel → Channel ⊕ Final
  | 0, _, c => .inl c
  | n + 1, i, c =>
    let o := 32 + 8 * i
    let sid := fld ps o 2
    let v := fld ps (o + 4) 4
    if sid = 0 then applyOverrides ps s n (i + 1) c
    else if !chanSetting sid then .inr (badParam 3 o)
    else if !(settingTypes sid).contains c.type then .inr (badParam 2 o)
    else if sid = 0x0303 ∧ v = 0 then applyOverrides ps s n (i + 1) (c.put sid (chanDefault s.fabric.members.length sid) s.tick)
    else if !inRange sid v then .inr (badParam 0 o)
    else match setChan c sid v o s with
      | .inl c => applyOverrides ps s n (i + 1) c
      | .inr f => .inr (if f.status = status 2 2 then badParam 2 o else f)

/-- Checks of CHANNEL_CREATE beyond its overrides (R67, R80). -/
def checkCreate (q : Pkt) (s : State) : Option Final :=
  let ps := q.params
  let type := fld ps 0 1
  let base := fld ps 16 8
  let bytes := fld ps 24 4
  let enc := fld ps 8 4
  firstBad
    [(type == 0 || decide (7 < type), badParam 0 0),
     (!s.primaryOk q.access type (fld ps 4 4), badParam (if 5 ≤ type then 2 else 3) 4),
     (enc != 0 && type != 1, badParam 2 8),
     (enc != 0 && (s.kernelChan q.access enc).isNone, badParam 3 8),
     ((type == 1 || type == 3) && base == 0, badParam 2 16),
     ((type == 2 || type == 4 || type == 6 || type == 7) && (base != 0 || bytes != 0), badParam 2 16),
     (base % 64 != 0, badParam 0 16),
     (base != 0 && !s.reachable q.access base bytes, badParam 3 16)]

/-- Lowest-numbered FREE slot, with its generation (R66, R67). -/
def State.freeSlot (s : State) : Option (Nat × Nat) :=
  (findFrom (fun i => match s.chan i with
    | some c => c.state == .free
    | none => true) (min 16384 (s.channels.length + 1)) 0).map fun i => (i, ((s.chan i).map Channel.gen).getD 1)

def holdChannelCreate (c : Cmd) (s : State) : State :=
  let ps := c.q.params
  let p := c.q.access
  let type := fld ps 0 1
  match checkCreate c.q s with
  | some f => finish c f s
  | none =>
    let ch : Channel := { slot := 0, state := .live, type := type, port := p, reply := fld ps 1 1, primary := fld ps 4 4
                          encoder := fld ps 8 4, sinkBase := fld ps 16 8, sinkBytes := fld ps 24 4
                          settings := freshSettings type s.fabric.members.length s.tick, bindTick := s.tick }
    match applyOverrides ps s 4 0 ch with
    | .inr f => finish c f s
    | .inl ch =>
      if ch.type = 1 ∧ ch.sinkBytes < 16 * ch.setting 0x0304 + trailerBytes then finish c (badParam 2 24) s
      else if !s.quotaAllows p 4 1 then finish c (badQuota 5 false) s
      else match s.freeSlot with
        | none => finish c (badQuota 5 true) s
        | some (slot, gen) =>
          let ch := { ch with slot := slot, gen := gen }
          let s := { s with channels := s.channels.filter (fun d => d.slot != slot) ++ [ch] }
          finish c { status := status 0 0, handle := some ch.handle } (chargeQuota p 4 1 s)

/-! ## CHANNEL_REBIND (R71) -/

/-- Commands of a channel that run (R71). -/
def State.chanRunning (s : State) (h : Nat) : List Cmd := s.cmds.filter fun c => c.state == .running && c.q.handle == h

/-- Commands of a channel that are admitted and not yet replied (R75). -/
def State.chanUnreplied (s : State) (h : Nat) : List Cmd :=
  (s.cmds ++ s.frame.decided.map Decided.cmd).filter fun c => c.state == .running && c.q.handle == h

/-- Same shape, so that packets decoded against the old binding stay valid (R71). -/
def Index.sameShape (a b : Index) : Bool :=
  a.dims == b.dims && a.sketch == b.sketch && a.degree == b.degree && a.metric == b.metric && a.form == b.form
def Table.sameShape (a b : Table) : Bool := a.rowBytes == b.rowBytes && a.fmt == b.fmt

/-- Decode checks of REBIND (R71). -/
def checkRebind (q : Pkt) : Option Final :=
  let which := fld q.params 0 1
  let v := fld q.params 8 8
  let n := fld q.params 16 4
  firstBad
    [(which == 0 || decide (4 < which), badParam 0 0), ((which == 3) == (n == 0), badParam 2 16), (which == 3 && v % 64 != 0, badParam 0 8),
     (which == 4 && decide (1 < v), badParam 0 8)]

/-- The channel after a REBIND, or the status it fails with (R71, R79, R80). -/
def rebind (ch : Channel) (q : Pkt) (s : State) : Channel ⊕ Final :=
  let ps := q.params
  let v := fld ps 8 8
  let p := ch.port
  let which := fld ps 0 1
  if which ≠ 3 ∧ fld ps 16 4 ≠ 0 then .inr (badParam 2 16)
  else match which with
    | 1 =>
      if 5 ≤ ch.type then .inr (badParam 2 0)
      else if !s.primaryOk p ch.type v then .inr (badParam 3 8)
      else
        let same := if ch.type ≤ 2 then (match s.index ch.primary, s.index v with
            | some a, some b => a.sameShape b
            | _, _ => false)
          else match s.tables.find? (fun t => t.num == ch.primary), s.tables.find? (fun t => t.num == v) with
            | some a, some b => a.sameShape b
            | _, _ => false
        if same then .inl { ch with primary := v } else .inr (badParam 2 8)
    | 2 =>
      if ch.type ≠ 1 then .inr (badParam 2 0)
      else if v ≠ 0 ∧ (s.kernelChan p v).isNone then .inr (badParam 3 8)
      else .inl { ch with encoder := v }
    | 3 =>
      let n := fld ps 16 4
      if n = 0 then .inr (badParam 2 16)
      else if ch.type = 2 ∨ ch.type = 4 ∨ 6 ≤ ch.type then .inr (badParam 2 0)
      else if v % 64 ≠ 0 then .inr (badParam 0 8)
      else if !s.reachable p v n then .inr (badParam 3 8)
      else if ch.type = 1 ∧ n < 16 * ch.setting 0x0304 + trailerBytes then .inr (badParam 2 16)
      else .inl { ch with sinkBase := v, sinkBytes := n }
    | 4 => if 1 < v then .inr (badParam 0 8) else .inl { ch with reply := v }
    | _ => .inr (badParam 0 0)

def holdChannelRebind (c : Cmd) (s : State) : State :=
  match s.handleChan c.q.handle with
  | none => finish c badHandle s
  | some ch => match rebind ch c.q s with
    | .inr f => finish c f s
    | .inl ch' =>
      let n := ((s.chanRunning c.q.handle).filter fun d => d.id != c.id).length
      finish c (okDone n) (s.setChan ch.slot fun _ => { ch' with bindTick := s.tick, binding := ch.binding + 1 })

/-! ## CHANNEL_STATUS (R75) -/

def ChanState.code : ChanState → Nat
  | .free => 0 | .live => 1 | .destroying => 2

def holdChannelStatus (c : Cmd) (s : State) : State :=
  match s.handleChan c.q.handle with
  | none => finish c badHandle s
  | some ch =>
    let run := (s.chanUnreplied c.q.handle).filter fun d => d.id != c.id
    let rep := leBytes 4 ch.state.code ++ leBytes 4 run.length ++ leBytes 4 (run.filter fun d => decide (d.binding < ch.binding)).length
      ++ leBytes 4 ch.overrun ++ leBytes 4 ch.escalations ++ leBytes 6 ch.bindTick ++ zeros 38
    finish c (okDone 64 (reportAt c rep)) s

/-! ## SET and GET (R76, R77, R79, R310, R363, R409) -/

/-- Put a member-wide or per-port setting in force. -/
def putSetting (sid v : Nat) (s : State) : State := { s with settings := assocPut sid { value := v, since := s.tick } s.settings }

/-- EXPANSION_RESERVE waits while free T1 does not cover it (R310). -/
def resolveSettings (s : State) : State :=
  let s := match (assocGet 0x0404 s.settings).bind SetVal.awaiting with
    | some v => if v ≤ s.t1Free then putSetting 0x0404 v s else s
    | none => s
  { s with channels := s.channels.map fun c => if c.state == .live then c.resolve s.tick else c }

/-- A SET outside channels: the state after it, or the status it fails with (R33, R39, R46, R298, R310, R363). -/
def setMember (sid v : Nat) (s : State) : State ⊕ Final :=
  let bad := Sum.inr (badParam 2 8)
  let put := Sum.inl (putSetting sid v s)
  if 0x0200 ≤ sid ∧ sid < 0x0280 then
    let p := (sid - 0x0200) / 16
    if sid = 0x0200 ∧ !bit v 0 then bad else .inl (setEvents p 2 (putSetting sid v s))
  else match sid with
    | 0x0101 => if s.fabric.leader ≠ s.self then .inr (badParam 2 0) else if 4 * s.guard ≤ v then put else bad
    | 0x0102 => if s.fabric.leader ≠ s.self then .inr (badParam 2 0) else if 4 * v ≤ s.period then put else bad
    | 0x0401 =>
      if v ≤ s.setting 0x0401 ∨ s.carveout v + s.t0Reserve + s.t0Held * pageBytes ≤ s.t0Present then
        .inl (trimCache v ((putSetting sid v s).setMem fun m => { m with carveout := v }))
      else bad
    | 0x0402 => if v + s.setting 0x0403 ≤ 32 then put else bad
    | 0x0403 => if v + s.setting 0x0402 ≤ 32 then put else bad
    | 0x0404 => if v ≤ s.t1Free then put
      else .inl { s with settings := assocPut sid { ((assocGet sid s.settings).getD { value := 0 }) with awaiting := some v } s.settings }
    | 0x0501 => .inl (writeLedger (fun l => { l with repairPolicy := v }) (putSetting sid v s))
    | 0x0502 => if v < s.setting 0x0503 then .inl (writeLedger (fun l => { l with agingMargin := v }) (putSetting sid v s)) else bad
    | 0x0503 => if s.setting 0x0502 < v then .inl (writeLedger (fun l => { l with agingWarn := v }) (putSetting sid v s)) else bad
    | _ => put

/-- Checks of SET and GET at decode (R76, R78, R409). -/
def checkSetGet (op : Nat) (q : Pkt) (s : State) : Option Final :=
  let sid := fld q.params 0 2
  let v := fld q.params 8 8
  firstBad
    [((settingRange sid).isNone, badParam 3 0),
     (op == 0x8001 && !inRange sid v, badParam 0 8),
     (!chanSetting sid && q.handle != 0, { status := status 2 1, detail := 0x2000 }),
     (chanSetting sid && ((s.handleChan q.handle).map fun ch => !(settingTypes sid).contains ch.type).getD false, badParam 2 0)]
  <|> (if op = 0x8002 then addrCheck q 8 16 16 false s else none)

/-- The value in force of the setting that a SET or GET names: of its channel, or outside channels (R76). -/
def State.settingOf (s : State) (q : Pkt) : Nat :=
  let sid := fld q.params 0 2
  if chanSetting sid then ((s.handleChan q.handle).map fun ch => ch.setting sid).getD 0 else s.setting sid

/-- The audit entry of a SET: ID, old value, new value, result (R382). -/
def auditSet (q : Pkt) (old : Nat) (rejected : Bool) (s : State) : State :=
  auditFor 4 (if rejected then 1 else 0) q
    (leBytes 2 (fld q.params 0 2) ++ zeros 6 ++ leBytes 8 old ++ leBytes 8 (fld q.params 8 8) ++ leBytes 1 (if rejected then 1 else 0) ++ zeros 15) s

/-- Why a SET would be refused as it takes hold; none when it is performed (R76–R80). -/
def settingOutcome (q : Pkt) (s : State) : Option Final :=
  let sid := fld q.params 0 2
  let v := fld q.params 8 8
  let bad := fun {α : Type} (r : α ⊕ Final) => match r with
    | .inr f => some f
    | .inl _ => none
  if chanSetting sid then match s.handleChan q.handle with
    | none => some badHandle
    | some ch => if !(settingTypes sid).contains ch.type then some (badParam 2 0) else bad (setChan ch sid v 8 s)
  else bad (setMember sid v s)

/-- Change a channel's setting and answer (R77, R78). -/
def holdSetChan (c : Cmd) (s : State) : State :=
  let sid := fld c.q.params 0 2
  let v := fld c.q.params 8 8
  match s.handleChan c.q.handle with
  | none => finish c badHandle s
  | some ch =>
    let old := ch.setting sid
    if !(settingTypes sid).contains ch.type then finish c (badParam 2 0) (auditSet c.q old true s)
    else match setChan ch sid v 8 s with
      | .inr f => finish c f (auditSet c.q old true s)
      | .inl ch' => finish c (okDone 0) ((auditSet c.q old false s).setChan ch.slot fun _ => ch')

/-- SET (R76, R77). -/
def holdSet (c : Cmd) (s : State) : State :=
  let sid := fld c.q.params 0 2
  let v := fld c.q.params 8 8
  if chanSetting sid then holdSetChan c s
  else match setMember sid v s with
    | .inr f => finish c f (auditSet c.q (s.setting sid) true s)
    | .inl s' => finish c (okDone 0) (resolveSettings (auditSet c.q (s.setting sid) false s'))

/-- GET (R76): value, tick, AWAITING. -/
def holdGet (c : Cmd) (s : State) : State :=
  let sid := fld c.q.params 0 2
  let sv := if chanSetting sid then (s.handleChan c.q.handle).bind fun ch => assocGet sid ch.settings else assocGet sid s.settings
  match sv with
  | none => finish c (badParam 2 0) s
  | some sv =>
    let rep := leBytes 8 sv.value ++ leBytes 6 sv.since ++ leBytes 1 (flag sv.awaiting.isSome 0) ++ zeros 1
    finish c (okDone (sv.value % 2 ^ 32) (reportAt c rep)) s

end Sys2Proof.Machine
end

