-- ==== Sys2Proof/Machine/Regions.lean ====
section
/-! DEFINITION. Registered host regions, placement windows and stream faults: REGION_REGISTER and REGION_RELEASE (R50, R341–R345). -/

namespace Sys2Proof.Machine

/-- Host area of a command stream that is enabled (R37). -/
def CmdStream.area (c : CmdStream) : Option (Nat × Nat) :=
  if (c.enable && c.size != 0) || c.state == .draining then some (c.base, c.size * 4096) else none
/-- Host area of a reply stream that is enabled. -/
def ReplyStream.area (r : ReplyStream) : Option (Nat × Nat) := if r.enable then some (r.base, r.size * 4096) else none

/-- Areas of a port's enabled streams. -/
def Port.areas (x : Port) : List (Nat × Nat) := x.cmds.filterMap CmdStream.area ++ x.replies.filterMap ReplyStream.area

/-- A running command stream becomes FAULTED: fetching stops, PCB_EVENTS shows it, and one record says so when the stream's reply
stream can take it (R50). -/
def faultStream (p st cause tag : Nat) (s : State) : State :=
  match (s.port p).cmds[st]? with
  | none => s
  | some cs =>
    if cs.state == .running then
      let s := s.setPort p fun x => { x with cmds := modifyAt x.cmds st fun c => { c with state := .faulted, cause := cause } }
      let s := setEvents p 4 s
      let s := event 1 "STREAM" p st s
      if s.recordFree p cs.reply then
        let m := microsNow s
        writeRecord p cs.reply ⟨tag, status 5 3, cause, 0, 0, s.tick, m.1, []⟩ m.2
      else s
    else s

/-- Checks of REGION_REGISTER that name no state (R341). -/
def checkRegister (q : Pkt) (s : State) : Option Final :=
  let ps := q.params
  let kind := fld ps 0 1
  let base := fld ps 8 8
  let bytes := fld ps 16 8
  let lim := 64 * 2 ^ 30
  match kind with
  | 0 => firstBad [(decide (1 < fld ps 1 1), badParam 0 1), (base % 4096 != 0, badParam 0 8),
      (bytes % 4096 != 0 || bytes == 0 || decide (lim < bytes), badParam 0 16)]
  | 1 => firstBad [(base % 65536 != 0, badParam 0 8), (bytes % 65536 != 0 || bytes == 0 || decide (lim < bytes), badParam 0 16),
      (fld ps 24 8 % 65536 != 0, badParam 0 24), ((s.ownObj q.access (fld ps 4 4)).isNone, badParam 3 4)]
  | 2 => firstBad [(decide (1 < fld ps 1 1), badParam 0 1), (base % 4096 != 0, badParam 0 8),
      (bytes % 4096 != 0 || bytes == 0 || decide (lim < bytes), badParam 0 16)]
  | 3 => none
  | _ => some (badParam 0 0)

/-- Lowest number of `n` not in a list. -/
def lowestFree (used : List Nat) (n : Nat) : Option Nat := findFrom (fun i => !used.contains i) (min n (used.length + 1)) 0

/-- KIND 0: register a host region (R341). -/
def registerRegion (c : Cmd) (s : State) : State :=
  let p := c.q.access
  let base := fld c.q.params 8 8
  let bytes := fld c.q.params 16 8
  if s.regions.any fun r => r.overlaps p base bytes then finish c (badParam 2 8) s
  else match lowestFree ((s.regions.filter fun r => r.port == p && decide (r.number < 4094)).map Region.number) 4094 with
    | none => finish c (badParam 2 0) s
    | some n =>
      let owned := if fld c.q.params 1 1 = 1 then List.range (bytes / 4096) else []
      finish c (okDone n) { s with regions := s.regions ++ [{ port := p, number := n, base := base, bytes := bytes, owned := owned }] }

/-- KIND 1: open a placement window (R341, R344). -/
def openWindow (c : Cmd) (s : State) : State :=
  let ps := c.q.params
  let p := c.q.access
  let base := fld ps 8 8
  let bytes := fld ps 16 8
  let ap := fld ps 24 8
  match s.ownObj p (fld ps 4 4) with
  | none => finish c (badParam 3 4) s
  | some o =>
    if o.tier = 2 ∨ o.spread ≠ 0 then finish c (badParam 2 4) s
    else if o.pages * pageBytes < base + bytes then finish c (badParam 2 8) s
    else if 64 * 2 ^ 30 < ap + bytes ∨ (s.windows.any fun w => w.port == p && decide (w.aperture < ap + bytes) && decide (ap < w.aperture + w.bytes)) = true
      then finish c (badParam 2 24) s
    else match lowestFree ((s.windows.filter fun w => w.port == p).map Window.number) 64 with
      | none => finish c (badParam 2 0) s
      | some n =>
        let reqs := (List.range 4).filterMap fun i => let m := fld ps (32 + 4 * i + 2) 2; if m = 0 then none else some (fld ps (32 + 4 * i) 2, m)
        finish c (okDone n) { s with windows := s.windows ++ [⟨p, n, o.num, base, bytes, ap, reqs⟩] }

/-- KIND 2: set the bias of a range of a region (R342). -/
def setBias (c : Cmd) (s : State) : State :=
  let ps := c.q.params
  let p := c.q.access
  let n := fld ps 2 2
  let off := fld ps 8 8
  let bytes := fld ps 16 8
  match s.regions.find? fun r => r.port == p && r.number == n with
  | none => finish c (badParam 3 2) s
  | some r =>
    if r.bytes < off + bytes then finish c (badParam 2 8) s
    else if fld ps 1 1 = 1 ∧ ((s.port p).areas.any fun a => decide (a.1 < r.base + off + bytes) && decide (r.base + off < a.1 + a.2)) = true
      then finish c (badParam 2 8) s
    else
      let pages := (List.range (bytes / 4096)).map (· + off / 4096)
      let owned := r.owned.filter fun i => !pages.contains i
      finish c (okDone 0) { s with regions := modifyIf s.regions (fun x => x.port == p && x.number == n) fun x =>
        { x with owned := if fld ps 1 1 = 1 then owned ++ pages else owned } }

/-- KIND 3: confirm a region after re-attach (R352). -/
def confirmRegion (c : Cmd) (s : State) : State :=
  let p := c.q.access
  let n := fld c.q.params 2 2
  if s.regions.any fun r => r.port == p && r.number == n then
    finish c (okDone 0) { s with regions := modifyIf s.regions (fun x => x.port == p && x.number == n) fun x => { x with suspended := false } }
  else finish c (badParam 3 2) s

/-- REGION_REGISTER (R341). -/
def holdRegionRegister (c : Cmd) (s : State) : State :=
  match fld c.q.params 0 1 with
  | 0 => registerRegion c s
  | 1 => openWindow c s
  | 2 => setBias c s
  | _ => confirmRegion c s

/-- REGION_RELEASE (R343): writes to the region are discarded from now on, and streams in it fault with cause 0x01. -/
def holdRegionRelease (c : Cmd) (s : State) : State :=
  let p := c.q.access
  let n := fld c.q.params 2 2
  if fld c.q.params 0 1 = 1 then
    if s.windows.any fun w => w.port == p && w.number == n then
      finish c (okDone 0) { s with windows := s.windows.filter fun w => !(w.port == p && w.number == n) }
    else finish c (badParam 3 2) s
  else match s.regions.find? fun r => r.port == p && r.number == n with
    | none => finish c (badParam 3 2) s
    | some r =>
      if s.channels.any fun ch => ch.state == .live && ch.port == p && ch.sinkBase != 0 && r.holds p ch.sinkBase ch.sinkBytes
      then finish c (badParam 2 2) s
      else
        let hit := (List.range 4).filter fun i => match ((s.port p).cmds.getD i {}).area with
          | some a => r.overlaps p a.1 a.2
          | none => false
        let s := hit.foldl (fun t i => faultStream p i 1 0 t) s
        finish c (okDone 0) { s with regions := s.regions.filter fun x => !(x.port == p && x.number == n) }

/-- Check of REGION_RELEASE at decode. -/
def checkRelease (q : Pkt) : Option Final := firstBad [(decide (1 < fld q.params 0 1), badParam 0 0)]

end Sys2Proof.Machine
end

