-- ==== Sys2Proof/Machine/MemoryCmd.lean ====
section
/-! DEFINITION. Memory commands (class 0x6): OBJ_ALLOC, OBJ_FREE, OBJ_PLACE, OBJ_COPY and LIST_MERGE (R285–R292, R327). -/

namespace Sys2Proof.Machine

/-- R82's rules on a set of members: within 0 to 2,047, and all joined. -/
def State.homesOk (s : State) (first count : Nat) : Bool :=
  decide (first + count ≤ 2048) && (List.range count).all fun i => s.joined (first + i)

/-- Decode checks of OBJ_ALLOC (R285). -/
def checkAlloc (q : Pkt) (s : State) : Option Final :=
  let ps := q.params
  let place := fld ps 8 1
  let tier := place % 4
  let spread := fld ps 9 1 % 4
  firstBad
    [(fld ps 0 8 == 0 || decide (2 ^ 46 < fld ps 0 8), badParam 0 0), (tier == 3, badParam 0 8), (spread == 3, badParam 0 9),
     (spread != 0 && decide (2048 < fld ps 14 2 % 4096), badParam 0 14),
     (tier == 0 && bit place 2, badParam 2 8), (bit place 5 && (tier != 1 || bit place 2 || spread != 0), badParam 2 8),
     (tier == 2 && spread == 0, badParam 2 9)]
  <|> addrCheck q 16 16 16 true s

/-- The home set an allocation asks for, or the status it fails with (R286). -/
def allocHomes (tier spread first count : Nat) (s : State) : List Nat ⊕ Final :=
  if spread = 0 then .inl []
  else if count = 0 then
    let d := s.defaultHomes tier
    if d.isEmpty then .inr (badQuota 3 true) else .inl d
  else if !s.homesOk first count then .inr (badParam 2 12)
  else
    let has := decide (first ≤ s.self) && decide (s.self < first + count)
    if has == (tier == 2) then .inr (badParam 2 12) else .inl ((List.range count).map (· + first))

/-- Can these new objects be created: numbers, port limits, members' space (R46, R284, R287)? -/
def roomFor (p count : Nat) (os : List Obj) (s : State) : Option Final :=
  if 2097150 < s.liveNumbers + count then some (badQuota 0 true)
  else match quotaBreak p (os.flatMap fun o => o.charges s.self) s with
    | some t => some (badQuota (t + 1) false)
    | none => (membersTake os s).map fun r => badQuota r.1 r.2

def holdObjAlloc (c : Cmd) (s : State) : State :=
  let ps := c.q.params
  let place := fld ps 8 1
  let tier := place % 4
  let spread := fld ps 9 1 % 4
  match allocHomes tier spread (fld ps 12 2 % 2048) (fld ps 14 2 % 4096) s with
  | .inr f => finish c f s
  | .inl h =>
    let o : Obj := { num := s.objNumber 0, owner := c.q.access, pages := ceilDiv (fld ps 0 8) pageBytes, base := 0, tier := tier
                     fulled := bit place 2, hint := bits place 4 3, staged := bit place 5, spread := spread, homes := h }
    match roomFor c.q.access 1 [o] s with
    | some f => finish c f { s with free := s.free + 1 }
    | none =>
      let r := createObj (fun n b => { o with num := n, base := b }) { s with free := s.free + 1 }
      let base := s.mem.nextBase
      let data := if fld ps 16 8 = 0 ∧ c.q.access ≠ 8 then [] else [⟨fld ps 16 8, leBytes 4 r.1 ++ leBytes 4 o.pages ++ leBytes 8 base⟩]
      finish c (okDone r.1 data) r.2

/-- Is an object, index or table in use (R72)? -/
def State.inUse (s : State) (n : Nat) : Bool :=
  s.channels.any (fun ch => ch.state == .live && ch.primary == n)
    || (s.cmds ++ s.frame.decided.map Decided.cmd).any fun c => c.uses.contains n

/-- Every object that goes with an index or table: its regions, and the object of its own number that stands for the pages other
members hold for it (R82, R249). -/
def State.family (s : State) (n : Nat) : List Nat := (s.objs.filter fun o => o.parent == n).map Obj.num

def holdObjFree (c : Cmd) (s : State) : State :=
  let n := fld c.q.params 0 4
  let p := c.q.access
  let whole := s.indexes.any (fun x => x.num == n && x.owner == p && !x.freed) || s.tables.any (fun x => x.num == n && x.owner == p && !x.freed)
  if whole then
    if s.inUse n then finish c (badParam 2 0) s
    else
      let s := (s.family n).foldl (fun t m => freeObj m t) s
      finish c (okDone 0) { s with
        indexes := modifyIf s.indexes (fun x => x.num == n) fun x => { x with freed := true }
        tables := modifyIf s.tables (fun x => x.num == n) fun x => { x with freed := true } }
  else match s.ownObj p n with
    | none => finish c (badParam 3 0) s
    | some o => if o.parent ≠ 0 ∨ s.inUse n = true then finish c (badParam 2 0) s else finish c (okDone 0) (freeObj n s)

/-! ## OBJ_PLACE (R84, R287, R289–R291) -/

/-- Which placement changes an index or table region allows: (tier and fulling, hint); a table's regions allow none (R84, R250). -/
def regionAllows (n : Nat) (s : State) : Bool × Bool :=
  match s.indexes.findSome? fun x => x.shard.bind fun sh =>
      if sh.exact = n then some (true, false) else if sh.codes = n then some (false, true) else none with
  | some a => a
  | none => (false, false)

/-- The object under a new PLACE byte, or the status it fails with (R289). -/
def placed (o : Obj) (place : Nat) (s : State) : Obj ⊕ Final :=
  let tier := place % 4
  let fulled := bit place 2
  let hint := bits place 4 3
  let allows := if o.parent = 0 then (true, true) else regionAllows o.num s
  if tier = 3 then .inr (badParam 0 4)
  else if bit place 5 != o.staged || (o.staged && (tier == 2 || fulled)) || (tier == 0 && fulled) then .inr (badParam 2 4)
  else if (!allows.1 && (tier != o.tier || fulled != o.fulled)) || (!allows.2 && hint != o.hint) then .inr (badParam 2 4)
  else if o.parent != 0 && tier == 0 && o.tier != 0 then .inr (badParam 2 4)
  else
    let o' := { o with tier := tier, fulled := fulled, hint := hint }
    if tier = 2 ∧ o.tier ≠ 2 then
      if o.spread ≠ 0 then .inr (badParam 2 4)
      else
        let d := s.defaultHomes 2
        if d.isEmpty then .inr (badQuota 3 true)
        else .inl { o' with spread := 2, homes := d, lentOut := true }
    else if tier ≠ 2 ∧ o.tier = 2 then
      if o.lentOut then .inl { o' with spread := 0, homes := [], lentOut := false } else .inr (badParam 2 4)
    else .inl o'

/-- Page state where there is none yet. -/
def Obj.page (o : Obj) (k : Nat) : Page := ((assocGet k o.pageInfo)).getD {}
def Obj.setPage (k : Nat) (f : Page → Page) (o : Obj) : Obj := { o with pageInfo := assocPut k (f (o.page k)) o.pageInfo }

/-- Pages that do not yet lie where a placement wants them, each remembering the tier it lies in (R289). -/
def startMigration (old new : Obj) (keep : Bool) (waiters : List (Nat × Nat)) : Obj × List Nat :=
  let left := (List.range new.pages).filter fun k => old.pageTier k != new.tier
  let o := left.foldl (fun (o : Obj) k => o.setPage k fun pg => { pg with tier := some (old.pageTier k) }) new
  let o := { o with pageInfo := o.pageInfo.map fun (p : Nat × Page) => if left.contains p.1 then p else (p.1, { p.2 with tier := none }) }
  ({ o with migration := if left.isEmpty then none else some { waiters := waiters, tier := new.tier, keep := keep, left := left } }, left)

/-- Does a placement leave the object as it lies (R289)? -/
def Obj.samePlace (o o' : Obj) : Bool := o'.tier == o.tier && o'.fulled == o.fulled && o'.hint == o.hint

/-- A placement that changes nothing: it counts the pages a migration under way has left, or waits for it (R289). -/
def placeSame (c : Cmd) (o : Obj) (s : State) : State :=
  match o.migration with
  | some m =>
    if bit (fld c.q.params 5 1) 0 then s.setCmd c.id (fun d => { d with state := .running, admitTick := s.tick, uses := [o.num] })
      |>.setObj o.num fun x => { x with migration := some { m with waiters := m.waiters ++ [(c.id, 0)] } }
    else finish c (okDone m.left.length) s
  | none => finish c (okDone 0) s

/-- The outlier array that follows the exact vectors `n` of a shard (R84, R90). -/
def State.follower (s : State) (n : Nat) : Option Obj :=
  s.indexes.findSome? fun x => x.shard.bind fun sh => if sh.exact = n ∧ n ≠ 0 ∧ sh.outl ≠ 0 then s.obj sh.outl else none

/-- The outlier array in the placement of the exact vectors (R90). -/
def Obj.following (f o : Obj) : Obj :=
  { f with tier := o.tier, fulled := o.fulled, spread := o.spread, homes := o.homes, lentOut := o.lentOut }

/-- The outlier array moves after the exact vectors, in a job of its own (R84, R90, R289). -/
def follow (port : Nat) (keep : Bool) (o' : Obj) (s : State) : State :=
  match s.follower o'.num with
  | none => s
  | some f =>
    let r := startMigration f (s.rotated f (f.following o')) keep []
    let s := (chargeObj r.1 (refundObj f s)).setObj f.num fun _ => r.1
    { s with
      jobs := (s.jobs.filter fun j => j.kind != .migrate f.num) ++ (if r.2.isEmpty then [] else [{ id := s.freshJob, kind := .migrate f.num, cmd := none, port := port }])
      nextJob := s.freshJob + 1 }

/-- A WAIT 1 placement replies with the pages moved (R289); those that switched since it took hold are counted (DESIGN CHOICE, log entry 95). -/
def placeDone (s : State) (w : Nat × Nat) : State :=
  match s.cmd w.1 with
  | some c => finish c (okDone w.2) s
  | none => s

/-- A placement that changes the object: WAIT 1 placements before it go on waiting for the migration whose target it replaces, and it is charged anew, and a job moves the pages that lie elsewhere (R26, R45, R289). The reply counts the
pages of the named object. -/
def placeChanged (c : Cmd) (o o' : Obj) (s : State) : State :=
  let wait := bit (fld c.q.params 5 1) 0
  let waiting := ((o.migration.map Migration.waiters).getD [])
  let r := startMigration o (s.rotated o o') (bit (fld c.q.params 5 1) 1) (waiting ++ if wait then [(c.id, 0)] else [])
  let s := (chargeObj r.1 (refundObj o s)).setObj o.num fun _ => r.1
  let s := { s with
    jobs := (s.jobs.filter fun j => j.kind != .migrate o.num) ++
      (if r.2.isEmpty then [] else [{ id := s.freshJob, kind := .migrate o.num, cmd := if wait then some c.id else none, port := c.q.access }])
    nextJob := s.freshJob + 1 }
  let s := follow c.q.access (bit (fld c.q.params 5 1) 1) o' s
  let s := if r.2.isEmpty then waiting.foldl placeDone s else s
  if wait && !r.2.isEmpty then s.setCmd c.id fun d => { d with state := .running, admitTick := s.tick, uses := [o.num] }
  else finish c (okDone r.2.length) s

/-- Has the port, and have the members, room for the object under its new placement (R46, R287)? -/
def placeRefused (p : Nat) (o o' : Obj) (s : State) : Option Final :=
  match s.follower o.num with
  | none => roomFor p 0 [o'] { (refundObj o s) with objs := s.objs.filter fun x => x.num != o.num }
  | some f => roomFor p 0 [o', f.following o'] { (refundObj f (refundObj o s)) with objs := s.objs.filter fun x => x.num != o.num && x.num != f.num }

/-- OBJ_PLACE (R289). -/
def holdObjPlace (c : Cmd) (s : State) : State :=
  match s.ownObj c.q.access (fld c.q.params 0 4) with
  | none => finish c (badParam 3 0) s
  | some o => match placed o (fld c.q.params 4 1) s with
    | .inr f => finish c f s
    | .inl o' =>
      if o.samePlace o' then placeSame c o s
      else match placeRefused c.q.access o o' s with
        | some f => finish c f s
        | none => placeChanged c o o' s

/-! ## OBJ_COPY (R88, R160, R292) -/

/-- Bytes of a routing entry (R99). -/
def Index.routeEntry (x : Index) : Nat := x.dims / 2 + x.dims / 32 + 8
/-- Index whose routing table or projection this object is. -/
def State.routeOf (s : State) (n : Nat) : Option Index := s.indexes.find? fun x => x.route == n && n != 0
def State.projOf (s : State) (n : Nat) : Option Index := s.indexes.find? fun x => match x.shard with
  | some sh => sh.proj == n && n != 0
  | none => false
/-- Live slots: issued, less deleted and reclaimable ones (R88). -/
def Shard.liveSlots (sh : Shard) : Nat := sh.issued - sh.deleted.length - sh.reclaim.length

/-- Decode checks of OBJ_COPY (R292). -/
def checkCopy (q : Pkt) (s : State) : Option Final :=
  let ps := q.params
  let src := fld ps 0 4
  let so := fld ps 8 8
  let d := fld ps 16 8
  let n := fld ps 24 8
  firstBad [(so % 16 != 0, badParam 0 8), (d % 16 != 0, badParam 0 16), (n == 0 || n % 16 != 0, badParam 0 24),
    (src != 0 && (s.ownObj q.access src).isNone, badParam 3 0), ((s.ownObj q.access (fld ps 4 4)).isNone, badParam 3 4),
    (src == 0 && !s.reachable q.access so n, badParam 3 8)]

/-- Why a copy is refused when it takes hold: a range beyond an object, ranges that overlap, a projection in use, whether live slots lie on other
members being open (R88, R292; DESIGN CHOICE, log entry 9), and onto a routing table anything but a whole object of its size (R160). The reason for the
last is not stated (DEDUCED, log entry 78). -/
def copyRefused (q : Pkt) (s : State) : Option Final :=
  let src := fld q.params 0 4
  let dst := fld q.params 4 4
  let so := fld q.params 8 8
  let d := fld q.params 16 8
  let n := fld q.params 24 8
  let size := fun k => ((s.obj k).map fun o => o.pages * pageBytes).getD 0
  firstBad
    [(decide (size dst < d + n), badParam 2 16), (src != 0 && decide (size src < so + n), badParam 2 8),
     (src == dst && decide (so < d + n) && decide (d < so + n), badParam 2 8),
     ((match s.projOf dst with
       | some x => (x.shard.any fun sh => decide (0 < sh.liveSlots)) || (x.count != 1 && Config.remoteSays s.free 1 x.num)
       | none => false), badParam 2 4),
     ((match s.routeOf dst with
       | some x => src == 0 || size src != size dst || so != 0 || d != 0 || decide (n < x.count * x.routeEntry)
       | none => false), badParam 2 4)]

/-- OBJ_COPY: a job copies (R26, R292). -/
def holdObjCopy (c : Cmd) (s : State) : State :=
  let ps := c.q.params
  match copyRefused c.q s with
  | some f => finish c f { s with free := s.free + 1 }
  | none =>
    let s := { s with free := s.free + 1 }
    (startJob c .copy [fld ps 0 4, fld ps 4 4, fld ps 8 8, fld ps 16 8, fld ps 24 8] s).1.setCmd c.id fun x => { x with uses := [fld ps 0 4, fld ps 4 4] }

/-- Granules of the destination that a copy of poisoned granules fills: they stay poisoned, as in a page copy (R290, R305; DEDUCED, log entry 98). -/
def State.hurtBy (s : State) (src so d len : Nat) : List Nat :=
  match s.obj src with
  | none => []
  | some o => (o.poison.filter fun g => decide (so < 256 * g + 256) && decide (256 * g < so + len)).flatMap fun g =>
      let lo := max (256 * g) so - so + d
      let hi := min (256 * g + 256) (so + len) - so + d
      (List.range ((hi + 255) / 256 - lo / 256)).map (· + lo / 256)

/-- Copy up to `spans` 64 KiB spans of an OBJ_COPY from its cursor (R292): the state, and the bytes copied so far. -/
def copySpans (c : Cmd) (src dst so d n : Nat) : (spans cursor : Nat) → State → State × Nat
  | 0, cursor, s => (s, cursor)
  | k + 1, cursor, s =>
    if n ≤ cursor then (s, cursor)
    else
      let len := min 65536 (n - cursor)
      let bs := if src = 0 then s.hostView.read (so + cursor) len else s.readObj src (so + cursor) len
      if s.writeWaits dst (d + cursor) len || s.expanding dst (d + cursor) len then (s, cursor)
      else
      let ok := src != 0 || s.reachable c.q.access (so + cursor) len
      copySpans c src dst so d n k (cursor + len) (if ok then
        let hurt := if src = 0 then [] else s.hurtBy src (so + cursor) (d + cursor) len
        (writeFor c 2 dst (d + cursor) bs s).setObj dst fun o => { o with poison := dedupBy id (o.poison ++ hurt) } else s)

/-! ## LIST_MERGE (R327) -/

/-- Decode checks of LIST_MERGE (R327). -/
def checkListMerge (q : Pkt) (s : State) : Option Final :=
  let ps := q.params
  let members := fld ps 16 2
  let rows := fld ps 24 4
  let k := fld ps 28 2
  let dl := if q.deadline = 0 then 1 else q.deadline
  firstBad
    [(members == 0 || decide (2048 < members), badParam 0 16), (decide (2047 < fld ps 18 2), badParam 0 18),
     (fld ps 20 4 % 16 != 0 || fld ps 20 4 == 0, badParam 0 20),
     (rows == 0 || decide (65536 < rows), badParam 0 24), (k == 0, badParam 0 28), (decide (dl < fld ps 30 1), badParam 0 30),
     (fld ps 8 8 % 16 != 0, badParam 0 8), (decide (262144 < members * k * rows), badParam0 4),
     ((s.ownObj q.access (fld ps 0 4)).isNone, badParam 3 0), ((s.ownObj q.access (fld ps 4 4)).isNone, badParam 3 4)]

/-- Bytes of merged records LIST_MERGE writes: `rows` Crown list records of k entries, and the bitmap of absent contributors. -/
def listRecordBytes (k : Nat) : Nat := 32 + roundUp (8 * k) 16

/-- Why a LIST_MERGE is refused when it takes hold (R327). -/
def listMergeRefused (q : Pkt) (s : State) : Option Final :=
  let ps := q.params
  let size := fun n => ((s.obj n).map fun o => o.pages * pageBytes).getD 0
  let areaOk := match s.obj (fld ps 0 4) with
    | some o => o.tier != 2 && o.spread == 0
    | none => false
  firstBad
    [(!areaOk, badParam 2 0), (decide (size (fld ps 0 4) < fld ps 16 2 * fld ps 20 4), badParam 2 20),
     (decide (size (fld ps 4 4) < fld ps 8 8 + fld ps 24 4 * listRecordBytes (fld ps 28 2) + 256), badParam 2 8)]

/-- LIST_MERGE takes hold: its merge is placed in tick n + AT (R327). -/
def holdListMerge (c : Cmd) (s : State) : State :=
  let ps := c.q.params
  match listMergeRefused c.q s with
  | some f => finish c f s
  | none => s.setCmd c.id fun d => { d with
      state := .running, admitTick := s.tick
      deadline := if c.q.deadline = 0 then 1 else c.q.deadline
      uses := [fld ps 0 4, fld ps 4 4]
      stages := [{ kind := .slow, tick := s.tick + fld ps 30 1, charge := [(.merge, fld ps 16 2 * fld ps 28 2 * fld ps 24 4)] }] }

end Sys2Proof.Machine
end

