-- ==== Sys2Proof/Machine/FabricCmd.lean ====
section
/-! DEFINITION. Fabric commands (class 0x7): FABRIC_STATUS, FABRIC_JOIN, FABRIC_LEAVE and LINK_CONTROL (R314, R330–R332). -/

namespace Sys2Proof.Machine

/-- A count that the manual does not define for the opcode (R58, DESIGN CHOICE, log entry 12). -/
def freeCount (s : State) : Nat × State := let d := draw s; (d.1 % 2 ^ 32, d.2)

/-- State code of a link entry (R332). -/
def LinkState.code : LinkState → Nat
  | .down => 0 | .training => 1 | .up4 => 2 | .up2 => 3 | .refused => 4 | .disabled => 5

/-- Pairs of a list, each once. -/
def pairsOf : List Nat → List (Nat × Nat)
  | [] => []
  | a :: l => l.map (fun b => (a, b)) ++ pairsOf l

/-- Wiring violations this member knows of (R314): its links to itself, its second links to one member, pairs of joined members of one group without a link,
and pairs of groups with joined members and no link. -/
def Fabric.wiring (f : Fabric) : Nat :=
  let up := f.links.filter Link.isUp
  let live := f.live
  (up.filter fun l => l.partner == f.member).length
    + (up.length - (dedupBy Link.partner up).length)
    + ((pairsOf f.members).filter fun p => p.1 / 32 == p.2 / 32 && !joins live p.1 p.2).length
    + ((pairsOf (dedupBy id (f.members.map (· / 32)))).filter fun g => !live.any fun p => p.a / 32 == g.1 && p.b / 32 == g.2).length

/-- FABRIC_STATUS's report (R332). -/
def fabricReport (s : State) : Bytes :=
  let f := s.fabric
  leBytes 2 f.member ++ leBytes 2 f.leader ++ leBytes 8 f.hallId ++ leBytes 2 f.members.length ++ leBytes 2 f.wiring ++ zeros 48
    ++ f.links.flatMap fun l => leBytes 1 l.state.code ++ leBytes 1 l.lanes ++ leBytes 2 l.partner ++ leBytes 1 l.partnerLink ++ zeros 1
      ++ leBytes 2 l.latency ++ leBytes 8 l.replays

def holdFabricStatus (c : Cmd) (s : State) : State :=
  let n := freeCount s
  finish c (okDone n.1 (reportAt c (fabricReport n.2))) n.2

/-- Joined members of a hall that this module's links reach directly (R330). -/
def Fabric.reached (f : Fabric) (hall : Nat) : List Nat :=
  dedupBy id ((f.links.filter fun l => l.isUp && l.hallId == hall).map Link.partner)

/-- Would FABRIC_JOIN be refused: the module is joined, or a member that its links reach has the number (R330)? -/
def joinRefused (q : Pkt) (s : State) : Bool := s.fabric.joined || (s.fabric.reached (fld q.params 8 8)).contains (fld q.params 0 2 % 2048)

/-- FABRIC_JOIN takes hold: it becomes a member at the next boundary, and the reply follows that boundary (R330). Of R47's "link" and "action", which
the manual does not number, a join and a leave carry link 0xFF and actions 0 and 1, LINK_CONTROL its link and 2 plus its action (DESIGN CHOICE, log
entry 72). -/
def holdFabricJoin (c : Cmd) (s : State) : State :=
  let m := fld c.q.params 0 2 % 2048
  let hall := fld c.q.params 8 8
  if joinRefused c.q s then
    finish c (badParam 2 0) (auditFor 8 1 c.q (afield m ++ afield 0xFF ++ afield 0) s)
  else
    let s := auditFor 8 0 c.q (afield m ++ afield 0xFF ++ afield 0) s
    (s.setFabric fun f => { f with joining := some (m, hall) }).setCmd c.id fun d =>
      { d with state := .running, admitTick := s.tick, stages := [{ kind := .slow, tick := s.tick + 1, charge := [] }] }

/-- A member-wide setting that follows fabric membership while no SET has changed it: REMOTE_WALK_RESERVE, 15 joined and 0 standalone (R23, R33). -/
def reserveDefault (joined : Bool) (s : State) : State :=
  match assocGet 0x0103 s.settings with
  | some v =>
    if (v.value = 0 ∧ joined = true ∧ v.since = 0) ∨ (v.value = 15 ∧ joined = false ∧ v.since = 0)
    then { s with settings := assocPut 0x0103 { v with value := if joined then 15 else 0 } s.settings } else s
  | none => s

/-- The member leaves: fanned-in walks end CANCELLED and it runs standalone (R13, R331). -/
def leaveFabric (s : State) : State :=
  let s := { s with walks := modifyIf s.walks (fun w => w.coord != s.self) fun w => { w with cancelled := true } }
  (reserveDefault false s).setFabric fun f =>
    { f with joined := false, members := [f.member], leader := f.member, routes := [], held := [], unacked := [], backlog := [] }

def holdFabricLeave (c : Cmd) (s : State) : State :=
  finish c (okDone 0) (leaveFabric (auditFor 8 0 c.q (afield s.self ++ afield 0xFF ++ afield 1) s))


def checkFabric (op : Nat) (q : Pkt) (s : State) : Option Final :=
  let ps := q.params
  match op with
  | 0x7001 => addrCheck q 8 64 640 false s
  | 0x7002 => firstBad [(fld ps 8 8 == 0, badParam 0 8)]
  | 0x7004 => firstBad [(decide (35 < fld ps 0 1), badParam 0 0), (decide (3 < fld ps 1 1), badParam 0 1),
      (fld ps 1 1 == 3 && decide (popcount (fld ps 2 1) 5 < 2), badParam 0 2)]
  | _ => none

/-- LINK_CONTROL: the action is taken at the next boundary (R332). -/
def holdLinkControl (c : Cmd) (s : State) : State :=
  let l := fld c.q.params 0 1
  let a := fld c.q.params 1 1
  let s := auditFor 8 0 c.q (afield s.self ++ afield l ++ afield (2 + a)) s
  finish c (okDone 0) (s.setLink l fun k => { k with action := some (a, fld c.q.params 2 1) })

end Sys2Proof.Machine
end

