-- ==== Sys2Proof/Machine/Graph.lean ====
section
/-! DEFINITION. The layout of an index shard and the operations of a walk over it: records and blocks, tombstones, entry
points, the side ring, sketches and distances, heaps, pools, the visited filter and the predicate (R85–R96, R108–R115). -/

namespace Sys2Proof.Machine

/-! ## Sizes (R84) -/

/-- Sketch bytes b. -/
def Index.sketchBytes (x : Index) : Nat := 8 * 2 ^ x.sketch
/-- Record bytes r = 16 + b (R85). -/
def Index.recBytes (x : Index) : Nat := 16 + x.sketchBytes
/-- Stride of the exact vectors (R89). -/
def Index.exactStride (x : Index) : Nat := x.dims / 2 + if x.form = 0 then x.dims / 32 else 0
/-- Dimensions per subspace w (R92). -/
def Index.subWidth (x : Index) : Nat := x.dims / max x.subspaces 1
/-- Codebook bytes (R92). -/
def Index.bookBytes (x : Index) : Nat := x.subspaces * (2 + 8 * x.subWidth)
/-- Projection bytes (R88). -/
def Index.projBytes (x : Index) : Nat := 8 * x.sketchBytes * (x.dims / 2)
/-- Member of a shard (R82). -/
def Index.memberOf (x : Index) (shard : Nat) : Nat := if x.mode = 0 then x.num / 2 ^ 21 else x.first + shard

/-! ## Records (R85) -/

/-- A neighbour record (R85). -/
structure NRec where
  slot : Nat
  valid : Bool
  reverse : Bool := false
  tag : Nat := 0
  attr : Nat := 0
  sketch : Bytes := []
  deriving DecidableEq, Repr, Inhabited

def parseRec (b : Nat) (bs : Bytes) : NRec :=
  ⟨fld bs 0 5, bit (fld bs 5 1) 0, bit (fld bs 5 1) 1, fld bs 6 2, fld bs 8 8, slice bs 16 b⟩
def NRec.bytes (r : NRec) : Bytes :=
  leBytes 5 r.slot ++ leBytes 1 (flag r.valid 0 + flag r.reverse 1) ++ leBytes 2 r.tag ++ leBytes 8 r.attr ++ r.sketch

/-- Count of differing bits (R101). -/
def ham (a b : Bytes) : Nat := ((a.zip b).map fun p => popcount (p.1 ^^^ p.2).toNat 8).foldl (· + ·) 0

/-- The adjacency block of a slot (R86). -/
def State.block (s : State) (x : Index) (sh : Shard) (slot : Nat) : List NRec :=
  (List.range x.degree).map fun i => parseRec x.sketchBytes (s.readObj sh.adj ((slot * x.degree + i) * x.recBytes) x.recBytes)

/-- Write one record of a block (R154). -/
def putRec (x : Index) (sh : Shard) (slot pos : Nat) (r : NRec) (s : State) : State :=
  s.writeObj sh.adj ((slot * x.degree + pos) * x.recBytes) r.bytes

/-- An empty position: every byte zero (R86). -/
def putNoRec (x : Index) (sh : Shard) (slot pos : Nat) (s : State) : State :=
  s.writeObj sh.adj ((slot * x.degree + pos) * x.recBytes) (zeros x.recBytes)

/-- Write a whole block: records with VALID 1 and REVERSE 0, the rest empty (R150). -/
def putBlock (x : Index) (sh : Shard) (slot : Nat) (rs : List NRec) (s : State) : State :=
  (List.range x.degree).foldl (fun t i => match rs[i]? with
    | some r => putRec x sh slot i { r with valid := true, reverse := false } t
    | none => putNoRec x sh slot i t) s

/-! ## Tombstones, keys, entry points, the side ring (R91, R94–R96, R147) -/

def State.bitOf (s : State) (obj off k : Nat) : Bool := bit (fld (s.readObj obj (off + k / 8) 1) 0 1) (k % 8)
def setBitOf (obj off k : Nat) (v : Bool) (s : State) : State := s.writeObj obj (off + k / 8) (setMapBit (s.readObj obj (off + k / 8) 1) (k % 8) v)

def State.tombed (s : State) (sh : Shard) (slot : Nat) : Bool := s.bitOf sh.tomb 0 slot
/-- User key of a slot. -/
def State.keyOf (s : State) (sh : Shard) (slot : Nat) : Nat := fld (s.readObj sh.keys (16 * slot) 8) 0 8
/-- The key that marks a slot without a vector (R91). -/
abbrev noKey : Nat := 0xFFFFFFFFFFFFFFFF

/-- The entry points in force (R95). -/
def State.entryPoints (s : State) (x : Index) (sh : Shard) : List NRec :=
  (List.range (min 16 (fld (s.readObj sh.entry 0 1) 0 1))).map fun i => parseRec x.sketchBytes (s.readObj sh.entry (64 + i * x.recBytes) x.recBytes)

/-- Write the entry-point table: header with COUNT and the tick of the change, then the records (R95). -/
def putEntryPoints (x : Index) (sh : Shard) (es : List Bytes) (s : State) : State :=
  s.writeObj sh.entry 0 (leBytes 2 es.length ++ leBytes 6 s.tick ++ zeros 56 ++ (List.range 16).flatMap fun i => es.getD i (zeros x.recBytes))

/-- Offset of the side list's bitmap (R96). -/
def Index.sideMap (x : Index) : Nat := sideRing * x.recBytes
/-- The side-list entry at a ring position. -/
def State.sideRec (s : State) (x : Index) (sh : Shard) (pos : Nat) : NRec :=
  parseRec x.sketchBytes (s.readObj sh.side (pos % sideRing * x.recBytes) x.recBytes)
def State.sideDeleted (s : State) (x : Index) (sh : Shard) (pos : Nat) : Bool := s.bitOf sh.side x.sideMap (pos % sideRing)
/-- Ring positions from head to tail. -/
def Shard.positions (sh : Shard) : List Nat := (List.range (sh.tail - sh.head)).map (· + sh.head)

/-! ## Vectors and sketches (R88, R89, R92) -/

/-- A vector as the host supplied it, de-quantised to FP32: BF16, or INT4 block-scale (R102). -/
def hostVec (fmt dims : Nat) (bs : Bytes) : List Word :=
  if fmt = 0 then wideElems .bf16 bs dims else dequantBlocks .int4b bs (slice bs (dims / 2) (dims / 32)) dims

/-- The sketch of a vector under a projection: bit k is the sign of row k's dot product, summed in a free order (R88, DESIGN CHOICE, log entry 5). -/
def sketchOf (k : Nat) (proj : Bytes) (b dims : Nat) (v : List Word) : Bytes :=
  packBits (8 * b) fun i =>
    let row := slice proj (i * (dims / 2)) (dims / 2)
    let terms := (List.range dims).map fun j => f32Mul (f32Int (s4 (nibble row j))) (v.getD j 0)
    decide (0 < (f32Val (f32SumFree (k + i) terms)).num)

/-- Sketch of a vector on this member; a member that holds no shard of the index has no projection, so its bits are open
(R84, R88; DESIGN CHOICE, log entry 9). -/
def State.sketch (s : State) (x : Index) (v : List Word) : Bytes :=
  match x.shard with
  | some sh => sketchOf s.free (s.readObj sh.proj 0 x.projBytes) x.sketchBytes x.dims v
  | none => (List.range x.sketchBytes).map fun i => Config.freeByte (s.free + i)

/-- Centroid `c` of subspace `i` (R92): its values in FP32. -/
def centroid (x : Index) (books : Bytes) (i c : Nat) : List Fr :=
  let w := x.subWidth
  let sub := slice books (i * (2 + 8 * w)) (2 + 8 * w)
  (List.range w).map fun j => Fr.mul (f16Scale (fld sub 0 2)) (Fr.int (s4 (nibble (sub.drop 2) (c * w + j))))

/-- Exact squared L2 distance. -/
def frDist (a b : List Fr) : Fr := (a.zip b).foldl (fun t p => let d := Fr.sub p.1 p.2; Fr.add t (Fr.mul d d)) Fr.zero

/-- Position of the least value, ties to the first. -/
def argminFr (l : List Fr) : Nat :=
  (l.zipIdx.foldl (fun (best : Option (Fr × Nat)) p => match best with
    | some b => if Fr.lt p.1 b.1 then some p else some b
    | none => some p) none |>.map (fun p => p.2)).getD 0

/-- Position of the best score under a metric, ties to the first (R125). -/
def scoreBetter (metric : Nat) (a b : Word) : Bool := if metric = 0 then f32Lt b a else f32Lt a b

/-- Score of a vector against a routing centroid, in a free order of terms (R98). -/
def routeScore (x : Index) (k : Nat) (entry : Bytes) (v : List Word) : Word :=
  let c := dequantBlocks .int4b entry (slice entry (x.dims / 2) (x.dims / 32)) x.dims
  f32SumFree k ((List.range x.dims).map fun j =>
    let a := v.getD j 0
    let b := c.getD j 0
    if x.metric = 0 then f32Mul a b else let d := f32Sub a b; f32Mul d d)

/-- Shards in order of their centroids' scores, ties to the lower shard (R98). -/
def State.routeOrder (s : State) (x : Index) (table : Bytes) (v : List Word) : List Nat :=
  let sc := (List.range x.count).map fun i => (i, routeScore x (s.free + i) (slice table (i * x.routeEntry) x.routeEntry) v)
  (sortBy (fun a b => scoreBetter x.metric a.2 b.2) sc).map (fun p => p.1)

/-- The routing table in force on this member (R99). -/
def State.routeTable (s : State) (x : Index) : Bytes := s.readObj x.route 0 (x.count * x.routeEntry)

/-- The shard an INSERT goes to (R98). -/
def State.shardFor (s : State) (x : Index) (table : Bytes) (key : Nat) (v : List Word) : Nat :=
  match x.mode with
  | 0 => 0
  | 1 => (key * 0x9E3779B97F4A7C15 % 2 ^ 64) * x.count / 2 ^ 64
  | _ => (s.routeOrder x table v).headD 0

/-! ## Heaps and pools (R108) -/

/-- Order of entries: distance, then slot. -/
def WEntry.lt (a b : WEntry) : Bool := decide (a.dist < b.dist) || (a.dist == b.dist && decide (a.slot < b.slot))

/-- Offer an entry to a heap or pool kept best first (R108). -/
def offer (e : WEntry) (l : List WEntry) : List WEntry :=
  if l.length < 64 then insertBy WEntry.lt e l
  else match l.getLast? with
    | some w => if e.dist < w.dist then insertBy WEntry.lt e l.dropLast else l
    | none => [e]

/-- A pool's worst distance (R108). -/
def worstDist (pool : List WEntry) : Nat := if pool.length < 64 then 257 else (pool.getLast?.map WEntry.dist).getD 257

/-! ## The visited filter (R114) -/

def visitedBits (slot : Nat) : List Nat :=
  [0x9E3779B97F4A7C15, 0xC2B2AE3D27D4EB4F, 0x165667B19E3779F9].map fun k => ((slot + 1) * k % 2 ^ 64) / 2 ^ 32 * 6144 / 2 ^ 32

def WSlot.isVisited (w : WSlot) (slot : Nat) : Bool := (visitedBits slot).all w.visited.contains
def WSlot.mark (w : WSlot) (slot : Nat) : WSlot :=
  { w with visited := (visitedBits slot).foldl (fun l p => if l.contains p then l else p :: l) w.visited, visitedMarks := w.visitedMarks + 1 }

/-! ## The predicate (R111, R112) -/

/-- One clause on a tag and attribute word. -/
def Clause.holds (c : Clause) (tagSet : Bytes) (tag attr : Nat) : Bool :=
  let f := attr / 65536 ^ c.field % 65536
  let r := match c.kind with
    | 0 => true
    | 1 => f &&& c.a == c.b
    | 2 => decide (c.a ≤ f) && decide (f ≤ c.b)
    | _ => tag / 256 == c.base && mapBit tagSet (tag % 256)
  r != c.negate

def predicateHolds (pred tagSet : Bytes) (tag attr : Nat) : Bool :=
  (List.range 4).all fun i => (clauseAt pred i).holds tagSet tag attr

/-- FLAGS.FILTERED: some clause is not EMPTY (R107, R111). -/
def filtered (pred : Bytes) : Bool := (List.range 4).any fun i => (clauseAt pred i).kind != 0

/-! ## Scoring one record (R109, R110, R115) -/

/-- Offer a record to a slot: mark it, offer it to the heap, and to the pool when it passes. `tomb` answers the tombstone bit, or
none when its line is not held, which leaves the entry PENDING (R115). -/
def scoreRec (sketch pred tagSet : Bytes) (tomb : Nat → Option Bool) (seed side : Bool) (w : WSlot) (r : NRec) : WSlot :=
  if !r.valid || w.isVisited r.slot then w
  else
    let w := (w.mark r.slot)
    let d := ham sketch r.sketch
    let e : WEntry := { slot := r.slot, dist := d, side := side, seed := seed }
    let w := { w with recordsSeen := w.recordsSeen + 1, heap := if side then w.heap else offer e w.heap }
    if predicateHolds pred tagSet r.tag r.attr then
      let w := { w with filterPasses := w.filterPasses + 1 }
      match tomb r.slot with
      | some true => w
      | some false => { w with pool := offer e w.pool }
      | none => { w with pool := offer { e with pendingTomb := true } w.pool }
    else w

/-- Seeds of slot `j` of a walk of width `w` (R109). -/
def seedsOf (w j : Nat) (es : List NRec) : List NRec :=
  if es.length = 0 then []
  else if w ≤ es.length then (es.zipIdx.filter fun p => p.2 % w == j).map fun p => p.1
  else (es[j % es.length]?).toList

/-! ## Merge walks (R150) -/

/-- A merge walk's state: its slots, the hops spent, and the records through which slots were reached. -/
structure MergeWalk where
  slots : List WSlot
  done : List Nat := []
  hops : Nat := 0
  reached : List NRec := []
  deriving DecidableEq, Repr, Inhabited

/-- One turn of slot `j` of a merge walk: the tests of R110, then a hop. -/
def mergeTurn (s : State) (x : Index) (sh : Shard) (sketch : Bytes) (budget j : Nat) (m : MergeWalk) : MergeWalk :=
  match m.slots[j]? with
  | none => m
  | some w =>
    match w.heap with
    | [] => { m with done := j :: m.done }
    | c :: rest =>
      if worstDist w.pool < c.dist || m.hops == budget then { m with done := j :: m.done }
      else
        let recs := s.block x sh c.slot
        let w := recs.foldl (scoreRec sketch (zeros 32) (zeros 32) (fun t => some (s.tombed sh t)) false false) { w with heap := rest }
        { m with slots := m.slots.set j w, hops := m.hops + 1, reached := m.reached ++ recs.filter NRec.valid }

/-- Run a merge walk to its end; the order in which slots issue their hops is open (R150, DESIGN CHOICE, log entry 5). -/
def mergeRun (s : State) (x : Index) (sh : Shard) (sketch : Bytes) (budget k : Nat) : (fuel : Nat) → MergeWalk → MergeWalk
  | 0, m => m
  | n + 1, m =>
    let live := (List.range m.slots.length).filter fun j => !m.done.contains j
    if live.isEmpty then m
    else mergeRun s x sh sketch budget k n (mergeTurn s x sh sketch budget (live.getD (Config.pick k n % live.length) 0) m)

/-- The records pooled by a merge walk for an entry, by (distance, slot), each slot once (R150). -/
def mergePools (s : State) (x : Index) (sh : Shard) (seeds : List NRec) (e : NRec) (width budget : Nat) : List (NRec × Nat) :=
  let slots := (List.range width).map fun j =>
    (seedsOf width j seeds).foldl (scoreRec e.sketch (zeros 32) (zeros 32) (fun t => some (s.tombed sh t)) true false)
      ({ engine := 0, slot := j } : WSlot)
  let m := mergeRun s x sh e.sketch budget s.free (budget + width + 1) { slots := slots, reached := seeds }
  let pooled := dedupBy WEntry.slot (sortBy WEntry.lt (m.slots.flatMap WSlot.pool))
  pooled.filterMap fun p => if p.slot = e.slot ∨ s.tombed sh p.slot = true then none else (m.reached.find? fun r => r.slot == p.slot).map fun r => (r, p.dist)

/-- The pruning rule (R151). -/
def prune (degree alpha : Nat) (cands : List (NRec × Nat)) : List NRec :=
  cands.foldl (fun kept c =>
    if kept.length = degree then kept
    else if kept.any fun k => decide (alpha * ham k.sketch c.1.sketch ≤ 16 * c.2) then kept
    else kept ++ [c.1]) []

/-- Position a reverse edge takes in a neighbour's block, if any (R152). -/
def reversePos (s : State) (sh : Shard) (k : NRec) (block : List NRec) (e : NRec) : Option Nat :=
  if block.any fun r => r.valid && r.slot == e.slot then none
  else match block.findIdx? fun r => !r.valid with
    | some i => some i
    | none => match block.findIdx? fun r => s.tombed sh r.slot with
      | some i => some i
      | none =>
        let far := block.zipIdx.foldl (fun (b : Nat × Nat) p => let d := ham k.sketch p.1.sketch; if b.1 ≤ d then (d, p.2) else b) (0, 0)
        if far.1 ≤ ham k.sketch e.sketch then none else some far.2

/-- Place a reverse edge to `e` in the block of `k` (R152). -/
def reverseEdge (x : Index) (sh : Shard) (e : NRec) (s : State) (k : NRec) : State :=
  match reversePos s sh k (s.block x sh k.slot) e with
  | some i => putRec x sh k.slot i { e with valid := true, reverse := true } s
  | none => s

/-- Entry points after an entry is linked (R153). -/
def offerEntry (x : Index) (es : List NRec) (e : NRec) : List NRec :=
  if es.length < 16 ∧ (es.all fun p => decide (2 * x.sketchBytes < ham p.sketch e.sketch)) = true then es ++ [{ e with valid := true, reverse := false }] else es

/-- Link one entry into the graph (R150): its block, its reverse edges. -/
def linkEntry (x : Index) (sh : Shard) (seeds : List NRec) (e : NRec) (width alpha budget : Nat) (s : State) : State :=
  let kept := prune x.degree alpha (mergePools s x sh seeds e width budget)
  kept.foldl (reverseEdge x sh e) (putBlock x sh e.slot kept { s with free := s.free + 1 })

end Sys2Proof.Machine
end

