-- ==== Sys2Proof/Machine/Capacity.lean ====
section
/-! DEFINITION. Capacities of one tick and what is charged against them (R18, R21, R23, R139, R209). -/

namespace Sys2Proof.Machine

/-- The work window W, in µs (R21). -/
def State.window (s : State) : Nat := s.period - s.guard

/-- Engines in service: 16t to 16t + 15 on tile t (R12, R100). -/
def State.activeEngines (s : State) : List Nat := (List.range 64).filter fun e => s.units.tiles.contains (e / 16) && !s.units.enginesOut.contains e

/-- Cluster of a gather engine: engine 4t + k works through tile t's mover 2k + 1, physical mover 8t + 2k + 1 (R267). -/
def engineMover (e : Nat) : Nat := 8 * (e / 4) + 2 * (e % 4) + 1
/-- The gather engine that a physical mover serves, if it serves one (R267). -/
def moverEngine (m : Nat) : Option Nat := if m % 2 = 1 then some (4 * (m / 8) + m % 8 / 2) else none
/-- Present gather engines: those of the clusters in service (R267, R362). -/
def State.gatherEngines (s : State) : List Nat := (List.range 16).filter fun e => s.units.clusters.contains (engineMover e / 4)

/-- Capacity of one tick for each kind of work (R21). Rows are counted in bytes of whole granules, so that rows of different tables
share one engine's capacity; insertions of a slice have the index's own allowance. -/
def State.capacity (s : State) (r : Res) : Nat :=
  match r with
  | .hops => 8 * s.activeEngines.length * (s.window * 1000 / 452)
  | .cycles c => if s.units.clusters.contains c then s.window * 2100 else 0
  | .rows e => if s.gatherEngines.contains e then s.window * 291200 else 0
  | .mover _ => 2 ^ 32
  | .pages => s.window * 256000 / 65536
  | .insertions i _ => ((s.index i).bind fun x => x.shard.map Shard.allowance).getD 0
  | .merge => 262144

def sumRes (r : Res) (l : List (Res × Nat)) : Nat := (l.map fun p => if p.1 == r then p.2 else 0).foldl (· + ·) 0

/-- Insertions of merges that may be carried into a later tick `t`: of queries not yet merged, and of walk stages placed in ticks before it, those of STRICT
commands up to their tick n + D. A carried merge keeps its charge until it is made, and a tick's charge never exceeds its room (R139; that merges not yet made
are taken to be carried is DEDUCED, log entry 80). -/
def State.mergeCarried (s : State) (t : Nat) : Nat :=
  let lasts := fun (strict : Bool) (last : Nat) => !strict || decide (t ≤ last)
  (s.queries.map fun q => if q.result.isNone && lasts q.strict (q.admitTick + q.deadline) then q.shards.length * q.k else 0).foldl (· + ·) 0
    + (s.cmds.map fun c => if lasts c.strict (c.admitTick + c.deadline)
        then sumRes .merge ((c.stages.filter fun g => decide (s.tick < g.tick) && decide (g.tick < t) && !g.finished).flatMap Stage.charge) else 0).foldl (· + ·) 0

/-- What is charged of a kind in a tick: this one, or a later one in which stages and walks are placed, and merges carried (R22, R23, R139). -/
def State.chargedAt (s : State) (t : Nat) (r : Res) : Nat :=
  if t = s.tick then sumRes r s.frame.charged
  else
    sumRes r (s.cmds.flatMap fun c => (c.stages.filter fun g => g.tick == t && !g.finished).flatMap Stage.charge)
      + (if r = Res.hops then (s.walks.map fun w => if w.tick = t ∧ w.freedIn = none then w.charge else 0).foldl (· + ·) 0 else 0)
      + (if r = Res.merge then s.mergeCarried t else 0)

/-- Capacity not yet charged in a tick. -/
def State.uncharged (s : State) (t : Nat) (r : Res) : Nat := s.capacity r - s.chargedAt t r

/-- The part of a kind's capacity that local admission may use: hops leave the REMOTE_WALK_RESERVE (R23). -/
def State.localCapacity (s : State) (r : Res) : Nat :=
  if r = Res.hops then s.capacity r * (16 - s.setting 0x0103) / 16 else s.capacity r

def chargeNow (l : List (Res × Nat)) (s : State) : State := s.setFrame fun f => { f with charged := f.charged ++ l }

/-- Is a mover free of the other kind of work: a kernel phase's of rows, and rows of kernel phases (R267)? -/
def State.moverFree (s : State) (t : Nat) (r : Res) : Bool :=
  match r with
  | .rows e => s.chargedAt t (.mover (engineMover e)) == 0
  | .mover m => match moverEngine m with
    | some e => s.chargedAt t (.rows e) == 0
    | none => true
  | _ => true

/-- Do these charges fit a tick for local work? Sums are taken per kind. All that is charged, fanned-in walks included, counts against the share that
local admission may use (DESIGN CHOICE, log entry 74). -/
def State.fitsTick (s : State) (t : Nat) (l : List (Res × Nat)) : Bool :=
  l.all fun p => decide (s.chargedAt t p.1 + sumRes p.1 l ≤ s.localCapacity p.1) && s.moverFree t p.1

/-- Do these charges fit an empty tick (R20)? Its whole capacity is asked, not the share that local admission may use (DESIGN CHOICE, log entry 75). -/
def State.fitsEmpty (s : State) (l : List (Res × Nat)) : Bool := l.all fun p => decide (sumRes p.1 l ≤ s.capacity p.1)

/-! ## The hinted cache (R278, R297) -/

/-- Lines that the carve-out's part on one tile holds (R297). -/
def State.cacheLines (s : State) : Nat := partLines s.mem.carveout
/-- A page in the form the carve-out caches: direct, in this member's T1 (R297). -/
def Obj.cachedPage (o : Obj) (self page : Nat) : Bool :=
  o.pageTier page == 1 && (o.spread == 1 || o.homeOf page == self) && ((assocGet page o.pageInfo).bind Page.fulled).isNone
/-- Is a line held? -/
def State.lineHeld (s : State) (obj line : Nat) : Bool := s.mem.cache.any fun e => e.1 == obj && e.2.1 == line

/-- A read of a line under a HINT: a hit renews it; a miss is allocated in its tile's part, replacing the least recent unmarked line there, else a keep line
(R278, R297). Answers how many keep lines were replaced. -/
def cacheRead (obj line hint : Nat) (s : State) : State × Nat :=
  match s.mem.cache.find? fun e => e.1 == obj && e.2.1 == line with
  | some e => (s.setMem fun m => { m with cache := m.cache.erase e ++ [e] }, 0)
  | none =>
    if hint = 2 ∨ s.cacheLines = 0 then (s, 0)
    else
      let fresh := (obj, line, hint == 1)
      let tile := s.lineTile obj line
      let here := s.mem.cache.filter fun e => s.lineTile e.1 e.2.1 == tile
      if here.length < s.cacheLines then (s.setMem fun m => { m with cache := m.cache ++ [fresh] }, 0)
      else match here.find? fun e => !e.2.2 with
        | some e => (s.setMem fun m => { m with cache := m.cache.erase e ++ [fresh] }, 0)
        | none => (s.setMem fun m => { m with cache := (match here with
            | e :: _ => m.cache.erase e
            | [] => m.cache) ++ [fresh] }, 1)

/-- A class A read of a range allocates lines under the HINT of its object (R278, R297): those that lie direct in T1. Answers how many keep lines were
replaced. -/
def classA (num off len : Nat) (s : State) : State × Nat :=
  match s.obj num with
  | none => (s, 0)
  | some o =>
    let lines := if len = 0 then [] else (List.range ((off + len - 1) / 256 + 1 - off / 256)).map (· + off / 256)
    let lines := lines.filter fun l => o.cachedPage s.self (l / 256)
    lines.foldl (fun (a : State × Nat) l => let r := cacheRead num l o.hint a.1; (r.1, a.2 + r.2)) (s, 0)

/-- The tier, as R61's DETAIL names it, of an uncorrectable error in a range of an object (R61, R290). -/
def State.tierAt (s : State) (num off : Nat) : Nat := ((s.obj num).map fun o => o.pageTier (off / pageBytes)).getD 1 % 4

end Sys2Proof.Machine
end

