-- ==== Sys2Proof/Machine/Rows.lean ====
section
/-! DEFINITION. Rows of tables: where they lie, how a row is decoded and encoded, the read-modify-writes of the near-memory unit,
and reads of other members' rows over the fabric (R248–R252, R256, R262, R263, R319). -/

namespace Sys2Proof.Machine

/-! ## Where rows lie (R248–R251) -/

/-- Format of a table. -/
def Table.format (t : Table) : Fmt := (Fmt.ofCode t.fmt).getD .int4b
/-- Row bytes and slot bytes of a format (R248's Row slot layout table). -/
def rowLayout (fmt e : Nat) (opt : Bool) : Nat × Nat :=
  let f := (Fmt.ofCode fmt).getD .int4b
  let row := elemBytes f e + (if f = .uint4z then 8 else if f.blockScaled then e / 32 else 0)
  (row, row + if opt then 2 * (e / 2 + e / 32) else 0)
/-- Slot stride: slot bytes rounded up to 8 (R248). -/
def Table.stride (t : Table) : Nat := roundUp t.slotBytes 8
/-- Rows of shard `i` of `n` (R249). -/
def shardRows (rows n i : Nat) : Nat := if i < rows then (rows - 1 - i) / n + 1 else 0
/-- Local row number (R249). -/
def Table.localRow (t : Table) (r : Nat) : Nat := if t.place = 2 then r / t.count else r
/-- Does this member hold the row? -/
def Table.holds (t : Table) (self r : Nat) : Bool :=
  t.heap != 0 && (t.place != 2 || t.first + r % t.count == self)
/-- Member whose copy or shard serves a row to this member; which other copy of a replicated table is open (R249, DESIGN CHOICE, log entry 5). -/
def Table.home (t : Table) (self r : Nat) : Nat :=
  if t.holds self r then self
  else match t.place with
    | 0 => t.num / 2 ^ 21
    | 2 => t.first + r % t.count
    | _ => t.first + Config.pick t.num r % max t.count 1
/-- Members that hold a row: every copy of a replicated table (R249). -/
def Table.homes (t : Table) (self r : Nat) : List Nat :=
  if t.place = 1 then (List.range t.count).map (· + t.first) else [t.home self r]
/-- Cost of a row in bytes of whole granules, before the T2 weight (R21). -/
def Table.rowCost (t : Table) : Nat := roundUp t.rowBytes 256

/-- Directory entry of local row `j` (R251): slot offset in 8-byte units, and VERSION. -/
def State.dirEntry (s : State) (t : Table) (j : Nat) : Nat × Nat :=
  let e := fld (s.readObj t.dir (8 * j) 8) 0 8
  (bits e 39 0, bits e 63 48)
/-- A directory entry's bytes (R251). -/
def dirBytes (loc version : Nat) : Bytes := leBytes 5 loc ++ zeros 1 ++ leBytes 2 version

/-! ## Decoding and encoding (R162–R172, R184, R262) -/

/-- Add conversion counts to a channel's counters (R185). -/
def countConv (slot : Nat) (c : ConvCount) (s : State) : State :=
  s.setChan slot fun h =>
    let cs := h.counters
    let cs := bump 0 c.nanIn (bump 1 c.infIn (bump 2 c.outOfRange (bump 3 c.satDynamic cs)))
    { h with counters := bump 4 c.satRerun (bump 5 c.satUnfixed (bump 6 c.underflowBlocks (bump 7 c.skewFaults cs))) }
/-- Add to one channel counter. -/
def countChan (slot i n : Nat) (s : State) : State := s.setChan slot fun h => { h with counters := bump i n h.counters }

/-- Counts of an E8M0 byte read (R165). -/
def e8m0Count (e : Nat) : ConvCount := if e = 255 then { nanIn := 1 } else {}
/-- Counts of an FP16 scale read (R165). -/
def f16Count (c : Nat) : ConvCount := if fmtF16.isFinite c && !(fmtF16.sign c) then {} else { nanIn := 1 }
/-- Sum of many counts. -/
def sumCounts (l : List ConvCount) : ConvCount := l.foldl ConvCount.add {}

/-- De-quantise block-scaled codes with their scale bytes, with what that counts (R164, R165). -/
def decodeBlocks (f : Fmt) (data scales : Bytes) (e : Nat) : List Word × ConvCount :=
  let ds := (List.range e).map fun j => dequant (Fr.mul (elemVal f (elemAt f data j)) (e8m0 (fld scales (j / 32) 1)))
  (ds.map Prod.fst, (sumCounts (ds.map Prod.snd)).add (sumCounts ((List.range (e / 32)).map fun m => e8m0Count (fld scales m 1))))

/-- De-quantise a row's data and scale areas to FP32 (R184, R248). -/
def decodeRow (f : Fmt) (e : Nat) (bs : Bytes) : List Word × ConvCount :=
  let n := elemBytes f e
  if f.blockScaled then decodeBlocks f bs (bs.drop n) e
  else if f = .uint4z then
    let sc := fld bs (n + 2) 2
    let zp := fld bs (n + 1) 1 % 16
    let ds := (List.range e).map fun j => dequant (Fr.mul (f16Scale sc) (Fr.int ((nibble bs j : Int) - zp)))
    (ds.map Prod.fst, (sumCounts (ds.map Prod.snd)).add (f16Count sc))
  else (wideElems f bs e, {})

/-- Encode FP32 values block by block: codes, then scale bytes (R168, R171). -/
def encodeBlocks (f : Fmt) (xs : List Word) (draws : Option (List Nat)) : Bytes × ConvCount :=
  let bl := (chunks 32 xs).zipIdx.map fun p => sizeBlock f p.1 (draws.map fun d => (d.drop (32 * p.2)).take 32)
  (packElems f (bl.flatMap fun b => b.2.1) ++ bl.map (fun b => BitVec.ofNat 8 b.1), sumCounts (bl.map fun b => b.2.2))

/-- The row record of a UINT4Z row (R166); INDEX is the row number mod 256 (R248). -/
def rowRecord (index zp scale sum : Nat) : Bytes := leBytes 1 index ++ leBytes 1 (zp % 16) ++ leBytes 2 scale ++ leBytes 4 sum

/-- Encode a row in its table's format (R168, R169, R184). -/
def encodeRow (f : Fmt) (row : Nat) (xs : List Word) (draws : Option (List Nat)) : Bytes × ConvCount :=
  if f.blockScaled then encodeBlocks f xs draws
  else if f = .uint4z then
    let z := sizeRowZ dynamicRule xs (fun _ => false) draws
    (packElems f z.codes ++ rowRecord (row % 256) z.zp z.scale z.rowSum, z.counts)
  else if f = .bf16 then (xs.flatMap fun w => leBytes 2 (f32ToBF16 w), {})
  else (xs.flatMap fun w => leBytes 4 w.toNat, {})

/-- The row of zeros that TABLE_DEFINE writes (R247). -/
def zeroRow (f : Fmt) (row e : Nat) : Bytes :=
  if f = .uint4z then zeros (elemBytes f e) ++ rowRecord (row % 256) 0 0x3C00 0 else zeros (rowLayout f.code e false).1

/-- IEEE addition with one nearest-even rounding in a format with infinities (R200, R324): an exact zero sum of unlike signs is +0; which
NaN a NaN operand or two opposite infinities give is open (DESIGN CHOICE, log entry 64). -/
def ieeeAdd (f : FFmt) (k a b : Nat) : Nat :=
  if f.isNaN a || f.isNaN b || f.isInf a && f.isInf b && f.sign a != f.sign b then f.nan (Config.nanBits k a b)
  else if f.isInf a then a
  else if f.isInf b then b
  else if f.mag a = 0 ∧ f.mag b = 0 then (if f.sign a && f.sign b then a else 0)
  else f.ofFr (Fr.add (f.val a) (f.val b))

/-- A delta or gradient element as it acts: a NaN or infinity acts as 0 and counts (R262). -/
def cleanDelta (xs : List Word) : List Word × ConvCount :=
  (xs.map fun w => if fmtF32.isFinite w.toNat then w else 0,
   sumCounts (xs.map fun w => if fmtF32.isNaN w.toNat then { nanIn := 1 } else if fmtF32.isInf w.toNat then { infIn := 1 } else {}))

/-! ## The near-memory unit (R252, R262, R263) -/

/-- apply_add (R262): the row's new bytes from its old bytes and a delta in FP32. -/
def applyAdd (f : Fmt) (row e k : Nat) (old : Bytes) (delta : List Word) (draws : Option (List Nat)) : Bytes × ConvCount :=
  let d := cleanDelta delta
  if f = .bf16 ∨ f = .fp32 then
    let ff := if f = .bf16 then fmtBF16 else fmtF32
    let n := if f = .bf16 then 2 else 4
    -- the delta is widened exactly, so the sum of a BF16 row is formed on exact values and rounded once
    (d.1.zipIdx.flatMap fun p =>
      let a := fld old (n * p.2) n
      leBytes n (if f = .fp32 then ieeeAdd ff k a p.1.toNat
        else if ff.isFinite a then (if ff.mag a = 0 ∧ fmtF32.mag p.1.toNat = 0 then (if ff.sign a && fmtF32.sign p.1.toNat then a else 0)
                                    else ff.ofFr (Fr.add (ff.val a) (f32Val p.1)))
        else if ff.isNaN a then ff.nan (Config.nanBits k a p.1.toNat) else a), d.2)
  else
    let w := decodeRow f e old
    let x := (w.1.zip d.1).map fun p => f32Add p.1 p.2
    let r := encodeRow f row x draws
    (r.1, (d.2.add w.2).add r.2)

/-- One in FP32. -/
def f32One : Word := 0x3F800000

/-- The optimiser block (R258): B1, B2, C1, C2, EPS, WD. -/
structure OptBlock where
  b1 : Word
  b2 : Word
  c1 : Word
  c2 : Word
  eps : Word
  wd : Word
  deriving DecidableEq, Repr

def optBlock (bs : Bytes) : OptBlock :=
  let w := fun i => BitVec.ofNat 32 (fld bs (4 * i) 4)
  ⟨w 0, w 1, w 2, w 3, w 4, w 5⟩

/-- One element's step (R263), in FP32 operations in the order the rule writes them (DEDUCED, log entry 16): new momentum, new √v, new weight. R258 bounds B1, B2 and
EPS alone: under a C1, C2 or WD that is no number the new weight is `k`'s free word (DESIGN CHOICE, log entry 16). -/
def optElem (o : OptBlock) (k : Nat) (w m v g : Word) : Word × Word × Word :=
  let m' := f32Add (f32Mul o.b1 m) (f32Mul (f32Sub f32One o.b1) g)
  let v' := f32Sqrt (f32Add (f32Mul (f32Mul o.b2 v) v) (f32Mul (f32Mul (f32Sub f32One o.b2) g) g))
  let w' := f32Sub (f32Sub w (f32Div (f32Mul o.c1 m') (f32Add (f32Mul o.c2 v') o.eps))) (f32Mul o.wd w)
  (m', v', if [o.c1, o.c2, o.wd].all fun x => fmtF32.isFinite x.toNat then w' else BitVec.ofNat 32 (Config.freeNat k))

/-- optimise (R263): the slot's new bytes from its old bytes and a gradient in FP32. -/
def applyStep (f : Fmt) (row e : Nat) (o : OptBlock) (k : Nat) (old : Bytes) (grad : List Word) (draws : Option (List Nat)) : Bytes × ConvCount :=
  let rb := (rowLayout f.code e false).1
  let sb := e / 2 + e / 32
  let g := cleanDelta grad
  let w := decodeRow f e (old.take rb)
  let m := decodeBlocks .int4b (slice old rb sb) ((slice old rb sb).drop (e / 2)) e
  let v := decodeBlocks .uint4b (slice old (rb + sb) sb) ((slice old (rb + sb) sb).drop (e / 2)) e
  let r := (List.range e).map fun j => optElem o (k + j) (w.1.getD j 0) (m.1.getD j 0) (v.1.getD j 0) (g.1.getD j 0)
  let dr := fun i => draws.map fun d => (d.drop (i * e)).take e
  let mb := encodeBlocks .int4b (r.map fun t => t.1) (dr 0)
  let vb := encodeBlocks .uint4b (r.map fun t => t.2.1) (dr 1)
  let wb := encodeRow f row (r.map fun t => t.2.2) (dr 2)
  (wb.1 ++ mb.1 ++ vb.1, sumCounts [g.2, w.2, m.2, v.2, mb.2, vb.2, wb.2])

/-- An UPDATE batch as an atomic unit meets it: member and command it comes from, its seed, its admission tick (R172). -/
structure Batch where
  member : Nat
  cmd : Nat
  seed : Nat
  tick : Nat
/-- The generator of stack `k`'s atomic unit for a batch: set at the batch's start, going on from then (R172, DESIGN CHOICE, log entry 93). -/
def unitGen (k : Nat) (b : Batch) (s : State) : BitVec 64 :=
  let st := s.stackList.getD k {}
  if st.batch = some (b.member, b.cmd) then st.gen else genInit b.seed k b.tick
/-- The unit has drawn. -/
def unitDrew (k : Nat) (b : Batch) (g : BitVec 64) (s : State) : State := s.setStack k fun st => { st with gen := g, batch := some (b.member, b.cmd) }

/-- One read-modify-write of a row here: which slot it reads and writes, under stochastic rounding or not. -/
structure RowOp where
  /-- Optimiser block, for a step; none for an add. -/
  step : Option OptBlock
  stochastic : Bool

/-- The near-memory unit of the row's stack applies a delta or gradient to a row here, by the entry it reads (R252, R262–R264, R283). -/
def rowUpdate (t : Table) (row : Nat) (op : RowOp) (delta : List Word) (b : Batch) (s : State) : State × ConvCount :=
  let j := t.localRow row
  let at_ := 8 * (s.dirEntry t j).1
  let old := s.readObj t.heap at_ t.slotBytes
  let n := t.elems * (if op.step.isSome then 3 else 1)
  let k := ((s.obj t.heap).bind fun o => o.stackOf (at_ / pageBytes)).getD 12
  let d := drawsFor op.stochastic s.free n (unitGen k b s)
  let r := match op.step with
    | some o => applyStep t.format row t.elems o (s.free + 1) old delta d.2
    | none => applyAdd t.format row t.elems (s.free + 1) (old.take t.rowBytes) delta d.2
  ((unitDrew k b d.1 { s with free := s.free + 1 + t.elems }).writeObj t.heap at_ r.1, r.2)

/-! ## Reads of other members (R319, R321) -/

/-- A READ packet for up to 64 granules, and the tag it carries. The address of another member's region is open (DESIGN CHOICE, log entry 9). -/
def askOne (dst granules coord query tick dl : Nat) (s : State) : Nat × State :=
  let tag := s.fabric.nextTag
  let a := draw s
  let s := a.2.setFabric fun f => { f with nextTag := tag + 1, reads := f.reads ++ [{ tag := tag, member := dst }] }
  (tag, sendFab { typ := 0x01, cls := 1, mcast := false, dst := dst, pairSeq := 0, coord := coord, query := query, admitTick := tick, deadline := dl
                  spec := leBytes 1 0 ++ leBytes 8 a.1 ++ leBytes 2 granules, payload := [] } s)

/-- Reads for `n` granules, cut into packets of at most 64 (R321). -/
def askMany (dst coord query tick dl : Nat) : (fuel n : Nat) → State → List Nat × State
  | 0, _, s => ([], s)
  | fuel + 1, n, s =>
    if n = 0 then ([], s)
    else
      let r := askOne dst (min n 64) coord query tick dl s
      let m := askMany dst coord query tick dl fuel (n - 64) r.2
      (r.1 :: m.1, m.2)

/-- Have all these reads been answered? -/
def State.answered (s : State) (tags : List Nat) : Bool :=
  tags.all fun t => s.fabric.reads.any fun r => r.tag == t && r.data.isSome
/-- The data of answered reads, joined. -/
def State.answers (s : State) (tags : List Nat) : Bytes :=
  tags.flatMap fun t => ((s.fabric.reads.find? fun r => r.tag == t).bind FabRead.data).getD []
/-- Did any of them come poisoned (R313)? -/
def State.answeredBad (s : State) (tags : List Nat) : Bool := tags.any fun t => s.fabric.reads.any fun r => r.tag == t && r.bad
/-- Drop reads that have served. -/
def dropReads (tags : List Nat) (s : State) : State := s.setFabric fun f => { f with reads := f.reads.filter fun r => !tags.contains r.tag }

end Sys2Proof.Machine
end

