-- ==== Sys2Proof/Machine/Ingest.lean ====
section
/-! DEFINITION. Index commands (class 0x3): INDEX_DEFINE, INSERT, DELETE, MERGE, BULK_LOAD, INDEX_STAT, and what the
maintenance job of a shard does at boundaries and in its slices (R81–R99, R143–R161). -/

namespace Sys2Proof.Machine

/-! ## INDEX_DEFINE (R81, R82, R84, R97) -/

/-- OUTLIER_DIMS against OUTLIERS and DIMS (R81): the reason, if any. -/
def outlierBad (ps : Bytes) : Option Nat :=
  let o := fld ps 8 1
  let ds := (List.range 8).map fun i => fld ps (16 + 2 * i) 2
  if (ds.take o).any fun d => decide (fld ps 0 2 ≤ d) then some 0
  else if (List.range (o - 1)).any fun i => decide (ds.getD (i + 1) 0 ≤ ds.getD i 0) then some 2
  else if (ds.drop o).any fun d => d != 0xFFFF then some 2 else none

/-- Checks of INDEX_DEFINE on its parameters (R81). -/
def checkDefine (q : Pkt) : Option Final :=
  let ps := q.params
  let v := fld ps 0 2
  let deg := fld ps 3 1
  let c := fld ps 4 2
  let mode := fld ps 38 1
  let cnt := fld ps 42 2
  let parts := fld ps 44 2
  let tier := fld ps 37 1 % 4
  firstBad
    [(decide (v < 32) || decide (4096 < v) || v % 32 != 0, badParam 0 0),
     (decide (2 < fld ps 2 1), badParam 0 2),
     (decide (deg < 16) || decide (64 < deg) || deg % 8 != 0, badParam 0 3),
     (decide (c < 8) || decide (512 < c) || c % 2 != 0, badParam 0 4),
     (v % c != 0, badParam 2 4),
     (decide (1 < fld ps 6 1), badParam 0 6), (decide (1 < fld ps 7 1), badParam 0 7),
     (decide (8 < fld ps 8 1), badParam 0 8), (fld ps 8 1 != 0 && decide (1 < fld ps 9 1), badParam 0 9),
     ((outlierBad ps).isSome, badParam ((outlierBad ps).getD 0) 16),
     (fld ps 32 5 == 0, badParam 0 32), (tier == 0 || tier == 3, badParam 0 37),
     (decide (2 < mode), badParam 0 38), (mode == 0 && fld ps 40 2 != 0, badParam 2 40),
     (cnt == 0 || decide (2048 < cnt), badParam 0 42), (mode == 0 && cnt != 1, badParam 2 42),
     (mode == 2 && parts == 0, badParam 0 44), (if mode = 2 then decide (cnt < parts) else parts != 0, badParam 2 44)]

/-- The index that INDEX_DEFINE's parameters describe. -/
def defined (q : Pkt) : Index :=
  let ps := q.params
  { num := 0, owner := q.access, dims := fld ps 0 2, sketch := fld ps 2 1, degree := fld ps 3 1, subspaces := fld ps 4 2
    form := fld ps 6 1, metric := fld ps 7 1, outFmt := fld ps 9 1
    outDims := (List.range (fld ps 8 1)).map fun i => fld ps (16 + 2 * i) 2
    slots := fld ps 32 5, mode := fld ps 38 1, first := fld ps 40 2, count := fld ps 42 2, partitions := fld ps 44 2, shard := none }

/-- The regions of one shard in the order of the Index regions table: tier, fulled, HINT, bytes; none when absent (R84). -/
def regionsOf (x : Index) (tier : Nat) (fulled : Bool) : List (Option (Nat × Bool × Nat × Nat)) :=
  [some (1, false, 0, x.slots * x.degree * x.recBytes), some (tier, fulled, 0, x.slots * x.exactStride),
   if x.outDims.isEmpty then none else some (tier, fulled, 0, x.slots * x.outDims.length),
   some (1, false, 0, x.slots * (x.subspaces / 2)), some (1, false, 0, 16 * x.slots), some (1, false, 1, ceilDiv x.slots 8),
   some (0, false, 0, x.bookBytes), some (0, false, 0, x.projBytes), some (0, false, 0, 64 + 16 * x.recBytes),
   some (0, false, 0, x.sideMap + 32768)]

/-- A region as an object of the index on member `num / 2^21` (R84); exact vectors in T2 lie on the default home set (R286, R287). -/
def regionObj (num parent owner : Nat) (homes : List Nat) (r : Nat × Bool × Nat × Nat) : Obj :=
  { num := num, owner := owner, pages := ceilDiv r.2.2.2 pageBytes, base := 0, tier := r.1, fulled := r.2.1, hint := r.2.2.1, parent := parent
    spread := if r.1 = 2 then 2 else 0, homes := if r.1 = 2 then homes else []
    lentOut := r.1 == 2 }

/-- Create regions in order; an absent region has number 0. -/
def createRegions : List (Option Obj) → State → List Nat × State
  | [], s => ([], s)
  | none :: rest, s => let r := createRegions rest s; (0 :: r.1, r.2)
  | some o :: rest, s =>
    let t := createObj (fun n b => { o with num := n, base := b }) s
    let r := createRegions rest t.2
    (t.1 :: r.1, r.2)

/-- Pages of a list of regions. -/
def regionPages (l : List (Option (Nat × Bool × Nat × Nat))) : Nat := (l.map fun r => match r with
  | some r => ceilDiv r.2.2.2 pageBytes
  | none => 0).foldl (· + ·) 0

/-- Members that hold a shard of the index a packet defines (R82). -/
def defineMembers (q : Pkt) (s : State) : List Nat :=
  if (defined q).mode = 0 then [s.self] else (List.range (defined q).count).map (· + (defined q).first)

/-- The regions of one shard, by the packet's TIER and fulling (R84). -/
def defineRegions (q : Pkt) : List (Option (Nat × Bool × Nat × Nat)) :=
  regionsOf (defined q) (fld q.params 37 1 % 4) (bit (fld q.params 37 1) 2)

/-- Those on this member as objects, none when it holds no shard. -/
def defineHere (q : Pkt) (s : State) : List (Option Obj) :=
  if (defineMembers q s).contains s.self then (defineRegions q).map fun r => r.map (regionObj (s.objNumber 0) 0 q.access (s.defaultHomes 2)) else []

/-- Pages of a routing table copy (R99). -/
def definePages (q : Pkt) : Nat := if (defined q).mode = 2 then ceilDiv ((defined q).count * (defined q).routeEntry) pageBytes else 0

def defineRoute (q : Pkt) (s : State) : Option Obj :=
  if (defined q).mode = 2 then some { num := s.objNumber 0, owner := q.access, pages := definePages q, base := 0, tier := 0 } else none

/-- The object that stands for the pages on other members, under the index's own number (R82). -/
def defineWhole (q : Pkt) (s : State) : Obj :=
  { num := 0, owner := q.access, base := 0, tier := 2, spread := 2
    pages := ((defineMembers q s).filter fun m => m != s.self).length * regionPages (defineRegions q) + (s.fabric.members.length - 1) * definePages q }

/-- Pages that another member takes: its shard's regions, if it holds one, and its routing table copy, if it is joined (R82, R99). -/
def definePagesOn (q : Pkt) (s : State) (m : Nat) : Nat :=
  (if (defineMembers q s).contains m then regionPages (defineRegions q) else 0) + if s.joined m then definePages q else 0

/-- Why INDEX_DEFINE is refused when it takes hold (R46, R81, R82, R286). -/
def defineRefused (q : Pkt) (s : State) : Option Final :=
  let x := defined q
  let members := defineMembers q s
  let here := (defineHere q s).filterMap id
  let route := (defineRoute q s).toList
  (if x.mode ≠ 0 ∧ (2048 < x.first + x.count ∨ members.any (fun m => !s.joined m) = true) then some (badParam 2 40) else none)
  <|> (if fld q.params 37 1 % 4 = 2 ∧ (s.defaultHomes 2).isEmpty = true then some (badQuota 3 true) else none)
  <|> roomFor q.access (1 + here.length + route.length) (here ++ route ++ [defineWhole q s]) s
  <|> (if (s.fabric.members ++ members).any fun m => m != s.self && decide (0 < definePagesOn q s m) && !Config.remoteTakes (s.free + 1) m (definePagesOn q s m)
    then some (badQuota 3 true) else none)

/-- The member-number words of a new routing table; its centroids are yet to be written (R99). -/
def routeMembers (x : Index) (s : State) : State :=
  if x.mode = 2 then (List.range x.count).foldl (fun s i => s.writeObj x.route (i * x.routeEntry + x.dims / 2 + x.dims / 32) (leBytes 2 (x.memberOf i))) s else s

/-- A key table entry whose slot has never held a vector: the key that marks it, the other bytes zero (R91). -/
def freshKeys : Bytes := leBytes 8 noKey ++ zeros 8

/-- The index made, and the module with it: its number is that of the object for other members' pages, its regions are objects (R82, R84). -/
def makeIndex (q : Pkt) (s : State) : Index × State :=
  let x := defined q
  let t := takeNumber s
  let whole := { defineWhole q s with num := t.1, parent := t.1 }
  let r := createRegions ((defineHere q s).zipIdx.map fun p => p.1.map fun o => { o with parent := t.1, fresh := if p.2 = 4 then freshKeys else [] }) (chargeObj whole { t.2 with objs := t.2.objs ++ [whole] })
  let g := createRegions [(defineRoute q s).map fun o => { o with parent := t.1 }] r.2
  let at_ := fun i => r.1.getD i 0
  let sh : Shard := { number := if x.mode = 0 then 0 else s.self - x.first, adj := at_ 0, exact := at_ 1, outl := at_ 2, codes := at_ 3
                      keys := at_ 4, tomb := at_ 5, books := at_ 6, proj := at_ 7, entry := at_ 8, side := at_ 9 }
  let x := { x with num := t.1, shard := if (defineMembers q s).contains s.self then some sh else none, route := g.1.headD 0, routeSince := s.tick }
  (x, routeMembers x { g.2 with indexes := g.2.indexes ++ [x] })

/-- INDEX_DEFINE (R81, R82). -/
def holdIndexDefine (c : Cmd) (s : State) : State :=
  let s' := { s with free := s.free + 2 }
  match defineRefused c.q s with
  | some f => finish c f s'
  | none => finish c (okDone (makeIndex c.q s').1.num) (makeIndex c.q s').2

/-! ## INSERT (R143–R146) -/

/-- What preparation derives from one vector (R144). -/
structure Derived where
  exact : Bytes
  outl : Bytes
  code : Bytes
  sketch : Bytes
  /-- Key table bytes 8 to 15 (R91). -/
  key : Bytes
  /-- Squared norm above 65,504 (R91). -/
  beyond : Bool
  /-- What the conversion counts (R185). -/
  counts : ConvCount
  deriving DecidableEq, Repr

/-- OUTLIER_FMT (R81). -/
def Index.outFormat (x : Index) : Fmt := if x.outFmt = 0 then .e4m3 else .e5m2
/-- FP32 of an outlier byte (R90, R164). -/
def Index.outVal (x : Index) (c : Nat) : Word := f32Of (elemVal x.outFormat c)

/-- A vector in the index's FORM (R89, R144, R168, R169). -/
structure Stored where
  data : Bytes
  scale : Nat
  zp : Nat
  rowSum : Nat
  /-- De-quantised values. -/
  vals : List Word
  counts : ConvCount

/-- The exact vector; in per-vector form every step of R127's procedure is FP32 (R144; DEDUCED, log entry 86). -/
def Index.stored (x : Index) (v : List Word) : Stored :=
  let isOut := x.outDims.contains
  if x.form = 0 then
    let bl := (chunks 32 (withoutOutliers v isOut)).map fun b => sizeBlock .int4b b none
    let es := bl.map fun b => BitVec.ofNat 8 b.1
    let data := packNibbles (bl.flatMap fun b => b.2.1)
    ⟨data ++ es, 0, 0, 0, dequantBlocks .int4b data es x.dims, bl.foldl (fun a b => a.add b.2.2) {}⟩
  else
    let r := sizeRowZ f32Rule v isOut none
    let data := packNibbles r.codes
    ⟨data, r.scale, r.zp, r.rowSum, dequantRowZ r.scale r.zp data x.dims, r.counts⟩

/-- Code of a vector: per subspace the centroid at the least squared distance, ties to the lower (R144). -/
def codeOf (x : Index) (books : Bytes) (v : List Word) : Bytes :=
  packNibbles ((List.range x.subspaces).map fun i =>
    let part := ((v.drop (i * x.subWidth)).take x.subWidth).map f32Val
    argminFr ((List.range 16).map fun c => frDist part (centroid x books i c)))

/-- Derive a slot's data from a host vector (R144). -/
def derive_ (x : Index) (proj books : Bytes) (k : Nat) (v : List Word) : Derived :=
  let st := x.stored v
  let os := x.outDims.map fun d => outlierByte x.outFormat (v.getD d 0)
  let y := st.vals.zipIdx.map fun p => match x.outDims.findIdx? (· == p.2) with
    | some i => x.outVal (os.getD i (0, {})).1
    | none => p.1
  let norm := f32SumFree k (y.map fun a => f32Mul a a)
  { exact := st.data, outl := os.map fun o => BitVec.ofNat 8 o.1, code := codeOf x books v
    sketch := sketchOf (k + 1) proj x.sketchBytes x.dims v
    key := leBytes 2 st.scale ++ leBytes 1 st.zp ++ leBytes 2 st.rowSum ++ leBytes 2 (fmtF16.ofFr (f32Val norm)) ++ zeros 1
    beyond := Fr.lt (Fr.int 65504) (f32Val norm), counts := os.foldl (fun a o => a.add o.2) st.counts }

/-- Entry length E of an INSERT (R143). -/
def insertEntry (fmt dims : Nat) : Nat := 32 + vecQ fmt dims

/-- Checks of the INGEST opcodes on their parameters, for the channel's index (R143, R148, R149, R158, R161). -/
def checkIngest (op : Nat) (q : Pkt) (x : Index) (s : State) : Option Final :=
  let ps := q.params
  let n := fld ps 0 2
  let shardOk := n == 0xFFFF || decide (n < x.count)
  let jobBad := fun (wOff : Nat) => firstBad [(decide (8 < fld ps wOff 1), badParam 0 wOff),
    (fld ps (wOff + 1) 1 != 0 && (decide (fld ps (wOff + 1) 1 < 16) || decide (32 < fld ps (wOff + 1) 1)), badParam 0 (wOff + 1))]
  match op with
  | 0x3002 =>
    let fmt := fld ps 2 1
    let e := insertEntry fmt x.dims
    if n = 0 ∨ 256 < n then some (badParam 0 0)
    else if 1 < fmt then some (badParam 0 2)
    else if ps.length ≠ 16 + n * e then some badLen
    else match (List.range n).find? fun i => fld ps (16 + i * e) 8 == noKey || vectorBad fmt x.dims (slice ps (16 + i * e + 32) (vecBytes fmt x.dims)) with
      | some i => some (badParam 0 (16 + i * e + if fld ps (16 + i * e) 8 = noKey then 0 else 32))
      | none => addrCheck q 8 8 (8 * n) true s
  | 0x3003 =>
    if n = 0 ∨ 4093 < n then some (badParam 0 0)
    else if ps.length ≠ 16 + 16 * n then some badLen
    else match (List.range n).find? fun i => decide (x.count ≤ fld ps (16 + 16 * i + 5) 2) with
      | some i => some (badParam 0 (16 + 16 * i + 5))
      | none => addrCheck q 8 1 n true s
  | 0x3004 => if shardOk then (firstBad [(fld ps 4 2 % 64 != 0, badParam 0 4)] <|> jobBad 6) else some (badParam 0 0)
  | 0x3005 => jobBad 6
  | 0x3006 => if shardOk then addrCheck q 8 64 (64 * (if n = 0xFFFF then x.count else 1)) false s else some (badParam 0 0)
  | _ => none

/-- Slots the shard can issue now: reclaimed ones whose grace has passed, oldest first, then never issued ones (R7, R145, R156). -/
def Shard.issuable (sh : Shard) (slots tick n : Nat) : Option (List Nat × Shard) :=
  let ready := ((sh.reclaim.filter fun p => decide (p.2.2 + 2 ≤ tick)).take n).map fun p => p.1
  let fresh := n - ready.length
  if slots < sh.issued + fresh then none
  else some (ready ++ (List.range fresh).map (· + sh.issued),
    { sh with reclaim := sh.reclaim.filter fun p => !ready.contains p.1, issued := sh.issued + fresh })

/-- Let the tail pass the positions that are settled (R145–R147). -/
def Shard.advanceTail (sh : Shard) : Shard :=
  sh.settled.foldl (fun h _ => if h.settled.contains h.tail then { h with tail := h.tail + 1, reserved := h.reserved - 1, settled := h.settled.erase h.tail } else h) sh

/-- Retry-after of BUSY/SIDE_LIST_FULL: ticks to free `need` positions at the mean of the last slices (R145). -/
def Shard.retryAfter (sh : Shard) (need : Nat) : Nat :=
  let sum := sh.rates.foldl (· + ·) 0
  if sum = 0 then 65535 else max 1 (min 65535 (ceilDiv (need * sh.rates.length) sum))

/-- What preparation keeps of one entry until the tick of admission: exact vector, outlier bytes, code, key table entry, side-list record (R144, R146). -/
def Derived.parts (d : Derived) (slot key tag attr : Nat) : List Bytes :=
  [d.exact, d.outl, d.code, leBytes 8 key ++ d.key, NRec.bytes { slot := slot, valid := true, tag := tag, attr := attr, sketch := d.sketch }]

/-- Write one reserved slot: its T1 data, a block of empty records, and its side-list record (R146). -/
def writeSlot (x : Index) (sh : Shard) (s : State) (g : Staged) : State :=
  let part := fun i => g.data.getD i []
  let s := writeBy (some g.cmd) 2 sh.exact (g.slot * x.exactStride) (part 0) s
  let s := writeBy (some g.cmd) 2 sh.outl (g.slot * x.outDims.length) (part 1) s
  let s := s.writeObj sh.codes (g.slot * (x.subspaces / 2)) (part 2)
  let s := s.writeObj sh.keys (16 * g.slot) (part 3)
  let s := putBlock x sh g.slot [] s
  match g.pos with
  | some p => s.writeObj sh.side (p % sideRing * x.recBytes) (part 4)
  | none => s

/-- What a command has reserved on a shard (R145). -/
def Shard.mine (sh : Shard) (id : Nat) : List Staged := sh.staged.filter fun g => g.cmd == id

/-- Release a command's reservations on this member (R145, R146): each position becomes a deleted entry, each slot returns to the
reclaim queue. -/
def releaseStaged (id : Nat) (s : State) : State :=
  s.indexes.foldl (fun s x => match x.shard with
    | none => s
    | some sh =>
      if (sh.mine id).isEmpty then s
      else
        let s := (sh.mine id).foldl (fun s g => match g.pos with
          | some p => s.writeObj sh.keys (16 * g.slot) (leBytes 8 noKey) |> setBitOf sh.side x.sideMap (p % sideRing) true
          | none => s) s
        s.setShard x.num fun h => Shard.advanceTail { h with
          staged := h.staged.filter fun g => g.cmd != id
          settled := h.settled ++ (sh.mine id).filterMap Staged.pos
          reclaim := h.reclaim ++ (sh.mine id).map fun g => (g.slot, s.tick, s.tick) }) s

/-- What a command that ends before it takes hold had reserved is released: only an INSERT's preparation reserves (R145). -/
def unreserve (c : Cmd) (s : State) : State := if c.op = 0x3002 then releaseStaged c.id s else s

/-- The channel and index of an INGEST command. -/
def State.ingest (s : State) (c : Cmd) : Option (Channel × Index) :=
  match s.handleChan c.q.handle with
  | some ch => (s.index ch.primary).map fun x => (ch, x)
  | none => none

/-- The index that an INGEST command was admitted on (R70). -/
def State.admittedIndex (s : State) (c : Cmd) : Option Index := s.index (c.uses.headD 0)

/-- D of a command on a channel (R20). -/
def deadlineOf (c : Cmd) (ch : Channel) : Nat := pickVal c.q.deadline (ch.setting 0x0301)

/-- A command becomes a running one that is decided at the next boundary. -/
def awaitCommit (c : Cmd) (ch : Channel) (s : State) : State :=
  s.setCmd c.id fun d => { d with
    state := .running, admitTick := s.tick, deadline := deadlineOf c ch, binding := ch.binding, uses := [ch.primary]
    stages := [{ kind := .slow, tick := s.tick + 1, charge := [] }] }

/-- Reserve the entries that stay on this member's shard (R145): consecutive positions at the tail, whose bitmap bits are cleared (R147); `l` gives
entry number, key, tag, attributes and data, `sh` the shard with its slots issued. -/
def reserveLocal (x : Index) (id : Nat) (sh : Shard) (l : List (Nat × Nat × Nat × Nat × Derived)) (slots : List Nat) (s : State) : State :=
  let base := sh.tail + sh.reserved
  let rows := (l.zip slots).zipIdx
  let s := rows.foldl (fun s r => setBitOf sh.side x.sideMap ((base + r.2) % sideRing) false s) s
  s.setShard x.num fun _ => { sh with
    reserved := sh.reserved + l.length
    staged := sh.staged ++ rows.map fun r =>
      { cmd := id, pos := some (base + r.2), slot := r.1.2, key := r.1.1.2.1, entry := r.1.1.1, reissued := s.tombed sh r.1.2
        data := r.1.1.2.2.2.2.parts r.1.2 r.1.1.2.1 r.1.1.2.2.1 r.1.1.2.2.2.1 } }

/-- One entry of an INSERT as preparation leaves it: its number in the packet, key, tag, attributes, data and shard (R143, R144, R145). -/
structure InsRow where
  entry : Nat
  key : Nat
  tag : Nat
  attr : Nat
  data : Derived
  shard : Nat
  deriving DecidableEq, Repr

/-- The entries of an INSERT, with the shard chosen for each (R143–R145). -/
def insertRows (q : Pkt) (x : Index) (s : State) : List InsRow :=
  let ps := q.params
  let fmt := fld ps 2 1
  let e := insertEntry fmt x.dims
  let proj := (x.shard.map fun sh => s.readObj sh.proj 0 x.projBytes).getD []
  let books := (x.shard.map fun sh => s.readObj sh.books 0 x.bookBytes).getD []
  let table := s.routeTable x
  (List.range (fld ps 0 2)).map fun i =>
    let o := 16 + i * e
    let v := hostVec fmt x.dims (slice ps (o + 32) (vecBytes fmt x.dims))
    ⟨i, fld ps o 8, fld ps (o + 16) 2, fld ps (o + 8) 8, derive_ x proj books (s.free + i * (8 * x.sketchBytes + 1)) v, s.shardFor x table (fld ps o 8) v⟩

/-- Free values that preparing an INSERT draws, one more than its shards on other members (DESIGN CHOICE, log entries 5 and 9). -/
def insertDraws (q : Pkt) (x : Index) : Nat := fld q.params 0 2 * (8 * x.sketchBytes + 1) + x.count

/-- The entries that this member's shard takes. -/
def insertOwn (x : Index) (l : List InsRow) : List (Nat × Nat × Nat × Nat × Derived) :=
  (l.filter fun r => (x.shard.map Shard.number) == some r.shard).map fun r => (r.entry, r.key, r.tag, r.attr, r.data)

/-- The shards on other members that take entries. -/
def insertRemote (x : Index) (l : List InsRow) : List Nat :=
  dedupBy id ((l.map InsRow.shard).filter fun k => (x.shard.map Shard.number) != some k)

/-- What the shards on other members answer to a reservation: none when all reserve; their state is open (DESIGN CHOICE, log entry 9). -/
def remoteAnswer (remote : List Nat) (k : Nat) : Option Nat := (remote.zipIdx.map fun p => Config.freeNat (k + p.2) % 3).find? fun a => a != 0

/-- Why an INSERT is refused before any slot is reserved (R144, R159). -/
def insertRefused (q : Pkt) (x : Index) (l : List InsRow) : Option Final :=
  if x.loading then some (badParam0 2)
  else (l.find? fun r => r.data.beyond).map fun r => badParam 0 (16 + r.entry * insertEntry (fld q.params 2 1) x.dims + 32)

/-- Free positions of the side list, of those released to new INSERTs (R7, R145, R147). -/
def Shard.room (sh : Shard) : Nat := sideRing - (sh.tail - sh.floor) - sh.reserved

/-- Is the member of a shard reachable (R145)? -/
def State.shardReachable (s : State) (x : Index) (k : Nat) : Bool := s.joined (x.memberOf k) && (x.memberOf k == s.self || s.canReach (x.memberOf k))

/-- What preparing an INSERT comes to (R144, R145). -/
inductive InsertPrep where
  | refused (f : Final)
  /-- A target shard is absent; preparation tries again at the next boundary. -/
  | absent
  /-- Every target shard has reserved its entries. -/
  | reserved
  deriving DecidableEq, Repr

/-- The shards on other members have answered: all reserve, or this member's reservations are released (R145). -/
def insertAnswered (c : Cmd) (x : Index) (rows : List InsRow) (k : Nat) (s : State) : InsertPrep × State :=
  match remoteAnswer (insertRemote x rows) k with
  | some 1 => (.refused { status := status 3 4, detail := 1 + Config.freeNat (k + (insertRemote x rows).length) % 65535 }, releaseStaged c.id s)
  | some _ => (.refused (badQuota 0 true), releaseStaged c.id s)
  | none => (.reserved, s.setCmd c.id fun d => { d with shards := rows.map InsRow.shard, reservedIn := s.tick })

/-- The module once an INSERT's free values are drawn and its conversions counted (R185). -/
def insertDrawn (q : Pkt) (x : Index) (s : State) : State :=
  let rows := insertRows q x s
  countConv (handleSlot q.handle) (sumCounts (rows.map fun r => r.data.counts))
    { s with free := s.free + insertDraws q x + (insertRemote x rows).length + 1 }

/-- Preparation of an INSERT (R143–R145): its slots' data is derived, its shards are chosen by the routing table in force, and every one is asked to
reserve its entries. -/
def reserveInsert (c : Cmd) (x : Index) (s : State) : InsertPrep × State :=
  let rows := insertRows c.q x s
  let own := insertOwn x rows
  let k := s.free + insertDraws c.q x
  let t := insertDrawn c.q x s
  match insertRefused c.q x rows with
  | some f => (.refused f, t)
  | none =>
    if rows.any fun r => !s.shardReachable x r.shard then (.absent, t)
    else match x.shard with
      | none => insertAnswered c x rows k t
      | some sh =>
        if sh.room < own.length then (.refused { status := status 3 4, detail := sh.retryAfter (own.length - sh.room) }, t)
        else match sh.issuable x.slots s.tick own.length with
          | none => (.refused (badQuota 0 true), t)
          | some (slots, sh') => insertAnswered c x rows k (reserveLocal x c.id sh' own slots t)

/-- A prepared INSERT goes to the frame sequencer, also where a shard was absent, or is answered (R145). -/
def prepareInsert (c : Cmd) (s : State) : State :=
  match s.ingest c with
  | none => s.setCmd c.id fun d => { d with state := .ready }
  | some (_, x) => match reserveInsert c x s with
    | (.refused f, t) => finish c f t
    | (_, t) => t.setCmd c.id fun d => { d with state := .ready }

/-- An INSERT some of whose shards are absent waits as a pending command does (R145): BUSY after ADMISSION_WAIT boundaries. -/
def insertWaits (c : Cmd) (s : State) : State :=
  if s.setting 0x0105 ≤ c.waited then
    let d := draw s
    finish c { status := status 3 1, detail := 1 + d.1 % 257 } d.2
  else s.setCmd c.id fun d => { d with state := .ready, shards := [], waited := d.waited + 1 }

/-- Admission of an INSERT (R146): this member's shard writes what is reserved there; it takes hold at the next boundary. -/
def admitInsert (c : Cmd) (ch : Channel) (s : State) : State :=
  let s := match s.index ch.primary with
    | some x => match x.shard with
      | some sh => (sh.mine c.id).foldl (writeSlot x sh) s
      | none => s
    | none => s
  awaitCommit c ch s

/-- Are the reservations of an INSERT as preparation made them, on the index now bound and under the routing table now in force (R71, R99, R145)?
One prepared under an older table chooses its shards again at its admission boundary, since R99 has an INSERT admitted there use the new table
(DEDUCED, log entry 77). -/
def insertStands (c : Cmd) (x : Index) (s : State) : Bool :=
  !c.shards.isEmpty && decide (x.routeSince ≤ c.reservedIn) && s.indexes.all fun y => y.num == x.num || ((y.shard.map fun sh => sh.mine c.id).getD []).isEmpty

/-- INSERT at its admission boundary (R145, R146). One that is not prepared, or whose preparation no longer stands, is prepared now. -/
def holdInsert (c : Cmd) (s : State) : State :=
  match s.ingest c with
  | none => finish c badHandle (releaseStaged c.id s)
  | some (ch, x) =>
    if x.loading then finish c (badParam0 2) (releaseStaged c.id s)
    else if insertStands c x s then admitInsert c ch s
    else
      let s := releaseStaged c.id s
      match s.index x.num with
      | none => finish c badHandle s
      | some x => match reserveInsert c x s with
        | (.refused f, t) => finish c f t
        | (.absent, t) => insertWaits c t
        | (.reserved, t) => admitInsert c ch t

/-- The boundary at which an INSERT takes hold (R146): its positions are passed, the tombstones of its reissued slots clear, and it
replies; what another member's shard applied is open (DESIGN CHOICE, log entry 9). -/
def commitInsert (c : Cmd) (s : State) : State :=
  match s.admittedIndex c with
  | none => finish c badHandle (releaseStaged c.id s)
  | some x =>
    let mine := (x.shard.map fun sh => sh.mine c.id).getD []
    let s := mine.foldl (fun s g => match x.shard with
      | some sh => if g.reissued then setBitOf sh.tomb 0 g.slot false s else s
      | none => s) s
    let s := s.setShard x.num fun h => Shard.advanceTail { h with
      staged := h.staged.filter fun g => g.cmd != c.id, settled := h.settled ++ mine.filterMap Staged.pos }
    let k := s.free
    let words := c.shards.zipIdx.map fun p => match mine.find? fun g => g.entry == p.2 with
      | some g => (g.slot + p.1 * 2 ^ 40 + 2 ^ 51, true)
      | none => let a := Config.freeBool (k + 2 * p.2); (Config.freeNat (k + 2 * p.2 + 1) % 2 ^ 40 + p.1 * 2 ^ 40 + flag a 51, a)
    let applied := (words.filter fun w => w.2).length
    let rep := fld c.q.params 8 8
    let data := if rep = 0 ∧ c.q.access ≠ 8 then [] else [⟨rep, words.flatMap fun w => leBytes 8 w.1⟩]
    let f := if applied = words.length then okDone applied data else { status := status 4 3, count := applied, data := data }
    finish c f { s with free := k + 2 * c.shards.length }

/-! ## DELETE (R148) -/

/-- Is a slot in the side list, and where? -/
def State.sidePos (s : State) (x : Index) (sh : Shard) (slot : Nat) : Option Nat :=
  sh.positions.find? fun p => (s.sideRec x sh p).slot == slot && !s.sideDeleted x sh p

/-- One entry of a DELETE on this member's shard: the state, and the REPORT byte. -/
def deleteOne (x : Index) (slot key : Nat) (s : State) : State × Nat :=
  match (s.index x.num).bind Index.shard with
  | none => (s, 3)
  | some sh =>
    if sh.issued ≤ slot then (s, 2)
    else if s.tombed sh slot || s.keyOf sh slot != key then (s, 1)
    else
      let pos := s.sidePos x sh slot
      let s := setBitOf sh.tomb 0 slot true s
      let s := s.writeObj sh.keys (16 * slot) (leBytes 8 noKey)
      let s := match pos with
        | some p => setBitOf sh.side x.sideMap (p % sideRing) true s
        | none => s
      (s.setShard x.num fun h => { h with deleted := h.deleted ++ [(slot, s.tick)] }, 0)

def holdDelete (c : Cmd) (s : State) : State :=
  match s.ingest c with
  | none => finish c badHandle s
  | some (ch, x) => if x.loading then finish c (badParam0 2) s else awaitCommit c ch s

/-- The boundary at which a DELETE takes hold (R148). -/
def commitDelete (c : Cmd) (s : State) : State :=
  match s.admittedIndex c with
  | none => finish c badHandle s
  | some x =>
    let n := fld c.q.params 0 2
    let r := (List.range n).foldl (fun (a : State × List Nat) i =>
      let o := 16 + 16 * i
      let shard := fld c.q.params (o + 5) 2
      if (x.shard.map Shard.number) = some shard then
        let d := deleteOne x (fld c.q.params o 5) (fld c.q.params (o + 8) 8) a.1
        (d.1, a.2 ++ [d.2])
      else if a.1.joined (x.memberOf shard) then let d := draw a.1; (d.2, a.2 ++ [d.1 % 4])
      else (a.1, a.2 ++ [3])) (s, [])
    let rep := fld c.q.params 8 8
    let data := if rep = 0 ∧ c.q.access ≠ 8 then [] else [⟨rep, r.2.map (BitVec.ofNat 8)⟩]
    let count := (r.2.filter (· == 0)).length
    finish c (if r.2.contains 3 then { status := status 4 3, count := count, data := data } else okDone count data) r.1

/-! ## MERGE and the maintenance job (R147, R149–R155) -/

/-- A channel's hop budget and hop charge (R103). -/
def Channel.hopBudget (ch : Channel) : Nat := ch.setting 0x0306
def chargeFor (ch : Channel) (budget : Nat) : Nat := if ch.setting 0x0307 ≠ 0 ∧ ch.setting 0x0307 ≤ budget then ch.setting 0x0307 else budget

/-- MERGE takes hold: the parameters of the last MERGE on the index, whichever shard it names, and a named shard's snapshot (R147, R149). -/
def holdMerge (c : Cmd) (s : State) : State :=
  match s.ingest c with
  | none => finish c badHandle s
  | some (ch, x) =>
    if x.loading then finish c (badParam0 2) s
    else
      let ps := c.q.params
      let s := s.setCmd c.id fun d => { d with state := .running, admitTick := s.tick, binding := ch.binding, uses := [ch.primary] }
      s.setShard x.num fun sh => { sh with
        allowance := pickVal (fld ps 2 2) 4096, sweepBlocks := pickVal (fld ps 4 2) 32768, width := pickVal (fld ps 6 1) 2
        alpha := pickVal (fld ps 7 1) 20, hopCharge := chargeFor ch ch.hopBudget, hopBudget := ch.hopBudget
        waits := if fld ps 0 2 = 0xFFFF ∨ fld ps 0 2 = sh.number then sh.waits ++ [{ cmd := c.id, upTo := sh.tail }] else sh.waits }

/-- Has the shard maintenance to do (R149)? -/
def Shard.busy (sh : Shard) : Bool := !sh.waits.isEmpty || sh.forced || !sh.deleted.isEmpty || sh.pass.isSome

/-- MERGEs on this index that are over: their snapshot is merged or skipped, or this member holds no shard they name (R149). What
other members' shards merged is open (DESIGN CHOICE, log entry 9). -/
def finishMerges (x : Index) (s : State) : State :=
  let waits := (x.shard.map Shard.waits).getD []
  let past := (x.shard.map fun sh => sh.head + sh.taken.length).getD 0
  let run := s.cmds.filter fun c => c.op == 0x3004 && c.state == .running && c.uses.contains x.num
  let s := run.foldl (fun s c =>
    let more := x.count != 1 && (fld c.q.params 0 2 == 0xFFFF || (x.shard.map Shard.number) != some (fld c.q.params 0 2))
    let w := waits.find? fun w => w.cmd == c.id
    let beyond := match w with
      | some w => decide (w.upTo ≤ past)
      | none => true
    if beyond then
      let d := if more then draw s else (0, s)
      finish c (okDone (((w.map MergeWait.merged).getD 0 + d.1) % 2 ^ 32)) d.2
    else s) s
  s.setShard x.num fun h => { h with waits := h.waits.filter fun w => decide (h.head + h.taken.length < w.upTo) }

end Sys2Proof.Machine
end

