-- ==== Sys2Proof/Machine/Walk.lean ====
section
/-! DEFINITION. Shard-walks: placement on engines, seeding, hops, tombstone reads, the side-list scan, how a walk ends
(R12, R23, R24, R100–R120). -/

namespace Sys2Proof.Machine

/-! ## Placement (R12, R100) -/

/-- Walk slots of an engine in use: those of walks that run, and those whose space is not yet released (R7). -/
def State.slotsUsed (s : State) (e : Nat) : List Nat := (s.walks.flatMap fun w => (w.slots.filter fun k => k.engine == e).map WSlot.slot)
def State.slotsFree (s : State) (e : Nat) : Nat := 2048 - (s.slotsUsed e).length

/-- Engines for `w` slots, each the active engine with the most free slots, ties to the lower number, all distinct (R100). -/
def pickEngines (s : State) : (w : Nat) → (from_ : List Nat) → Option (List Nat)
  | 0, _ => some []
  | w + 1, es => match argmaxBy s.slotsFree es with
    | none => none
    | some e => if s.slotsFree e = 0 then none else (pickEngines s w (es.erase e)).map fun l => e :: l

/-- Fresh slot contexts for a walk of width `w`; none when the member has no walk capacity for it. -/
def State.slotsFor (s : State) (w : Nat) : Option (List WSlot) :=
  (pickEngines s w s.activeEngines).map fun es => es.map fun e =>
    { engine := e, slot := (findFrom (fun i => !(s.slotsUsed e).contains i) 2048 0).getD 0 }

/-- Does some cluster take system work in this tick (R209)? -/
def State.systemClusters (s : State) : List Nat := s.units.clusters.filter fun k => !(s.frame.elasticClusters.contains k)

/-- The clusters taking system work that have no kernel phase in progress (R191, R209). -/
def State.idleSystem (s : State) : List Nat := s.systemClusters.filter fun k => (s.clusters.getD k {}).run.isNone

/-- The entry points of this member's shard, as the walk keeps them (R109). -/
def State.seedBytes (s : State) (num : Nat) : List Bytes := match s.index num with
  | some x => match x.shard with
    | some sh => (s.entryPoints x sh).map NRec.bytes
    | none => []
  | none => []

/-- Walks a pass on this index that begins now would cover. -/
def State.passReady (s : State) (num : Nat) : List Walk :=
  s.walks.filter fun w => w.index == num && w.tick == s.tick && !w.scanned && w.freedIn.isNone && !w.cancelled && (w.phase == .placed || w.phase == .walking)

/-- Shards whose next pass has become ready with what has just happened, all with the same place in the order of readiness (R116). -/
def markReady (s : State) : State :=
  let fresh := fun (x : Index) (h : Shard) => h.ready.isNone && h.passWalks.isNone && !(s.passReady x.num).isEmpty
  if s.indexes.any fun x => x.shard.any (fresh x) then
    { s with
      frame := { s.frame with scanSeq := s.frame.scanSeq + 1 }
      indexes := s.indexes.map fun x => { x with shard := x.shard.map fun h => if fresh x h then { h with ready := some s.frame.scanSeq } else h } }
  else s

/-- Slots for a walk that is to begin in this tick; none without room, or when no cluster takes system work (R23, R100, R209). -/
def State.slotsNow (s : State) (w : Nat) : Option (List WSlot) := if s.systemClusters.isEmpty then none else s.slotsFor w

/-- Put a walk into a tick (R23, R100, R109). In this tick it takes its slots and its seeds; without room the state is unchanged and the answer is
false. In a later tick it takes them when that tick begins. -/
def placeWalk (w : Walk) (tick : Nat) (s : State) : State × Bool :=
  let put := fun (slots : List WSlot) (seeds : List Bytes) =>
    ({ s with walks := s.walks ++ [{ w with id := s.nextWalk, tick := tick, slots := slots, seeds := seeds }], nextWalk := s.nextWalk + 1 }, true)
  if tick = s.tick then match s.slotsNow w.width with
    | none => (s, false)
    | some slots => put slots (s.seedBytes w.index)
  else put [] []

/-- First tick, from `first` to n + D, or without bound, in which a walk of this charge has walk capacity (R23). -/
def State.walkTickFrom (s : State) (first charge admitTick deadline : Nat) (forever : Bool) : Option Nat :=
  let last := if forever then first + 65536 else admitTick + deadline
  findFrom (fun t => decide (s.chargedAt t .hops + charge ≤ s.capacity .hops)) (last + 1 - first) first

/-- May a walk wait for capacity for ever: ELASTIC under STALL (R23)? -/
def Walk.patient (w : Walk) : Bool := !w.strict && !w.degrade

/-- Place a walk on arrival, without waiting for a boundary, in the earliest tick from n to n + D that has walk capacity; under STALL with ELASTIC in the
first that has (R23). In this tick its work window must last. None when there is no such tick. `charged` walks, whose stage has their hops already, are charged
only in a later tick. -/
def arriveWalk (w : Walk) (charged : Bool) (s : State) : Option State :=
  let later := fun (t : Nat) => (s.walkTickFrom t w.charge w.admitTick w.deadline w.patient).map fun t => (placeWalk w t s).1
  let first := max w.admitTick (if s.frame.tail then s.tick + 1 else s.tick)
  if first ≠ s.tick then later first
  else if !charged && (decide (s.capacity .hops < s.chargedAt s.tick .hops + w.charge) || (decide (w.admitTick + w.deadline < s.tick) && !w.patient)) then later (s.tick + 1)
  else
    let p := placeWalk w s.tick s
    if p.2 then some (markReady (if charged then p.1 else chargeNow [(.hops, w.charge)] p.1)) else later (s.tick + 1)

/-! ## Tests and hops (R110) -/

/-- Is the walk live: placed in a tick that has begun, and not ended? -/
def Walk.running (w : Walk) : Bool := w.phase == .walking && w.freedIn.isNone

/-- Free hop registers of an engine (R12). -/
def State.freeReg (s : State) (e : Nat) : Option Nat :=
  let used := s.walks.flatMap fun w => w.slots.filterMap fun k => if k.engine = e then k.hop.map fun h => h.2 else none
  findFrom (fun r => !used.contains r) 8 0

/-- One test of a slot that has no hop in progress, and its next hop when a register is free (R110). -/
def testSlot (id j : Nat) (s : State) : State :=
  match s.walk id with
  | none => s
  | some w => match w.slots[j]? with
    | none => s
    | some k =>
      let put := fun (g : WSlot) (s : State) => s.setWalk id fun v => { v with slots := v.slots.set j g }
      if k.state != .walking || k.hop.isSome || !w.running then s
      else match k.heap with
        | [] => put { k with state := .stopped, why := 1 } s
        | c :: rest =>
          if worstDist k.pool < c.dist then put { k with state := .stopped, why := 1 } s
          else if w.walkHops = w.budget then put { k with state := .stopped, why := 2 } s
          else if s.frame.tail then s
          else match s.freeReg k.engine with
            | none => s
            | some r =>
              (put { k with heap := rest, hops := k.hops + 1, hop := some (c.slot, r) } s).setWalk id fun v =>
                { v with walkHops := v.walkHops + 1, usedNow := v.usedNow + 1 }

/-- Every slot of every running walk, in the order in which slots wait for registers: deadline tick, then slot number (R12). -/
def State.waitOrder (s : State) : List (Nat × Nat) :=
  let l := s.walks.flatMap fun w => w.slots.zipIdx.map fun p => ((w.admitTick + w.deadline, p.1.slot), (w.id, p.2))
  (sortBy (fun a b => decide (a.1.1 < b.1.1) || (a.1.1 == b.1.1 && decide (a.1.2 < b.1.2))) l).map fun p => p.2

/-- Every slot tests, and hops are issued while registers are free. -/
def pump (s : State) : State := s.waitOrder.foldl (fun t p => testSlot p.1 p.2 t) s

/-! ## How a walk ends (R115, R118, R119, R121) -/

/-- Is the tombstone line of a slot uncorrectable (R120)? -/
def State.tombBad (s : State) (sh : Shard) (slot : Nat) : Bool := s.poisoned sh.tomb (slot / 2048 * 256) 256

/-- The pools after the final tombstone check, in slot order: entries whose bit is set are removed, and those whose line is uncorrectable are discarded
(R115, R120). -/
def Walk.finalPools (w : Walk) (s : State) : List WEntry :=
  match (s.index w.index).bind Index.shard with
  | some sh => (w.slots.flatMap WSlot.pool).filter fun e => !s.tombBad sh e.slot && !s.tombed sh e.slot
  | none => []

/-- The tombstone lines of pooled slots that the final check finds uncorrectable (R115, R120). -/
def Walk.badLines (w : Walk) (s : State) : List (Nat × Nat) :=
  match (s.index w.index).bind Index.shard with
  | some sh => (dedupBy (fun n : Nat => n) (((w.slots.flatMap WSlot.pool).filter fun e => s.tombBad sh e.slot).map fun e => e.slot / 2048)).map fun l => (sh.tomb, l)
  | none => []

/-- The walk's slots have all stopped, no hop is in progress, and its side-list hits have been offered or it was ended at a cut-off. -/
def Walk.readyToEnd (w : Walk) : Bool :=
  w.running && (w.scanned || w.truncated) && w.slots.all fun k => k.hop.isNone && (k.state == .stopped || k.state == .ended)

/-- Would the walk end STARVED (R118)? -/
def Walk.starved (w : Walk) (s : State) : Bool :=
  w.walkHops == w.budget && filtered w.predicate && decide ((dedupBy WEntry.slot (w.finalPools s)).length < w.k)

/-- The end cause, the first that applies in R118's order. -/
def Walk.endCause (w : Walk) (s : State) : Nat :=
  if w.cancelled then 5 else if w.faultTier.isSome then 6 else if w.truncated then 4
  else if w.starved s then 3 else if w.walkHops = w.budget then 2 else 1

/-- Walk slots of a local walk go back to the port's quota (R45). -/
def refundSlots (w : Walk) (s : State) : State := if w.cmd.isSome then refundQuota w.port 3 w.width s else s

/-- End a walk: final check, an uncorrectable line of which faults it (R115, R120), candidate list in pool order with the first appearance of each slot (R121). A CANCELLED walk forms none. -/
def endWalk (w : Walk) (s : State) : State :=
  let lines := if w.cancelled then [] else w.badLines s
  let w := if lines.isEmpty then w else { w with faultTier := some (w.faultTier.getD 1) }
  let s := lines.foldl (fun s l => uncorrectable l.1 (256 * l.2) 256 s) s
  let cause := w.endCause s
  let cands := if cause = 5 then [] else (dedupBy WEntry.slot (w.finalPools s)).map fun e => ({ slot := e.slot, side := e.side } : Cand)
  (refundSlots w s).setWalk w.id fun v => { v with
    phase := if cause = 5 then .sent else .ended, cause := cause, cands := cands, faultTier := w.faultTier, freedIn := some s.tick, freeTick := s.tick
    slots := v.slots.map fun k => { k with state := .ended } }

/-- Ask for the escalation budget (R119): granted when the tick's uncharged hops, the reserve included, cover it; the stopped slots resume. -/
def tryEscalate (w : Walk) (s : State) : State × Bool :=
  if w.escalation = 0 || w.escalated || w.truncated || w.cancelled || w.faultTier.isSome || !w.starved s then (s, false)
  else
    let more := w.escalation - w.budget
    if more ≤ s.uncharged s.tick .hops then
      ((chargeNow [(.hops, more)] s).setWalk w.id fun v => { v with
        escalated := true, budget := w.escalation, charge := v.charge + more
        slots := v.slots.map fun k => if k.state == .stopped then { k with state := .walking, why := 0 } else k }, true)
    else
      let s := if w.cmd.isSome then s.setChan w.chan fun h => { h with escRefused := h.escRefused + 1 } else s
      (s.setWalk w.id fun v => { v with escalation := 0 }, false)

/-- Bring one walk to its end, or to its escalation, when it is ready. -/
def settleWalk (s : State) (id : Nat) : State :=
  match s.walk id with
  | none => s
  | some w =>
    if !w.readyToEnd then s
    else
      let e := tryEscalate w s
      if e.2 then e.1 else match e.1.walk id with
        | some w => endWalk w e.1
        | none => e.1

/-- After every event of a walk: slots test and hop, walks that are over end, and slots resumed by an escalation hop again. -/
def driveWalks (s : State) : State :=
  let s := pump s
  let s := (s.walks.map Walk.id).foldl settleWalk s
  pump s

/-! ## Events of a walk -/

/-- What the hinted cache answers for a slot's tombstone bit: none when the line is not held, and then it must be read (R115). -/
def State.tombFor (s : State) (sh : Shard) (slot : Nat) : Option Bool := if s.lineHeld sh.tomb (slot / 2048) then some (s.tombed sh slot) else none

/-- Seed a placed walk (R109): each seed is treated like a scored record. Seeding issues no hop. -/
def seedWalk (w : Walk) (s : State) : State :=
  match s.index w.index with
  | none => s
  | some x => match x.shard with
    | none => s
    | some sh =>
      let pts := w.seeds.map (parseRec x.sketchBytes)
      let tomb := s.tombFor sh
      s.setWalk w.id fun v => { v with
        phase := .walking
        slots := v.slots.zipIdx.map fun p =>
          (seedsOf v.width p.2 pts).foldl (scoreRec v.sketch v.predicate v.tagSet tomb true false) { p.1 with state := .walking, visited := [] } }

/-- WALK_SEED: a placed walk whose tick has begun is seeded and issues its first hops (R109, R110). -/
def walkSeeded (id : Nat) (s : State) : State :=
  match s.walk id with
  | some w => if w.phase == .placed && decide (w.tick ≤ s.tick) && w.freedIn.isNone && !w.slots.isEmpty then driveWalks (seedWalk w s) else s
  | none => s

/-- A slot whose walk context is uncorrectable stops, and its pool and heap are discarded (R120). -/
def WSlot.lost (k : WSlot) : WSlot := { k with state := .stopped, why := 4, heap := [], pool := [], hop := none }

/-- The walk has met an uncorrectable error in this tier (R120). -/
def Walk.hurt (w : Walk) (tier : Nat) : Walk := { w with faultTier := some (w.faultTier.getD tier) }

/-- A slot's context is found uncorrectable: the walk goes on with its other slots, and will end FAULTED with tier 3 (R61, R120). -/
def contextLost (id j : Nat) (s : State) : State :=
  driveWalks ((event 1 "UNCORRECTABLE" 0xFF 0 s).setWalk id fun v => { v.hurt 3 with slots := modifyAt v.slots j WSlot.lost })

/-- A class A read for a walk; keep lines that it replaces count on the channel of a query of this member (R122, R278, R297). -/
def walkReads (w : Walk) (num off len : Nat) (s : State) : State :=
  let r := classA num off len s
  if w.cmd.isSome then countChan w.chan 27 r.2 r.1 else r.1

/-- A block returns (R110): its records are scored into the slot, or discarded when the read was uncorrectable (`err` 1, R120). `err` 2: the slot's
context is uncorrectable. -/
def blockReturned (engine reg err : Nat) (s : State) : State :=
  match s.walks.findSome? fun w => (w.slots.findIdx? fun k => k.engine == engine && k.hop.any fun h => h.2 == reg).map fun j => (w, j) with
  | none => s
  | some (w, j) =>
    match s.index w.index, w.slots[j]? with
    | some x, some k => match x.shard, k.hop with
      | some sh, some (node, _) =>
        if err = 2 then contextLost w.id j s
        else
          let k := { k with hop := none }
          let at_ := node * x.degree * x.recBytes
          let len := x.degree * x.recBytes
          let bad := err == 1 || s.poisoned sh.adj at_ len
          let s := if bad then uncorrectable sh.adj at_ len s else walkReads w sh.adj at_ len s
          let tomb := s.tombFor sh
          let k := if bad then k else (s.block x sh node).foldl (scoreRec w.sketch w.predicate w.tagSet tomb false false) k
          driveWalks (s.setWalk w.id fun v => { (if bad then v.hurt 1 else v) with slots := v.slots.set j k })
      | _, _ => s
    | _, _ => s

/-- A tombstone line read returns (R115): a PENDING entry whose bit is set, or whose line is uncorrectable (`err` 1, R120), is removed. `err` 2: the slot's
context is uncorrectable. -/
def tombReturned (id j target err : Nat) (s : State) : State :=
  match s.walk id with
  | none => s
  | some w => match (s.index w.index).bind Index.shard with
    | none => s
    | some sh =>
      if !(w.slots.getD j { engine := 0, slot := 0 }).pool.any fun e => e.slot == target && e.pendingTomb then s
      else if err = 2 then contextLost id j s
      else
        let err := err == 1 || s.tombBad sh target
        let s := if err then uncorrectable sh.tomb (target / 2048 * 256) 256 s else walkReads w sh.tomb (target / 2048 * 256) 256 s
        let gone := err || s.tombed sh target
        driveWalks (s.setWalk id fun v => { (if err then v.hurt 1 else v) with
          slots := v.slots.zipIdx.map fun p =>
            if p.2 != j then p.1
            else if gone then { p.1 with pool := p.1.pool.filter fun e => !(e.slot == target && e.pendingTomb) }
            else { p.1 with pool := p.1.pool.map fun e => if e.slot = target then { e with pendingTomb := false } else e } })

/-! ## The side-list scan (R116, R117) -/

/-- Is this shard's pass the next in turn: the one ready first, and of those ready together the one of the lowest index object number (R116)? -/
def State.nextPass (s : State) (num : Nat) : Bool :=
  let ready := s.indexes.filterMap fun x => (x.shard.bind Shard.ready).map fun r => (r, x.num)
  match ready.find? fun p => p.2 == num with
  | none => false
  | some p => ready.all fun r => decide (p.1 < r.1) || (p.1 == r.1 && decide (p.2 ≤ r.2))

/-- SIDE_LIST_SCAN_PASS: the pass whose turn it is begins when no earlier pass runs; none begins after the cut-off (R116). It reads the side list as it
stood at the boundary. Its cost is charged by R21. -/
def scanBegin (num shard : Nat) (s : State) : State :=
  match s.index num with
  | none => s
  | some x => match x.shard with
    | none => s
    | some sh =>
      let ws := s.passReady num
      let busy := s.indexes.any fun y => (y.shard.bind Shard.passWalks).isSome
      if s.frame.tail || busy || ws.isEmpty || !s.nextPass num || sh.number != shard || s.systemClusters.isEmpty then s
      else
        let cost := ceilDiv ((sh.scanTail - sh.scanHead) * ws.length * 8 * x.sketchBytes) (s.systemClusters.length * 524288)
        s.setShard num fun h => { h with
          ready := none, passWalks := some (ws.map Walk.id), passHead := h.scanHead, passTail := h.scanTail, scanCycles := h.scanCycles + cost }

/-- The best 64 side-list hits of a walk: distance, then lower entry number (R117). `bad` are ring positions that are uncorrectable. -/
def sideHits (x : Index) (sh : Shard) (w : Walk) (bad : List Nat) (s : State) : List NRec :=
  let l := ((List.range (sh.passTail - sh.passHead)).map (· + sh.passHead)).filter fun p => !bad.contains p && !s.sideDeleted x sh p
  let l := (l.map fun p => s.sideRec x sh p).filter fun r => predicateHolds w.predicate w.tagSet r.tag r.attr
  ((sortBy (fun a b => decide (ham w.sketch a.sketch < ham w.sketch b.sketch)) l).take 64)

/-- Offer hit i to slot i mod w, with SIDE set and not to the heap (R117). -/
def offerHits (x : Index) (sh : Shard) (bad : List Nat) (s : State) (id : Nat) : State :=
  match s.walk id with
  | none => s
  | some w =>
    if w.freedIn.isSome then s
    else
      let s := if w.phase == .placed then seedWalk w s else s
      let hits := (sideHits x sh w bad s).zipIdx
      let tomb := s.tombFor sh
      let hurt := bad.any fun p => decide (sh.passHead ≤ p) && decide (p < sh.passTail)
      s.setWalk id fun v => { v with
        scanned := true
        faultTier := if hurt then (v.hurt 0).faultTier else v.faultTier
        slots := v.slots.zipIdx.map fun p =>
          ((hits.filter fun h => h.2 % v.width == p.2).map fun h => h.1).foldl (scoreRec v.sketch v.predicate v.tagSet tomb false true) p.1 }

/-- SIDE_LIST_PASS_COMPLETE (R117), which every cluster taking system work has a share in, none of them during a kernel phase (R191, R209); an entry that is uncorrectable is skipped and faults the walks of the pass (R120). -/
def scanComplete (num shard : Nat) (bad : List Nat) (s : State) : State :=
  match s.index num with
  | none => s
  | some x => match x.shard with
    | none => s
    | some sh => match sh.passWalks with
      | none => s
      | some ids =>
        if sh.number != shard || s.idleSystem.length != s.systemClusters.length then s
        else
          let bad := (List.range (sh.passTail - sh.passHead)).map (· + sh.passHead) |>.filter fun p =>
            bad.contains p || s.poisoned sh.side (p % sideRing * x.recBytes) x.recBytes
          let s := bad.foldl (fun s p => uncorrectable sh.side (p % sideRing * x.recBytes) x.recBytes s) s
          driveWalks (markReady ((ids.foldl (offerHits x sh bad) s).setShard num fun h => { h with passWalks := none }))

/-! ## The cut-off and the boundary (R24, R25, R116) -/

/-- A STRICT walk at the cut-off (R24): it pauses once when the next tick can take the hops it has left; otherwise it ends, its pools
as they stand. The hops not yet spent are the hop budget in force less the hops issued, as R119 has it for an escalated walk; R24 does not say whether the
budget or the hop charge is meant (DESIGN CHOICE, log entry 81). -/
def walkCutOff (s : State) (id : Nat) : State :=
  match s.walk id with
  | none => s
  | some w =>
    if !w.strict || w.freedIn.isSome || w.tick != s.tick || w.slots.isEmpty || !(w.phase == .placed || w.phase == .walking) then s
    else if !w.continued && decide (s.tick + 1 ≤ w.admitTick + w.deadline)
        && decide (s.chargedAt (s.tick + 1) .hops + (w.budget - w.walkHops) ≤ s.capacity .hops) then
      s.setWalk id fun v => { v with
        continued := true, tick := s.tick + 1, charge := v.budget - v.walkHops
        slots := v.slots.map fun k => if k.state == .walking then { k with state := .paused } else k }
    else
      let s := if w.phase == .placed then seedWalk w s else s
      s.setWalk id fun v => { v with truncated := true, slots := v.slots.map fun k => if k.state == .walking then { k with state := .stopped, why := 3 } else k }

def walksCutOff (s : State) : State :=
  let s := (s.walks.map Walk.id).foldl walkCutOff s
  (s.walks.map Walk.id).foldl settleWalk s

end Sys2Proof.Machine
end

