-- ==== Sys2Proof/Machine/Search.lean ====
section
/-! DEFINITION. Searches: look-up tables, codebook and exact scores, partial lists, the coordinator's merge, sink sections and
trailers, and the start of a search's walk stage (R98, R102–R106, R121–R142). -/

namespace Sys2Proof.Machine

/-! ## The query (R105, R123, R127) -/

/-- Query nibble and block exponent byte (R105). -/
def qNib (v : Bytes) (j : Nat) : Int := s4 (nibble v j)
def qExp (x : Index) (v : Bytes) (j : Nat) : Nat := fld v (x.dims / 2 + j / 32) 1
/-- De-quantised query (R123). -/
def qVec (x : Index) (v : Bytes) : List Word := dequantBlocks .int4b v (slice v (x.dims / 2) (x.dims / 32)) x.dims

/-- A BF16 query converted once to INT4 block-scale form, with what its conversion counts; an INT4 query stands (R105). -/
def convertQuery (fmt dims : Nat) (bs : Bytes) : Bytes × ConvCount :=
  if fmt = 1 then (slice bs 0 (dims / 2 + dims / 32), {})
  else
    let bl := (chunks 32 (wideElems .bf16 bs dims)).map fun b => sizeBlock .int4b b none
    (packNibbles (bl.flatMap fun b => b.2.1) ++ bl.map (fun b => BitVec.ofNat 8 b.1), bl.foldl (fun a b => a.add b.2.2) {})

/-- Dimensions of subspace `i` grouped by query block, in ascending order (R123). -/
def segments (x : Index) (i : Nat) : List (List Nat) :=
  let js := (List.range x.subWidth).map (· + i * x.subWidth)
  (dedupBy id (js.map (· / 32))).map fun m => js.filter fun j => j / 32 == m

/-- Entry [i][c] of the look-up table (R123). -/
def lutEntry (x : Index) (books v : Bytes) (i c : Nat) : Word :=
  let w := x.subWidth
  let sub := slice books (i * (2 + 8 * w)) (2 + 8 * w)
  let sg := f16Scale (fld sub 0 2)
  let n := fun (j : Nat) => s4 (nibble (sub.drop 2) (c * w + (j - i * w)))
  let segs := segments x i
  let sc := fun (l : List Nat) => e8m0 (qExp x v (l.headD 0))
  let qc := f32Sum (segs.map fun l => f32Of (Fr.mul (Fr.mul (sc l) sg) (Fr.int ((l.map fun j => qNib v j * n j).foldl (· + ·) 0))))
  if x.metric = 0 then qc
  else
    let qq := f32Sum (segs.map fun l => f32Of (Fr.mul (Fr.mul (sc l) (sc l)) (Fr.int ((l.map fun j => qNib v j * qNib v j).foldl (· + ·) 0))))
    let cc := f32Sum (segs.map fun l => f32Of (Fr.mul (Fr.mul sg sg) (Fr.int ((l.map fun j => n j * n j).foldl (· + ·) 0))))
    f32Add (f32Sub qq (f32Mul (f32Int 2) qc)) cc

/-- Codebook score of a code, in ascending subspace order (R124). -/
def codeScore (x : Index) (books v code : Bytes) : Word :=
  f32Sum ((List.range x.subspaces).map fun i => lutEntry x books v i (nibble code i))

/-- The query in per-vector form: sq, zq, u (R127). -/
def perVector (x : Index) (q : List Word) : Word × Int × List Int :=
  let isOut := x.outDims.contains
  let r := rowRange q isOut
  let sq := if r.1.num = 0 ∧ r.2.num = 0 then f32Int 1 else f32Div (f32Sub (f32Of r.2) (f32Of r.1)) (f32Int 15)
  let zq := (f32Val (f32Div (f32Neg (f32Of r.1)) sq)).rne
  (sq, zq, q.zipIdx.map fun p => if isOut p.2 then zq else
    let u := (f32Val (f32Div p.1 sq)).rne + zq
    if u < 0 then 0 else if 15 < u then 15 else u)

/-- Outlier term O (R128). -/
def outlierTerm (x : Index) (q : List Word) (y : Bytes) : Word :=
  f32Sum (x.outDims.zipIdx.map fun p => f32Mul (x.outVal (outlierByte x.outFormat (q.getD p.1 0)).1) (x.outVal (fld y p.2 1)))

/-- What building a query's look-up table counts: the query's and the codebooks' scales, and query values beyond the FP32 range (R165, R185). -/
def tableCounts (x : Index) (books v : Bytes) : ConvCount :=
  (decodeBlocks .int4b v (v.drop (x.dims / 2)) x.dims).2.add
    (sumCounts ((List.range x.subspaces).map fun i => f16Count (fld books (i * (2 + 8 * x.subWidth)) 2)))

/-- What one candidate's exact score counts: its scales and its outlier bytes (R164, R165, R185). -/
def exactCounts (x : Index) (exact key y : Bytes) : ConvCount :=
  let scales := if x.form = 0 then (List.range (x.dims / 32)).map fun m => e8m0Count (fld exact (x.dims / 2 + m) 1) else [f16Count (fld key 8 2)]
  sumCounts (scales ++ (List.range x.outDims.length).map fun i => elemCount x.outFormat (fld y i 1))

/-- Count the conversions of a walk's scoring on its channel (R185). A walk fanned in from another member brings no channel number, and its counts have no
home (DEDUCED, log entry 87). -/
def Walk.counts (w : Walk) (c : ConvCount) (s : State) : State := if w.cmd.isSome then countConv w.chan c s else s

/-- Exact dot product with a candidate (R126, R127); sums whose order is not fixed are summed in a free order (R174, DESIGN CHOICE, log entry 5). -/
def exactDot (x : Index) (k : Nat) (v : Bytes) (exact key y : Bytes) : Word :=
  let q := qVec x v
  let o := outlierTerm x q y
  if x.form = 0 then
    let terms := (List.range (x.dims / 32)).map fun m =>
      let d := ((List.range 32).map fun i => qNib v (32 * m + i) * s4 (nibble exact (32 * m + i))).foldl (· + ·) 0
      f32Of (Fr.mul (Fr.mul (e8m0 (qExp x v (32 * m))) (e8m0 (fld exact (x.dims / 2 + m) 1))) (Fr.int d))
    f32SumFree k (terms ++ [o])
  else
    let pv := perVector x q
    let zp : Int := ((fld key 10 1 % 16 : Nat) : Int)
    let un := (pv.2.2.zipIdx.map fun p => p.1 * ((nibble exact p.2 : Nat) : Int)).foldl (· + ·) 0
    let uq := pv.2.2.foldl (· + ·) 0
    let i := un - zp * uq - pv.2.1 * ((fld key 11 2 : Nat) : Int) + ((x.dims : Nat) : Int) * pv.2.1 * zp
    f32Add (f32Mul (f32Mul (f32Of (f16Scale (fld key 8 2))) pv.1) (f32Int i)) o

/-- A stored squared norm (R91, R129); one that is no finite number has a free value (DESIGN CHOICE, log entry 90). -/
def normVal (c : Nat) : Word := if fmtF16.isFinite c then f32Of (fmtF16.val c) else Config.oddNorm c

/-- A candidate's exact score (R129). -/
def exactScore (x : Index) (k : Nat) (v : Bytes) (exact key y : Bytes) : Word :=
  let dot := exactDot x k v exact key y
  if x.metric = 0 then dot
  else
    let q2 := f32SumFree (k + 1) ((qVec x v).map fun a => f32Mul a a)
    f32Add (f32Sub q2 (f32Mul (f32Int 2) dot)) (normVal (fld key 13 2))

/-! ## The shard's list (R133, R134) -/

/-- Rank order of two scored things: exact tier first, then the better score (R133). -/
def rankLt (metric : Nat) (a b : Bool × Word) : Bool := (a.1 && !b.1) || (a.1 == b.1 && scoreBetter metric a.2 b.2)

def Cand.rank (c : Cand) : Bool × Word := match c.exact with
  | some w => (true, w)
  | none => (false, c.code)

/-- Ranked entries with keys, duplicates removed in favour of the first, which carries KEY_DUP (R134, R135). -/
def dedupKeys (l : List ListEntry) : List ListEntry × Nat :=
  let kept := dedupBy ListEntry.key l
  (kept.map fun e => { e with dup := e.dup || decide (1 < (l.filter fun d => d.key == e.key).length) }, l.length - kept.length)

/-- The entry of a candidate in its shard's list, before cuts (R134, R140); none when its key reads as that of a deleted slot (R91). -/
def Cand.entry (c : Cand) (w : Walk) (sh : Shard) (self : Nat) (s : State) : Option ListEntry :=
  let mark := self + flag w.cheaper 11 + flag (w.cause == 4) 12 + flag (w.cause == 3) 13 + flag w.escalated 14
  let key := s.keyOf sh c.slot
  if key = noKey then none else some { key := key, score := c.rank.2, exact := c.rank.1, side := c.side, dup := false, shardField := mark }

/-- The candidates whose key table entries the shard has or reads, in rank order, and those it leaves unread (R134): the E that were selected have theirs
(R131); of the others it reads in rank order until K entries of distinct keys stand, and at most K. -/
def Walk.keyed (w : Walk) (sh : Shard) (s : State) : List Cand × List Cand :=
  let metric := ((s.index w.index).map Index.metric).getD 0
  let ranked := sortBy (fun a b => rankLt metric (Cand.rank a) (Cand.rank b)) (w.cands.filter fun c => !c.removed)
  let others := ranked.filter fun c => !c.chosen
  let distinct := fun (l : List Cand) => (dedupBy (fun n : Nat => n) (l.filterMap fun c => (c.entry w sh s.self s).map ListEntry.key)).length
  let read := (others.take w.k).foldl (fun l c => if w.k ≤ distinct l then l else l ++ [c]) (ranked.filter Cand.chosen)
  (read, others.drop (read.length - (ranked.filter Cand.chosen).length))

/-- The partial list of a walk (R134). SHARD_TIED also looks at the candidates that were cut away unread. -/
def Walk.listOf (w : Walk) (s : State) : ListMsg :=
  let r := match (s.index w.index).bind Index.shard with
    | some sh => let r := w.keyed sh s; (r.1.filterMap fun (c : Cand) => c.entry w sh s.self s, r.2)
    | none => ([], [])
  let d := (dedupKeys r.1).1
  let tied := match d[w.k - 1]? with
    | some e => ((d.drop w.k).map fun f => (f.exact, f.score)) ++ (r.2.map Cand.rank) |>.any fun f => f.1 == e.exact && f32Eq f.2 e.score
    | none => false
  { shard := w.shard, cause := w.cause, escalated := w.escalated, cheaper := w.cheaper, tied := tied, tier := w.faultTier.getD 0
    candidates := w.cands.length, exactScores := ((w.cands.filter fun c => !c.removed).filter fun c => c.exact.isSome).length, entries := d.take w.k }

/-- A result entry's 16 bytes (R140); `tied` sets TIED. -/
def entryBytes (e : ListEntry) (tied : Bool) : Bytes :=
  leBytes 8 e.key ++ leBytes 4 e.score.toNat ++ leBytes 2 e.shardField ++ leBytes 2 (flag e.exact 0 + flag e.side 1 + flag tied 2 + flag e.dup 3)

/-- The PARTIAL_LIST packet's TYPE_SPEC (R323). -/
def listSpec (l : ListMsg) : Bytes :=
  leBytes 1 (l.cause + flag l.escalated 3 + flag l.cheaper 4 + flag l.tied 5) ++ leBytes 1 (l.tier % 4) ++ leBytes 2 l.shard
    ++ leBytes 2 l.candidates ++ leBytes 2 l.exactScores ++ zeros 3

/-! ## The coordinator (R135–R142) -/

/-- What a query's merge gives (R135–R137, R141). -/
def Query.merged (q : Query) : List ListEntry × Nat × List ListMsg :=
  let lists := q.shards.filterMap fun p => match p.2 with
    | .list l => some l
    | _ => none
  let all := sortBy (fun a b => rankLt q.metric (a.exact, a.score) (b.exact, b.score)) (lists.flatMap ListMsg.entries)
  let d := dedupKeys all
  (d.1, d.2, lists)

/-- STATUS and DETAIL of one query, from its merge and from what its encoder phase brought, `bits` (R61, R120, R136–R138, R231). -/
def Query.outcome (count tiedOut : Nat) (lists : List ListMsg) (missing k bits : Nat) : Nat × Nat :=
  let cause := fun n => lists.any fun l => l.cause == n
  let trunc := cause 4
  let starved := cause 3 && decide (count < k)
  let cheap := lists.any ListMsg.cheaper || bit bits 2
  let miss := decide (0 < missing)
  let few := decide (count < k)
  let detail := flag trunc 0 + flag starved 1 + flag cheap 2 + flag miss 3 + flag few 4 + flag (decide (0 < tiedOut)) 15
  match lists.find? fun l => l.cause == 6 with
  | some l => (status 5 1, l.tier % 4)
  | none =>
    if miss then (status 1 4, detail) else if trunc then (status 1 1, detail) else if cheap then (status 1 3, detail)
    else if starved then (status 1 2, detail) else if few then (status 1 5, detail) else (status 0 0, detail)

/-- The query's final status and its section: entries, then the trailer at 16 × K (R137, R141). -/
def Query.final (q : Query) : Final :=
  let m := q.merged
  let res := m.1.take q.k
  let rest := m.1.drop q.k
  let last := if q.k ≤ res.length then res.getLast? else none
  let same := fun (e : ListEntry) => match last with
    | some f => f.exact == e.exact && f32Eq f.score e.score
    | none => false
  let tiedOut := (rest.filter same).length
  let lists := m.2.2
  let missing := q.shards.filter fun p => match p.2 with
    | .list _ => false
    | _ => true
  let n := fun (f : ListMsg → Bool) => (lists.filter f).length
  let sum := fun (f : ListMsg → Nat) => (lists.map f).foldl (· + ·) 0
  let o := Query.outcome res.length tiedOut lists missing.length q.k q.bits
  let trailer := leBytes 4 res.length ++ leBytes 2 o.1 ++ leBytes 2 o.2 ++ leBytes 4 tiedOut ++ leBytes 2 q.shards.length ++ leBytes 2 lists.length
    ++ leBytes 2 missing.length ++ leBytes 2 (n ListMsg.cheaper) ++ leBytes 2 (n fun l => l.cause == 4) ++ leBytes 2 (n fun l => l.cause == 3)
    ++ leBytes 2 (n ListMsg.escalated) ++ leBytes 2 (n fun l => l.cause == 6)
    ++ leBytes 2 (if missing.isEmpty then 0xFFFF else missing.foldl (fun a p => min a p.1) 0xFFFF)
    ++ leBytes 1 (flag (lists.any ListMsg.tied) 0 + flag (q.metric == 1) 1) ++ zeros 1
    ++ leBytes 4 (sum fun l => l.entries.length) ++ leBytes 4 m.2.1 ++ leBytes 4 (sum ListMsg.candidates)
    ++ leBytes 4 (sum fun l => if l.cheaper then 0 else l.exactScores) ++ leBytes 6 q.admitTick ++ leBytes 1 q.deadline ++ zeros 9
  { status := o.1, detail := o.2, count := res.length
    data := [⟨q.sink, res.flatMap fun e => entryBytes e (decide (0 < tiedOut) && same e)⟩, ⟨q.sink + 16 * q.k, trailer⟩] }

/-- The class order of R61 within and across queries: higher class first, then PARTIAL's own order. -/
def statusRank (st : Nat) : Nat :=
  if st / 0x1000 = 1 then 0x1000 + (match st % 0x1000 with
    | 4 => 5 | 1 => 4 | 3 => 3 | 2 => 2 | 5 => 1 | _ => 0)
  else st / 0x1000 * 0x1000

/-- One status for a batch (R61, R104, R142): the highest, DETAIL bits of every PARTIAL cause joined. -/
def combine (fs : List Final) : Final :=
  match argmaxBy (fun f => statusRank f.status) fs with
  | none => okDone 0
  | some b =>
    { status := b.status
      detail := if b.status / 0x1000 ≤ 1 then (fs.filter fun f => decide (f.status / 0x1000 ≤ 1)).foldl (fun a f => a ||| f.detail) 0 else b.detail
      count := (fs.map Final.count).foldl (· + ·) 0, data := fs.flatMap Final.data }

/-- Merge a query whose coordinator has stopped waiting, and end its command when it was the last of its batch (R104, R135, R142). -/
def completeQuery (s : State) (num : Nat) : State :=
  match s.queries.find? fun q => q.number == num && q.result.isNone with
  | none => s
  | some q =>
    let f := q.final
    let s := s.setQuery num fun v => { v with result := some f }
    let esc := (q.merged.2.2.filter ListMsg.escalated).length
    let s := refundQuota q.port 3 q.slots (s.setChan q.chan fun h => { h with escalations := h.escalations + esc })
    let mine := s.queries.filter fun v => v.cmd == q.cmd
    if mine.all fun v => v.result.isSome then
      match s.cmd q.cmd with
      | some c => finish c (combine (mine.filterMap Query.result)) s
      | none => s
    else s

/-- Is the coordinator still waiting for nothing (R138's Coordinator wait table)? -/
def Query.answered (q : Query) : Bool :=
  let back := fun (p : Nat × ShardAnswer) => match p.2 with
    | .list _ => true
    | _ => false
  if q.degrade then q.shards.all fun p => p.2 != .waiting else q.shards.all back

/-- A shard's answer reaches the coordinator; after it has stopped waiting a list is discarded and counted late (R138). -/
def shardAnswers (num shard : Nat) (a : ShardAnswer) (s : State) : State :=
  match s.queries.find? fun q => q.number == num with
  | none => s
  | some q =>
    if !q.shards.any fun p => p.1 == shard && p.2 == .waiting then s
    else
      let s := s.setQuery num fun v => { v with shards := v.shards.map fun p => if p.1 = shard then (p.1, a) else p }
      if q.result.isSome then
        match a with
        | .list _ => s.setChan q.chan fun h => { h with lateLists := h.lateLists + 1 }
        | _ => s
      else match s.queries.find? fun v => v.number == num with
        | some v => if v.answered then completeQuery s num else s
        | none => s

/-- Key table entries that the shard's list needs are read as class A; a candidate whose entry is uncorrectable leaves the list, which ends FAULTED
(R122, R132, R134). `n` bounds the rounds: each removes a candidate. -/
def readKeys (id : Nat) : (n : Nat) → State → State
  | 0, s => s
  | n + 1, s =>
    match s.walk id with
    | none => s
    | some w => match (s.index w.index).bind Index.shard with
      | none => s
      | some sh =>
        let read := (w.keyed sh s).1
        match read.find? fun c => s.poisoned sh.keys (16 * c.slot) 16 with
        | some c =>
          let s := uncorrectable sh.keys (16 * c.slot) 16 s
          readKeys id n (s.setWalk id fun v => { v.hurt (s.tierAt sh.keys (16 * c.slot)) with
            cause := 6, cands := v.cands.map fun d => if d.slot = c.slot then { d with removed := true } else d })
        | none => (read.filter fun c => !c.chosen).foldl (fun s c => walkReads w sh.keys (16 * c.slot) 16 s) s

/-- Send a shard's list to its coordinator (R134); the coordinator's own shard's list crosses no link (R105). -/
def sendList (id : Nat) (s : State) : State :=
  let s := readKeys id (((s.walk id).map fun w => w.cands.length + 1).getD 0) s
  match s.walk id with
  | none => s
  | some w =>
    let l := w.listOf s
    let s := s.setWalk id fun v => { v with phase := .sent }
    if w.coord = s.self then shardAnswers w.query w.shard (.list l) s
    else sendFab { typ := 0x13, cls := 0, mcast := false, dst := w.coord, pairSeq := 0, coord := w.coord, query := w.query, admitTick := w.admitTick
                   deadline := w.deadline, spec := listSpec l, payload := l.entries.flatMap fun e => entryBytes e false } s

/-! ## Walks at a boundary (R23–R25, R64, R109) -/

/-- A walk that this member cannot place is missing from its query (R23, R138): REFUSED goes to its coordinator, or its own query is told. -/
def refusePlaced (w : Walk) (s : State) : State :=
  let s := { s with walks := s.walks.filter fun v => v.id != w.id }
  if w.cmd.isSome then shardAnswers w.query w.shard .missing (refundQuota w.port 3 w.width s)
  else sendFab { typ := 0x12, cls := 0, mcast := false, dst := w.coord, pairSeq := 0, coord := w.coord, query := w.query, admitTick := w.admitTick
                 deadline := w.deadline, spec := leBytes 2 w.shard, payload := [] } s

/-- A walk placed in this tick takes its slots and its seeds (R100, R109); without room it goes to the next tick with capacity, or is refused (R23). -/
def beginWalk (w : Walk) (s : State) : State :=
  match s.slotsNow w.width with
  | some slots => chargeNow [(.hops, w.charge)] (s.setWalk w.id fun v => { v with slots := slots, seeds := s.seedBytes w.index })
  | none => match s.walkTickFrom (s.tick + 1) w.charge w.admitTick w.deadline w.patient with
    | some t => s.setWalk w.id fun v => { v with tick := t }
    | none => refusePlaced w s

/-- A walk at a boundary (R7, R24, R25, R64, R331): a cancelled one ends, one placed in this tick or continued into it goes on, an ELASTIC one runs on, and a
context freed two ticks ago is released. The charges carried into the new tick are answered. -/
def walkBoundary (s : State) (id : Nat) : State :=
  match s.walk id with
  | none => s
  | some w =>
    match w.freedIn with
    | some f =>
      let since := s.countedFrom f w.freeTick
      if w.phase == .sent && decide (since + 2 ≤ s.tick) then { s with walks := s.walks.filter fun v => v.id != id }
      else s.setWalk id fun v => { v with freeTick := since }
    | none =>
      if w.cancelled then endWalk w s
      else if w.tick = s.tick then
        if w.slots.isEmpty then beginWalk w s
        else chargeNow [(.hops, w.charge)] (s.setWalk id fun v => { v with
          usedNow := 0, slots := v.slots.map fun k => if k.state == .paused then { k with state := .walking } else k })
      else if w.tick < s.tick then
        chargeNow [(.hops, max (w.charge - w.walkHops) w.usedNow)] (s.setWalk id fun v => { v with tick := s.tick, usedNow := 0 })
      else s

/-! ## Rescoring (R123–R132) -/

/-- Codebook scores, selection of the best E, exact reads issued (R123–R125, R131). `bad` are candidates whose code is uncorrectable, which leave the list
(R132). An empty list is sent at once (R121). -/
def rescoreWalk (id : Nat) (bad : List Nat) (s : State) : State :=
  match s.walk id with
  | none => s
  | some w =>
    if w.phase != .ended then s
    else match s.index w.index with
      | none => s
      | some x => match x.shard with
        | none => s
        | some sh =>
          let books := s.readObj sh.books 0 x.bookBytes
          let len := x.subspaces / 2
          let codeAt := fun (c : Cand) => c.slot * len
          let bad := (List.range w.cands.length).filter fun i => bad.contains i || (w.cands[i]?.any fun c => s.poisoned sh.codes (codeAt c) len)
          let s := w.counts (tableCounts x books w.vector) s
          let s := w.cands.zipIdx.foldl (fun s p => if bad.contains p.2 then uncorrectable sh.codes (codeAt p.1) len s else walkReads w sh.codes (codeAt p.1) len s) s
          let cs := w.cands.zipIdx.map fun p => { p.1 with removed := bad.contains p.2, code := codeScore x books w.vector (s.readObj sh.codes (codeAt p.1) len) }
          let order := sortBy (fun (a b : Cand × Nat) => scoreBetter x.metric a.1.code b.1.code) (cs.zipIdx.filter fun p => !p.1.removed)
          let best := (order.take w.exactCount).map fun p => p.2
          let cs := cs.zipIdx.map fun p => { p.1 with chosen := best.contains p.2, waiting := best.contains p.2 }
          let s := s.setWalk id fun v => { (if bad.isEmpty then v else v.hurt (s.tierAt sh.codes 0)) with
            phase := .exact, cands := cs, cause := if bad.isEmpty then v.cause else 6 }
          if best.isEmpty then sendList id s else s

/-- RESCORING runs on the lowest-numbered cluster taking system work that has no kernel phase in progress, and waits for one when all are busy (R191, R209). -/
def rescore (id : Nat) (bad : List Nat) (s : State) : State := if s.idleSystem.isEmpty then s else rescoreWalk id bad s

/-- EXACT_READ_RETURN: one candidate's exact vector, outliers and key entry return and are scored; an uncorrectable read removes it
(R126–R129, R132). `err` is 0, or one more than the tier of the error. When all are in, the list is sent. -/
def exactReturned (id cand err : Nat) (s : State) : State :=
  match s.walk id with
  | none => s
  | some w => match w.cands[cand]?, s.index w.index with
    | some c, some x => match x.shard with
      | none => s
      | some sh =>
        if w.phase != .exact || !c.waiting then s
        else
          -- the exact vector, the key table entry and the outlier bytes of the candidate
          let reads : List (Nat × Nat × Nat) := [(sh.exact, c.slot * x.exactStride, x.exactStride), (sh.keys, 16 * c.slot, 16), (sh.outl, c.slot * x.outDims.length, x.outDims.length)]
          let bad := (reads.find? fun r => r.2.2 != 0 && s.poisoned r.1 r.2.1 r.2.2) <|> (if err = 0 then none else reads.head?)
          let read := fun (i : Nat) => let r := reads.getD i (0, 0, 0); s.readObj r.1 r.2.1 r.2.2
          let sc := exactScore x s.free w.vector (read 0) (read 1) (read 2)
          let c := { c with waiting := false, exact := if bad.isSome then none else some sc, removed := bad.isSome }
          let s := { s with free := s.free + 2 }
          let s := match bad with
            | some r => uncorrectable r.1 r.2.1 r.2.2 s
            | none => reads.foldl (fun s (r : Nat × Nat × Nat) => walkReads w r.1 r.2.1 r.2.2 s) (w.counts (exactCounts x (read 0) (read 1) (read 2)) s)
          let s := s.setWalk id fun v => match bad with
            | some r => { v.hurt (if err = 0 then s.tierAt r.1 r.2.1 else min (err - 1) 2) with cands := v.cands.set cand c, cause := 6 }
            | none => { v with cands := v.cands.set cand c }
          if (w.cands.set cand c).any Cand.waiting then s else sendList id s
    | _, _ => s

/-- The shard declares its exact reads late: every exact score is abandoned, the list is CHEAPER, and it is sent (R131). -/
def declareLate (id : Nat) (s : State) : State :=
  match s.walk id with
  | none => s
  | some w =>
    if w.phase != .exact then s
    else sendList id (s.setWalk id fun v => { v with cheaper := true, cands := v.cands.map fun c => { c with exact := none, waiting := false } })

/-- EXACT_READS_LATE: 8 µs after the first read, under DEGRADE only (R131). -/
def exactLate (id : Nat) (s : State) : State :=
  match s.walk id with
  | some w => if w.degrade then declareLate id s else s
  | none => s

/-- EXACT_LIMIT: outstanding exact reads of STRICT walks that ended in this tick are late; under STALL the channel's stall counter
advances (R130, R131). -/
def exactLimitAll (s : State) : State :=
  (s.walks.filter fun w => w.strict && w.phase == .exact && w.freedIn == some s.tick).foldl (fun s w =>
    let s := if !w.degrade && w.cmd.isSome then s.setChan w.chan fun h => { h with stalls := h.stalls + 1 } else s
    declareLate w.id s) s

/-- The list limit of a tick for searches (R130, R134, R138): STRICT shards send what they have, and coordinators whose tick n+D this is
stop waiting, ELASTIC ones under STALL excepted. -/
def listLimitSearch (s : State) : State :=
  let due := s.walks.filter fun w => w.strict && (w.phase == .ended || w.phase == .exact) && w.freedIn == some s.tick
  let s := due.foldl (fun s w => declareLate w.id (rescoreWalk w.id [] s)) s
  (s.queries.filter fun q => q.result.isNone && decide (q.admitTick + q.deadline ≤ s.tick) && (q.strict || q.degrade)).foldl
    (fun s q => completeQuery s q.number) s

/-! ## Starting a search (R98, R103–R106, R122) -/

/-- Working values of a search: K, width, hop budget, charge, escalation, exact count, partitions, sink base, STRICT, DEGRADE (R103, R122). -/
def searchWork (q : Pkt) (ch : Channel) (x : Index) : List Nat :=
  let ps := q.params
  let b := pickVal (fld ps 4 2) (ch.setting 0x0306)
  let esc := ch.setting 0x0308
  [pickVal (fld ps 0 2) (ch.setting 0x0304), pickVal (fld ps 2 1) (ch.setting 0x0305), b, chargeFor ch b,
   if b < esc ∧ bit (fld ps 10 1) 0 = false then esc else 0, pickVal (fld ps 8 2) (ch.setting 0x0309),
   x.visited (fld ps 6 2), ch.sinkBase, flag (ch.setting 0x0302 == 0 || bit q.flags 2) 0, flag (ch.setting 0x0303 == 2) 0]

/-- Queries a packet carries. -/
def searchCount (op : Nat) (ps : Bytes) : Nat := if op = 0x2002 then fld ps 12 2 else 1

/-- Predicate, tag set and vector of query `i` of a command (R102, R104, R106). -/
def searchItem (c : Cmd) (x : Index) (i : Nat) : Bytes × Bytes × Bytes × Nat :=
  let ps := c.q.params
  let fmt := fld ps 3 1
  if c.op = 0x2002 then
    let o := 16 + i * (64 + vecQ fmt x.dims)
    (slice ps o 32, slice ps (o + 32) 32, slice ps (o + 64) (vecBytes fmt x.dims), fmt)
  else if c.op = 0x2003 then (slice ps 16 32, slice ps 48 32, c.encoded, 0)
  else (slice ps 16 32, slice ps 48 32, slice ps 80 (vecBytes fmt x.dims), fmt)

/-- Shards a query visits under a routing table (R98, R99). -/
def State.visits (s : State) (x : Index) (table : Bytes) (parts : Nat) (v : List Word) : List Nat :=
  match x.mode with
  | 0 => [0]
  | 1 => List.range x.count
  | _ => sortBy (fun a b => decide (a < b)) ((s.routeOrder x table v).take parts)

/-- Does a search of these shards walk on this member? -/
def Index.hasLocal (x : Index) (shards : List Nat) : Bool := match x.shard with
  | some sh => shards.contains sh.number
  | none => false

/-- The WALK packet's TYPE_SPEC and payload (R105, R322). -/
def walkSpec (num : Nat) (wk : List Nat) (tags : Bool) : Bytes :=
  leBytes 4 num ++ leBytes 2 ((wk.getD 0 1 - 1) + (wk.getD 1 1 - 1) * 2 ^ 12 + flag tags 15)
    ++ leBytes 2 (wk.getD 2 0 + wk.getD 8 0 * 2 ^ 11 + wk.getD 9 0 * 2 ^ 12) ++ leBytes 2 (wk.getD 4 0) ++ leBytes 1 (wk.getD 5 1 - 1)

/-- Start one query (R105): its sketch and converted vector, the local walk, the fan-out, the shards that cannot be reached. -/
def startQuery (c : Cmd) (ch : Channel) (x : Index) (s : State) (i : Nat) : State :=
  let it := searchItem c x i
  let wk := c.work
  let g := fun (n : Nat) => wk.getD n 0
  let v := hostVec it.2.2.2 x.dims it.2.2.1
  let sk := s.sketch x v
  let conv := convertQuery it.2.2.2 x.dims it.2.2.1
  let shards := State.visits { s with free := s.free + 8 * x.sketchBytes } x c.routes (g 6) v
  let s := { s with free := s.free + 8 * x.sketchBytes + x.count + 1 }
  let num := s.nextQuery
  let here := x.hasLocal shards
  let mine := (x.shard.map Shard.number).getD 0
  let away := shards.filter fun k => !(here && k == mine)
  let reach := away.filter fun k => s.canReach (x.memberOf k)
  let q : Query :=
    { number := num, cmd := c.id, index := x.num, metric := x.metric, k := g 0
      shards := shards.map fun k => (k, if (here && k == mine) || reach.contains k then .waiting else .missing)
      chan := ch.slot, port := c.q.access, sink := g 7 + i * (16 * g 0 + 64), strict := g 8 == 1, degrade := g 9 == 1
      admitTick := c.admitTick, deadline := c.deadline, bits := c.partialBits, slots := if here then 0 else g 1 }
  let s := { s with queries := s.queries ++ [q], nextQuery := (num + 1) % 2 ^ 21 }
  let s := countConv ch.slot conv.2 s
  let w : Walk :=
    { id := 0, coord := s.self, query := num, index := x.num, shard := mine, k := g 0, width := g 1, budget := g 2, strict := g 8 == 1
      degrade := g 9 == 1, escalation := g 4, exactCount := g 5, charge := g 3, sketch := sk, predicate := it.1, tagSet := it.2.1, vector := conv.1
      admitTick := c.admitTick, deadline := c.deadline, tick := s.tick, cmd := some c.id, port := c.q.access, chan := ch.slot
      noEscalation := bit (fld c.q.params 10 1) 0 }
  let s := if here then (arriveWalk w true s).getD (shardAnswers num mine .missing (refundQuota c.q.access 3 (g 1) s)) else s
  let tags := (List.range 4).any fun j => (clauseAt it.1 j).kind == 3
  let pkt : FabPkt :=
    { typ := 0x10, cls := 0, mcast := true, dst := 0x7FF, pairSeq := 0, coord := s.self, query := num, admitTick := c.admitTick, deadline := c.deadline
      spec := walkSpec x.num wk tags, payload := sk ++ it.1 ++ (if tags then it.2.1 else []) ++ conv.1 }
  let s := if reach.isEmpty then s else sendMulti pkt (reach.map x.memberOf) s
  match s.queries.find? fun v => v.number == num with
  | some v => if v.answered && v.result.isNone then completeQuery s num else s
  | none => s

/-- The walk stage of a search begins in its tick, on the index and by the routing table of its admission boundary (R22, R70, R99, R105). -/
def startSearch (c : Cmd) (s : State) : State :=
  match s.handleChan c.q.handle with
  | none => s
  | some ch => match s.admittedIndex c with
    | none => s
    | some x => (List.range (searchCount c.op c.q.params)).foldl (startQuery c ch x) s

/-- Hops a search charges on this member: the charge of each query's walk here (R21). Which partitions a routed query visits is judged
on its own centroids. -/
def searchHops (c : Cmd) (x : Index) (wk : List Nat) (s : State) : Nat :=
  ((List.range (searchCount c.op c.q.params)).map fun i =>
    let it := searchItem c x i
    if x.mode != 2 then (if x.shard.isSome then wk.getD 3 0 else 0)
    else if x.hasLocal (s.visits x (s.routeTable x) (wk.getD 6 0) (hostVec it.2.2.2 x.dims it.2.2.1)) then wk.getD 3 0 else 0).foldl (· + ·) 0

/-- Merge room a search needs (R139). -/
def searchMerge (c : Cmd) (wk : List Nat) : Nat := searchCount c.op c.q.params * wk.getD 6 0 * wk.getD 0 0

end Sys2Proof.Machine
end

