-- ==== Sys2Proof/Machine/Tables.lean ====
section
/-! DEFINITION. TABLE_DEFINE: its checks, the table it makes, and the job that fills every row slot with the zero row (R247–R251). -/

namespace Sys2Proof.Machine

/-- Checks of TABLE_DEFINE (R247). -/
def checkTable (q : Pkt) : Option Final :=
  let ps := q.params
  let e := fld ps 0 2
  let place := fld ps 9 1
  let n := fld ps 18 2
  firstBad
    [(decide (e < 32) || decide (8192 < e) || e % 32 != 0, badParam 0 0),
     (!([0, 1, 2, 4, 12, 13].contains (fld ps 2 1)), badParam 0 2),
     (decide (16384 < (rowLayout (fld ps 2 1) e false).1), badParam 0 0),
     (fld ps 4 5 == 0, badParam 0 4), (decide (3 < place), badParam 0 9),
     (place == 0 && fld ps 16 2 != 0, badParam 2 16),
     (place == 0 && n != 1, badParam 2 18), (n == 0 || decide (2048 < n), badParam 0 18)]

/-- The table that TABLE_DEFINE's parameters describe, PLACE 3 resolved by its size (R247). -/
def tableOf (q : Pkt) : Table :=
  let ps := q.params
  let l := rowLayout (fld ps 2 1) (fld ps 0 2) (bit (fld ps 3 1) 0)
  let rows := fld ps 4 5
  let place := if fld ps 9 1 = 3 then (if rows * l.2 ≤ fld ps 24 8 then 1 else 2) else fld ps 9 1
  { num := 0, owner := q.access, elems := fld ps 0 2, fmt := fld ps 2 1, opt := bit (fld ps 3 1) 0, rows := rows, place := place
    spare := fld ps 12 4, first := fld ps 16 2, count := fld ps 18 2, rowBytes := l.1, slotBytes := l.2 }

/-- Rows of the copy or shard that a member of the set holds (R249). -/
def Table.rowsOn (t : Table) (m : Nat) : Nat := if t.place = 2 then shardRows t.rows t.count (m - t.first) else t.rows

/-- Heap and directory of one copy or shard: T1, direct, the directory's lines hinted keep (R250). -/
def Table.regions (t : Table) (rows : Nat) : List (Option (Nat × Bool × Nat × Nat)) :=
  [some (1, false, 0, (rows + t.spare) * t.stride), some (1, false, 1, 8 * rows)]

/-- Members that hold a copy or shard of the table a packet defines (R247, R249). -/
def tableMembers (q : Pkt) (s : State) : List Nat :=
  if (tableOf q).place = 0 then [s.self] else (List.range (tableOf q).count).map (· + (tableOf q).first)

/-- Rows of the copy or shard on this member. -/
def tableRowsHere (q : Pkt) (s : State) : Nat := if (tableMembers q s).contains s.self then (tableOf q).rowsOn s.self else 0

/-- Row heap and directory on this member as objects (R250). -/
def tableHere (q : Pkt) (s : State) : List (Option Obj) :=
  if (tableMembers q s).contains s.self then ((tableOf q).regions (tableRowsHere q s)).map fun r => r.map (regionObj (s.objNumber 0) 0 q.access []) else []

/-- Pages that a member takes for its copy or shard. -/
def tablePages (q : Pkt) (m : Nat) : Nat := regionPages ((tableOf q).regions ((tableOf q).rowsOn m))

/-- The object that stands for the pages on other members, under the table's own number (R249). -/
def tableWhole (q : Pkt) (s : State) : Obj :=
  { num := 0, owner := q.access, base := 0, tier := 2, spread := 2
    pages := (((tableMembers q s).filter fun m => m != s.self).map (tablePages q)).foldl (· + ·) 0 }

/-- Why TABLE_DEFINE is refused when it takes hold (R46, R247, R249). -/
def tableRefused (q : Pkt) (s : State) : Option Final :=
  let t := tableOf q
  let members := tableMembers q s
  (if t.place ≠ 0 ∧ (2048 < t.first + t.count ∨ members.any (fun m => !s.joined m) = true) then some (badParam 2 16) else none)
  <|> roomFor q.access (1 + (tableHere q s).length) ((tableHere q s).filterMap id ++ [tableWhole q s]) s
  <|> (if members.any fun m => m != s.self && !Config.remoteTakes (s.free + 1) m (tablePages q m) then some (badQuota 3 true) else none)

/-- The table made, and the module with it (R247–R250, R260). -/
def makeTable (q : Pkt) (s : State) : Table × State :=
  let n := takeNumber s
  let whole := { tableWhole q s with num := n.1, parent := n.1 }
  let r := createRegions ((tableHere q s).map fun o => o.map fun o => { o with parent := n.1 }) (chargeObj whole { n.2 with objs := n.2.objs ++ [whole] })
  let rows := tableRowsHere q s
  let t := { tableOf q with
    num := n.1, heap := r.1.getD 0 0, dir := r.1.getD 1 0, rowsHere := rows
    freeRuns := if (tableMembers q s).contains s.self && (tableOf q).spare != 0 then [(rows, (tableOf q).spare)] else [] }
  (t, { r.2 with tables := r.2.tables ++ [t] })

/-- TABLE_DEFINE: the table is made, and a job fills its rows (R247, R251). -/
def holdTableDefine (c : Cmd) (s : State) : State :=
  let s' := { s with free := s.free + 2 }
  match tableRefused c.q s with
  | some f => finish c f s'
  | none => (startJob c (.fillTable (makeTable c.q s').1.num) [] (makeTable c.q s').2).1

/-- Pages of the table here, heap first, that its fill job writes. -/
def Table.pagesHere (t : Table) : Nat × Nat :=
  if t.heap = 0 then (0, 0) else (ceilDiv ((t.rowsHere + t.spare) * t.stride) pageBytes, ceilDiv (8 * t.rowsHere) pageBytes)

/-- Fill one page: the zero rows whose slots begin in a heap page, or the entries of a directory page, row j in slot j (R247, R251). The
INDEX of a spare slot's record is open (DESIGN CHOICE, log entry 4). -/
def fillPage (t : Table) (self p : Nat) (s : State) : State :=
  let h := t.pagesHere.1
  if p < h then
    let lo := ceilDiv (p * pageBytes) t.stride
    let hi := min (ceilDiv ((p + 1) * pageBytes) t.stride) (t.rowsHere + t.spare)
    if t.format = .uint4z then
      (List.range (hi - lo)).foldl (fun s i =>
        let k := lo + i
        let row := if k < t.rowsHere then (if t.place = 2 then k * t.count + (self - t.first) else k) else Config.freeNat s.free
        ({ s with free := s.free + 1 }).writeObj t.heap (k * t.stride) (zeroRow t.format row t.elems)) s
    else s.writeObj t.heap (lo * t.stride) (zeros ((hi - lo) * t.stride))
  else
    let lo := (p - h) * (pageBytes / 8)
    let hi := min (lo + pageBytes / 8) t.rowsHere
    s.writeObj t.dir (8 * lo) ((List.range (hi - lo)).flatMap fun i => dirBytes ((lo + i) * t.stride / 8) 0)

/-- One slice of a fill job over `n` pages; after its last page the table is usable from the next boundary, and TABLE_DEFINE replies (R247). -/
def fillSlice (j : Job) (num n : Nat) (s : State) : State :=
  match s.tables.find? fun t => t.num == num with
  | none => { s with jobs := s.jobs.filter fun k => k.id != j.id }
  | some t =>
    let all := t.pagesHere.1 + t.pagesHere.2
    let k := min n (all - j.cursor)
    let s := (List.range k).foldl (fun s i => fillPage t s.self (j.cursor + i) s) s
    if j.cursor + k < all then s.setJob j.id fun x => { x with cursor := j.cursor + k, progressed := decide (0 < k) }
    else
      let s := { s with jobs := s.jobs.filter fun x => x.id != j.id
                        tables := modifyIf s.tables (fun t => t.num == num) fun t => { t with usableFrom := some (s.tick + 1) } }
      match j.cmd.bind s.cmd with
      | some c => finish c (okDone num) s
      | none => s

end Sys2Proof.Machine
end

