-- ==== Sys2Proof/Machine/Gather.lean ====
section
/-! DEFINITION. GATHER: its index stream, the windows and their dealing to engines, row reads, pooling, outputs and trailer
(R253–R257). -/

namespace Sys2Proof.Machine

/-! ## The packet and its stream (R253, R254) -/

/-- The fields of a GATHER. -/
structure GatherPkt where
  bags : Nat
  indices : Nat
  pool : Nat
  bf16 : Bool
  fromObj : Bool
  src : Nat
  srcOff : Nat
  dst : Nat
  dstOff : Nat

def gatherPkt (ps : Bytes) : GatherPkt :=
  let m := fld ps 8 1
  ⟨fld ps 0 4, fld ps 4 4, m % 4, bit m 2, bit m 3, fld ps 16 4, fld ps 24 8, fld ps 32 4, fld ps 40 8⟩

/-- Offsets of the INDEX and WEIGHT arrays within the stream, and its length (R254). -/
def GatherPkt.indexAt (g : GatherPkt) : Nat := if g.pool = 0 then 0 else roundUp (4 * (g.bags + 1)) 8
def GatherPkt.weightAt (g : GatherPkt) : Nat := g.indexAt + 8 * g.indices
def GatherPkt.streamLen (g : GatherPkt) : Nat := g.weightAt + if g.pool = 2 then 4 * g.indices else 0
/-- Output bytes of a bag, and of all with the trailer (R253). -/
def GatherPkt.bagBytes (g : GatherPkt) (e : Nat) : Nat := e * if g.bf16 then 2 else 4
def GatherPkt.outBytes (g : GatherPkt) (e : Nat) : Nat := g.bags * g.bagBytes e + 64

/-- A field of the stream. -/
def gatherField (q : Pkt) (g : GatherPkt) (s : State) (off n : Nat) : Nat :=
  if g.fromObj then fld (s.readObj g.src (g.srcOff + off) n) 0 n else fld q.params (48 + off) n

/-- Decode checks of GATHER on a table (R253, R254). -/
def checkGather (q : Pkt) (ch : Channel) (t : Table) (s : State) : Option Final :=
  let ps := q.params
  let g := gatherPkt ps
  let size := fun n => ((s.ownObj q.access n).map fun o => o.pages * pageBytes).getD 0
  let f := gatherField q g s
  let bound := fun b => f (4 * b) 4
  firstBad
    [(g.bags == 0 || decide (1048576 < g.bags), badParam 0 0),
     (g.indices == 0 || decide (16777216 < g.indices), badParam 0 4), (g.pool == 0 && g.indices != g.bags, badParam 2 4),
     (ps.length != 48 + (if g.fromObj then 0 else roundUp g.streamLen 16), badLen),
     (!g.fromObj && g.src != 0, badParam 2 16), (g.srcOff % 16 != 0, badParam 0 24),
     (g.fromObj && (s.ownObj q.access g.src).isNone, badParam 3 16),
     (g.fromObj && decide (size g.src < g.srcOff + g.streamLen), badParam 2 24),
     (g.dstOff % 64 != 0, badParam 0 40),
     (g.dst != 0xFFFFFFFF && (s.ownObj q.access g.dst).isNone, badParam 3 32),
     (decide ((if g.dst = 0xFFFFFFFF then ch.sinkBytes else size g.dst) < g.dstOff + g.outBytes t.elems), badParam 2 40)]
  <|> (if g.fromObj then none else firstBad
    [(g.pool != 0 && (bound 0 != 0), badParam 2 48), (g.pool != 0 && (bound g.bags != g.indices), badParam 2 (48 + 4 * g.bags)),
     (g.pool != 0 && (List.range g.bags).any fun b => decide (bound b + 65536 < bound (b + 1)), badParam 0 48),
     ((List.range g.indices).any fun i => decide (t.rows ≤ f (g.indexAt + 8 * i) 5), badParam 0 (48 + g.indexAt))])

/-! ## Windows and their charge (R255) -/

abbrev windowSize : Nat := 4096

/-- Weight of an index in the charge: 1 here, 6 elsewhere; every index of an object stream into a table sharded over several members counts 6. -/
def indexCost (t : Table) (self : Nat) (fromObj : Bool) (row : Nat) : Nat :=
  if fromObj && t.place == 2 && decide (1 < t.count) then 6 else if t.holds self row then 1 else 6

/-- Charge of each window, in bytes of whole granules (R21, R255). -/
def gatherCosts (q : Pkt) (t : Table) (s : State) : List Nat :=
  let g := gatherPkt q.params
  (List.range (ceilDiv g.indices windowSize)).map fun w =>
    let n := min windowSize (g.indices - w * windowSize)
    t.rowCost * ((List.range n).map fun i =>
      indexCost t s.self g.fromObj (if g.fromObj then 0 else gatherField q g s (g.indexAt + 8 * (w * windowSize + i)) 5)).foldl (· + ·) 0

/-- Deal charges in order, each to the engine with the most free row capacity, ties to the lower number; none when one does not fit its
engine. Engines whose mover serves a kernel phase in the tick take none (R255, R267). Over an empty tick when `empty`. -/
def dealRows (s : State) (t : Nat) (empty : Bool) : (costs : List Nat) → (acc : List (Res × Nat)) → Option (List Nat)
  | [], _ => some []
  | c :: cs, acc =>
    let used := fun e => (if empty then 0 else s.chargedAt t (.rows e)) + sumRes (.rows e) acc
    let es := s.gatherEngines.filter fun e => empty || s.moverFree t (.rows e)
    match argmaxBy (fun e => s.capacity (.rows e) + 1 - min (used e) (s.capacity (.rows e))) es with
    | none => none
    | some e =>
      if used e + c ≤ s.capacity (.rows e) then (dealRows s t empty cs (acc ++ [(.rows e, c)])).map fun l => e :: l else none

/-- The charge list of a dealing. -/
def dealt (engines costs : List Nat) : List (Res × Nat) := (engines.zip costs).map fun p => (.rows p.1, p.2)

/-! ## Reading the stream (R254–R256) -/

/-- Bounds of bag `b`, and whether it is clamped or emptied (R254). -/
def bagBounds (f : Nat → Nat → Nat) (b : Nat) : Nat × Nat × Bool :=
  let lo := f (4 * b) 4
  let hi := f (4 * (b + 1)) 4
  if hi < lo then (lo, lo, true) else if lo + 65536 < hi then (lo, lo + 65536, true) else (lo, hi, false)

/-- The weight of an index: 1 unless POOL is 2; a NaN or infinity acts as 0 (R256). -/
def indexWeight (g : GatherPkt) (f : Nat → Nat → Nat) (i : Nat) : Word × ConvCount :=
  if g.pool != 2 then (f32One, {})
  else
    let w := BitVec.ofNat 32 (f (g.weightAt + 4 * i) 4)
    if fmtF32.isNaN w.toNat then (0, { nanIn := 1 }) else if fmtF32.isInf w.toNat then (0, { infIn := 1 }) else (w, {})

/-- The reads of one window: one per distinct row, with the summed weights of its occurrences in each bag, in stream order (R255, R256). -/
def windowReads (t : Table) (self : Nat) (g : GatherPkt) (f : Nat → Nat → Nat) (bags : List (Nat × Nat × Nat)) (w : Nat) : List GRead :=
  let n := min windowSize (g.indices - w * windowSize)
  let occ := ((List.range n).map fun i => (w * windowSize + i, f (g.indexAt + 8 * (w * windowSize + i)) 5)).filter fun p => decide (p.2 < t.rows)
  let bagsOf := fun i => if g.pool = 0 then [i] else (bags.filter fun b => decide (b.2.1 ≤ i) && decide (i < b.2.2)).map fun b => b.1
  (dedupBy (fun p => p.2) occ).map fun p =>
    let mine := occ.filter fun o => o.2 == p.2
    let inBag := fun b => mine.filter fun o => (bagsOf o.1).contains b
    { window := w, row := p.2, member := t.home self p.2, occurrences := mine.length
      terms := (dedupBy id (mine.flatMap fun o => bagsOf o.1)).map fun b =>
        ⟨b, f32Sum ((inBag b).map fun o => (indexWeight g f o.1).1), (inBag b).length⟩ }

/-! ## Completion (R256, R257) -/

/-- Value of one output element: bits are open where a contribution was no finite number (DESIGN CHOICE, log entry 64). -/
def bagValue (pool k : Nat) (a : BagAcc) (j : Nat) : Word :=
  let c := a.sums.getD j ⟨0, 0⟩
  if pool = 0 then c.s
  else if a.open_.contains j then BitVec.ofNat 32 (Config.freeNat (k + j))
  else if pool = 3 then f32Div c.val (f32Int a.rows) else c.val

/-- One bag's output bytes; an empty bag is zero. -/
def bagOut (g : Gather) (e k b : Nat) : Bytes :=
  match g.acc.find? fun a => a.bag == b with
  | none => zeros (e * if g.bf16 then 2 else 4)
  | some a => (List.range e).flatMap fun j =>
      let v := bagValue g.pool (k + b * e) a j
      if g.bf16 then leBytes 2 (f32ToBF16 v) else leBytes 4 v.toNat

def sumOver {α : Type} (f : α → Nat) (l : List α) : Nat := (l.map f).foldl (· + ·) 0

/-- The batch's final status (R61, R257). -/
def Gather.outcome (g : Gather) (c : Cmd) : Nat × Nat :=
  match c.faultTier with
  | some t => (status 5 1, t)
  | none => if g.reads.any fun r => r.state == .dropped then (status 1 4, 8) else (status 0 0, 0)

/-- Gather trailer (R257). -/
def gatherTrailer (g : Gather) (c : Cmd) : Bytes :=
  let o := g.outcome c
  let dropped := g.reads.filter fun r => r.state == .dropped
  let got := g.reads.filter fun r => r.state == .arrived
  leBytes 4 g.bags ++ leBytes 2 o.1 ++ leBytes 2 o.2 ++ leBytes 4 g.indices ++ leBytes 4 (g.reads.filter GRead.made).length
    ++ leBytes 4 (sumOver (fun r => r.occurrences - 1) got) ++ leBytes 4 (sumOver GRead.occurrences dropped) ++ leBytes 4 g.ranges
    ++ leBytes 4 g.clamps ++ leBytes 4 g.adds
    ++ leBytes 2 (dropped.foldl (fun a r => min a r.member) 0xFFFF) ++ zeros 2 ++ leBytes 6 c.admitTick ++ leBytes 1 c.deadline ++ zeros 17

def State.gather (s : State) (id : Nat) : Option Gather := s.gathers.find? fun g => g.cmd == id
def State.setGather (id : Nat) (f : Gather → Gather) (s : State) : State := { s with gathers := modifyIf s.gathers (fun g => g.cmd == id) f }
def State.table (s : State) (n : Nat) : Option Table := s.tables.find? fun t => t.num == n

/-- Write outputs and trailer to the sink or the object, and reply (R256, R257, R59). -/
def gatherDone (c : Cmd) (g : Gather) (t : Table) (s : State) : State :=
  let p := gatherPkt c.q.params
  let out := (List.range g.bags).flatMap fun b => bagOut g t.elems s.free b
  let s := { s with free := s.free + g.bags * t.elems, gathers := s.gathers.filter fun h => h.cmd != c.id }
  let bs := out ++ gatherTrailer g c
  let o := g.outcome c
  if p.dst = 0xFFFFFFFF then
    finish c { status := o.1, detail := o.2, count := g.bags, data := [⟨c.work.getD 1 0 + p.dstOff, out⟩, ⟨c.work.getD 1 0 + p.dstOff + out.length, gatherTrailer g c⟩] } s
  else finish c { status := o.1, detail := o.2, count := g.bags } (writeFor c 1 p.dst p.dstOff bs s)

/-- Add one read's terms to their bags (R256). -/
def addRead (pool : Nat) (acc : List BagAcc) (r : GRead) : List BagAcc :=
  r.terms.foldl (fun acc tm =>
    let a := (acc.find? fun a => a.bag == tm.bag).getD { bag := tm.bag, sums := r.vals.map fun _ => ⟨0, 0⟩ }
    let a := if pool = 0 then { a with sums := r.vals.map fun v => ⟨v, 0⟩, rows := 1 }
      else { a with
        sums := (a.sums.zip r.vals).map fun p => p.1.add (f32Mul tm.weight p.2)
        rows := a.rows + tm.occurrences
        open_ := a.open_ ++ ((List.range r.vals.length).filter fun j => !fmtF32.isFinite (r.vals.getD j 0).toNat && !a.open_.contains j) }
    (acc.filter fun b => b.bag != tm.bag) ++ [a]) acc

/-- Merge every window whose reads are all in, in an order within the window that is not fixed (DESIGN CHOICE, log entry 5), and finish the batch when
its last window is. -/
def gatherMerge (id : Nat) (s : State) : State :=
  match s.gather id, s.cmd id with
  | some g, some c =>
    match s.table g.table with
    | none => s
    | some t =>
      let ended := fun (r : GRead) => r.state == .arrived || r.state == .dropped
      let n := ceilDiv g.indices windowSize
      let ready := (List.range n).filter fun w => !g.merged.contains w && g.reads.all fun r => r.window != w || ended r
      let g := ready.foldl (fun (g : Gather) w =>
        let rs := g.reads.filter fun r => r.window == w && r.state == .arrived
        { g with merged := g.merged ++ [w], acc := (permuteBy (s.free + w) rs.length 0 rs).foldl (addRead g.pool) g.acc
                 adds := if g.pool = 0 then 0 else g.adds + sumOver (fun r => r.terms.length) rs }) g
      let co := sumOver (fun w => sumOver (fun r => r.occurrences - 1) (g.reads.filter fun r => r.window == w && r.state == .arrived)) ready
      let s := countChan (handleSlot c.q.handle) 18 co ({ s with free := s.free + n }.setGather id fun _ => g)
      if g.merged.length = n then gatherDone c g t s else s
  | _, _ => s

/-! ## Events (R256, R257) -/

def setRead (id i : Nat) (f : GRead → GRead) (s : State) : State := s.setGather id fun g => { g with reads := modifyAt g.reads i f }

/-- Drop a row (R257): ROWS_MISSING advances. -/
def dropRow (c : Cmd) (i : Nat) (s : State) : State :=
  countChan (handleSlot c.q.handle) 19 1 (setRead c.id i (fun r => { r with state := .dropped, tags := [] }) s)

/-- Issue a read: the directory entry of a row here is read now; another member's is asked for over the fabric (R249, R251). Under DEGRADE
the rows of a member that cannot be reached are dropped (R257). -/
def issueRead (c : Cmd) (t : Table) (s : State) (i : Nat) : State :=
  match (s.gather c.id).bind fun g => g.reads[i]? with
  | none => s
  | some r =>
    if r.member = s.self then
      let j := t.localRow r.row
      setRead c.id i (fun x => { x with state := .row, loc := (s.dirEntry t j).1, made := !s.poisoned t.dir (8 * j) 8 }) s
    else if !s.canReach r.member then (if c.work.getD 0 0 = 1 then dropRow c i s else s)
    else
      let a := askMany r.member s.self c.id c.admitTick c.deadline 1 1 s
      setRead c.id i (fun x => { x with tags := a.1 }) a.2

/-- The gather stage begins in its tick (R255): the stream is read and every window's reads are issued. -/
def startGather (c : Cmd) (s : State) : State :=
  match s.handleChan c.q.handle with
  | none => s
  | some ch => match s.table (c.work.getD 2 0) with
    | none => s
    | some t =>
      let p := gatherPkt c.q.params
      if p.fromObj && s.poisoned p.src p.srcOff p.streamLen then
        finish c { status := status 5 1, detail := (((s.obj p.src).map Obj.tier).getD 1) % 4 } s
      else
        let f := gatherField c.q p s
        let bb := if p.pool = 0 then [] else (List.range p.bags).map fun b => (b, bagBounds f b)
        let bags := bb.map fun b => (b.1, b.2.1, b.2.2.1)
        let reads := (List.range (ceilDiv p.indices windowSize)).flatMap (windowReads t s.self p f bags)
        let ranges := ((List.range p.indices).filter fun i => decide (t.rows ≤ f (p.indexAt + 8 * i) 5)).length
        let clamps := (bb.filter fun b => b.2.2.2).length
        let g : Gather := { cmd := c.id, table := t.num, pool := p.pool, bf16 := p.bf16, bags := p.bags, indices := p.indices
                            engines := c.work.drop 3, reads := reads, ranges := ranges, clamps := clamps }
        let s := { s with gathers := s.gathers ++ [g] }
        let s := countChan ch.slot 16 ranges (countChan ch.slot 17 clamps s)
        let s := if p.pool = 2 then countConv ch.slot (sumCounts ((List.range p.indices).map fun i => (indexWeight p f i).2)) s else s
        gatherMerge c.id ((List.range reads.length).foldl (issueRead c t) s)

/-- The rows a read uses are charged as used in its tick (R25). -/
def useRow (c : Cmd) (g : Gather) (r : GRead) (t : Table) (s : State) : State :=
  let u := (Res.rows (g.engines.getD r.window 0), t.rowCost * (if r.member = s.self then 1 else 6))
  s.setCmd c.id fun d => { d with stages := modifyIf d.stages (fun x => x.kind == .gather) fun x => { x with used := x.used ++ [u], usedNow := x.usedNow ++ [u] } }

/-- A row arrives: its values are de-quantised; an uncorrectable entry or row is dropped and faults the batch (R256, R257). -/
def rowArrived (c : Cmd) (g : Gather) (t : Table) (i : Nat) (r : GRead) (bs : Bytes) (bad : Bool) (s : State) : State :=
  let s := useRow c g r t (dropReads r.tags s)
  if bad then
    let s := s.setCmd c.id fun d => { d with faultTier := some (d.faultTier.getD (if r.member = s.self then 1 else 2)) }
    gatherMerge c.id (dropRow c i s)
  else
    let v := decodeRow t.format t.elems bs
    gatherMerge c.id (countConv (handleSlot c.q.handle) v.2 (setRead c.id i (fun x => { x with state := .arrived, vals := v.1, tags := [] }) s))

/-- GATHER_ROW_RETURN: row read `i` of a batch returns. A row here is read by the entry read at issue or by the one in force now, which is
open (R264, DESIGN CHOICE, log entry 5); a row elsewhere returns once its fabric reads are answered. -/
def gatherReturned (id i : Nat) (err : Bool) (s : State) : State :=
  match s.gather id, s.cmd id with
  | some g, some c => match g.reads[i]?, s.table g.table with
    | some r, some t =>
      if r.state != .row then s
      else if r.member = s.self then
        let j := t.localRow r.row
        let loc := if Config.freeBool s.free then r.loc else (s.dirEntry t j).1
        let badEntry := s.poisoned t.dir (8 * j) 8
        let bad := err || badEntry || s.poisoned t.heap (8 * loc) t.rowBytes
        let s := { s with free := s.free + 1 }
        rowArrived c g t i r (s.readObj t.heap (8 * loc) t.rowBytes) bad
          (if badEntry then uncorrectable t.dir (8 * j) 8 s else if bad then uncorrectable t.heap (8 * loc) t.rowBytes s else s)
      else if s.answered r.tags then rowArrived c g t i r (slice (s.answers r.tags) (8 * r.loc % 256) t.rowBytes) (err || s.answeredBad r.tags) s
      else s
    | _, _ => s
  | _, _ => s

/-- Fabric answers move the gathers on: an entry read elsewhere names the slot, and the row is asked for (R251), after the cut-off in the next tick's
work window (R18). -/
def gatherAnswered (s : State) : State :=
  s.gathers.foldl (fun s g => match s.cmd g.cmd, s.table g.table with
    | some c, some t => (List.range g.reads.length).foldl (fun s i => match g.reads[i]? with
      | some r =>
        if r.state == .entry && !r.tags.isEmpty && s.answered r.tags then
          if s.answeredBad r.tags then rowArrived c g t i r [] true s
          else if s.frame.tail then s else
          let loc := fld (s.answers r.tags) (8 * t.localRow r.row % 256) 5
          let s := dropReads r.tags s
          let n := ceilDiv (8 * loc % 256 + t.rowBytes) 256
          let a := askMany r.member s.self c.id c.admitTick c.deadline n n s
          setRead g.cmd i (fun x => { x with state := .row, loc := loc, made := true, tags := a.1 }) a.2
        else s
      | none => s) s
    | _, _ => s) s

/-- GATHER_ROW_LATE: a read outstanding for 8 µs (R257). Under DEGRADE the row is dropped; under STALL the engine waits, and the stall
counter advances where the batch is STRICT. -/
def gatherLate (id i : Nat) (s : State) : State :=
  match s.gather id, s.cmd id with
  | some g, some c => match g.reads[i]? with
    | some r =>
      if r.state == .arrived || r.state == .dropped then s
      else
        let s := s.setGather id fun x => { x with late := some (x.late.getD (0x200 + g.engines.getD r.window 0)) }
        if c.work.getD 0 0 = 1 then gatherMerge id (dropRow c i (dropReads r.tags s))
        else if c.strict then s.setChan (handleSlot c.q.handle) fun h => { h with stalls := h.stalls + 1 } else s
    | none => s
  | _, _ => s

/-- DETAIL of DEADLINE_MISS: the stream named late, if one was (R61). -/
def missDetail (late : Option Nat) : Nat := match late with
  | some n => 0x8000 + n % 0x8000
  | none => 0

/-- Drop a batch's working state. -/
def dropGather (id : Nat) (s : State) : State :=
  let tags := ((s.gather id).map fun g => g.reads.flatMap GRead.tags).getD []
  dropReads tags { s with gathers := s.gathers.filter fun g => g.cmd != id }

/-- An unfinished STRICT batch at the cut-off ends (R24, R257); an uncorrectable error seen before outranks the miss (R61). -/
def gatherCutOff (s : State) (id : Nat) : State :=
  match s.gather id, s.cmd id with
  | some g, some c =>
    if !c.strict then s
    else
      let f : Final := match c.faultTier with
        | some t => { status := status 5 1, detail := t }
        | none => { status := status 4 3, detail := missDetail g.late }
      finish c f (dropGather id s)
  | _, _ => s

end Sys2Proof.Machine
end

