-- ==== Sys2Proof/Machine/KernelImage.lean ====
section
/-! DEFINITION. The kernel image: header, tables, ring and output descriptors, bundles and their slots, and the checks of KERNEL_LOAD
(R207–R222, R237, R239, R271–R273). -/

namespace Sys2Proof.Machine

/-! ## Header and tables (R210) -/

/-- The image header. -/
structure KHead where
  magic : Nat
  format : Nat
  bundles : Nat
  phases : Nat
  clusters : Nat
  args : Nat
  bindings : Nat
  lists : Nat
  code : Nat
  phaseAt : Nat
  argAt : Nat
  bindAt : Nat
  listAt : Nat
  bytes : Nat

def kHead (im : Bytes) : KHead :=
  let f := fld im
  ⟨f 0 4, f 4 2, f 6 2, f 8 1, f 9 1, f 10 1, f 11 1, f 12 1, f 16 4, f 20 4, f 24 4, f 28 4, f 32 4, f 44 4⟩

/-- Mask of split group `g` (R232). -/
def splitMask (im : Bytes) (g : Nat) : Nat := fld im (36 + g) 1
/-- Members of a split group, and its home: the lowest logical cluster (R199, R232). -/
def splitMembers (im : Bytes) (g : Nat) : List Nat := (List.range 8).filter fun i => bit (splitMask im g) i
def splitHome (im : Bytes) (g : Nat) : Nat := (splitMembers im g).headD 0

/-- A phase entry. -/
structure KPhase where
  entry : Nat
  rerun : Nat
  rings : Nat
  odescs : Nat
  ringAt : Nat
  odescAt : Nat

def kPhase (im : Bytes) (p : Nat) : KPhase :=
  let f := fun o n => fld im ((kHead im).phaseAt + 32 * p + o) n
  ⟨f 0 2, f 2 2, f 4 1, f 5 1, f 8 4, f 12 4⟩

/-- First and last bundle of a phase (R216). -/
def phaseSpan (im : Bytes) (p : Nat) : Nat × Nat :=
  let h := kHead im
  ((kPhase im p).entry, (if p + 1 < h.phases then (kPhase im (p + 1)).entry else h.bundles) - 1)

/-- MAX of argument `i`. -/
def kArgMax (im : Bytes) (i : Nat) : Nat := fld im ((kHead im).argAt + 4 * i) 4
/-- Binding entry `i`: access bits and tier. -/
def kBind (im : Bytes) (i : Nat) : Nat × Nat := (fld im ((kHead im).bindAt + 4 * i) 1, fld im ((kHead im).bindAt + 4 * i + 1) 1)
/-- Outlier list `i`: its channels (R176). -/
def kList (im : Bytes) (i : Nat) : List Nat :=
  ((List.range 16).map fun j => fld im ((kHead im).listAt + 32 * i + 2 * j) 2).filter fun c => c != 0xFFFF

/-- A ring descriptor (R271). -/
structure RingDesc where
  output : Bool
  kind : Nat
  elem : Nat
  hint : Nat
  mover : Nat
  slots : Nat
  ahead : Nat
  slotBytes : Nat
  index : Nat
  pair : Nat
  runBytes : Nat
  runs : Nat
  stride : Int
  length : Nat

def ringDesc (im : Bytes) (ph : KPhase) (r : Nat) : RingDesc :=
  let f := fun o n => fld im (ph.ringAt + 64 * r + o) n
  let m := f 0 1
  let sb := f 4 2 * 1024
  ⟨bit m 0, bits m 2 1, bits m 4 3, bits m 6 5, f 1 1 % 4, f 2 1, f 3 1, sb, f 6 1 % 16, f 7 1 % 16, f 8 4, f 12 4, sN 48 (f 16 6),
   if f 24 2 = 0 then ceilDiv (f 12 4 * f 8 4) (max sb 1) else f 24 2⟩

/-- Descriptor of a ring of a phase. -/
def phaseRing (im : Bytes) (p r : Nat) : RingDesc := ringDesc im (kPhase im p) r

/-- An output descriptor (R210). -/
structure ODesc where
  fmt : Nat
  static : Bool
  dest : Nat
  dataRing : Nat
  scaleRing : Nat
  atomicReg : Nat
  auto : Nat
  list : Nat
  listReg : Nat
  rows : Nat
  columns : Nat

def oDesc (im : Bytes) (p i : Nat) : ODesc :=
  let f := fun o n => fld im ((kPhase im p).odescAt + 16 * i + o) n
  ⟨f 0 1 % 16, bit (f 0 1) 4, bits (f 0 1) 6 5, f 1 1 % 16, f 1 1 / 16, f 2 1 % 32, f 3 1 % 32, f 4 1 % 16, f 5 1 % 32, f 8 4, f 12 4⟩

/-! ## Bundles (R214 to R220) -/

/-- Slot numbers as the load report names them (R227). -/
def opSlot : KOp → Nat
  | .ctrl _ _ => 1
  | .move _ m => 2 + m.side
  | .array _ _ => 4
  | .epi _ _ => 5
  | .sel _ _ => 6
  | .addr _ _ => 7
/-- GUARD of an operation (R214). -/
def opGuard : KOp → Nat
  | .ctrl _ o => o.guard
  | .move _ o => o.guard
  | .array _ o => o.guard
  | .epi _ o => o.guard
  | .sel _ o => o.guard
  | .addr _ o => o.guard
/-- Operation code. -/
def opCode : KOp → Nat
  | .ctrl k _ => k
  | .move k _ => k
  | .array k _ => k
  | .epi k _ => k
  | .sel k _ => k
  | .addr k _ => k

/-- The bundle's bits (R214). -/
def bundleBits (im : Bytes) (b : Nat) : Nat := leVal (slice im ((kHead im).code + 64 * b) 64)

def ctrlOf (w : Nat) : KOp := .ctrl (bits w 9 4) ⟨bits w 3 0, bits w 13 10, bits w 17 14, bits w 31 18, bits w 47 32⟩
def moveOf (side w : Nat) : KOp := .move (bits w 7 4) ⟨side, bits w 3 0, bits w 11 8, bits w 16 12, bits w 20 17, bit w 21, bits w 37 22⟩
def arrayOf (w : Nat) : KOp :=
  .array (bits w 7 4)
    { guard := bits w 3 0, fmtA := bits w 11 8, fmtB := bits w 15 12, group := bits w 17 16, tile := bits w 24 18
      ringA := bits w 28 25, ringB := bits w 32 29, steps := bits w 48 33, xsteps := bits w 52 49, xsEn := bit w 53
      accExp := bits w 63 54, accAuto := bit w 64, outlier := bit w 65, ringSA := bits w 69 66, ringSB := bits w 73 70
      ringOA := bits w 77 74, ringOB := bits w 81 78, relA := bit w 82, relB := bit w 83, split := bit w 84
      splitId := bits w 87 85, list := bits w 91 88 }
def epiOf (w imm : Nat) : KOp :=
  .epi (bits w 7 4)
    { guard := bits w 3 0, tile := bits w 14 8, odesc := bits w 18 15, xrow := bits w 22 19, xcol := bits w 26 23
      alphaMode := bits w 28 27, alphaRing := bits w 32 29, biasMode := bits w 34 33, biasRing := bits w 38 35
      rowoffMode := bits w 40 39, rowoffRing := bits w 44 41, act := bits w 48 45, actP := bits w 64 49
      split := bit w 65, splitId := bits w 68 66, imm := imm }
def selOf (w : Nat) : KOp := .sel (bits w 7 4) ⟨bits w 3 0, bits w 19 8, bits w 23 20, bits w 27 24, bit w 28, bit w 29, bits w 32 30⟩
def addrOf (w imm : Nat) : KOp := .addr (bits w 9 4) ⟨bits w 3 0, bits w 14 10, bits w 19 15, bits w 24 20, bit w 25, bits w 29 26, imm⟩

/-- Every slot of a bundle, NOPs included, in slot order. -/
def bundleSlots (v : Nat) : List KOp :=
  let imm := bits v 511 468
  [ctrlOf (bits v 51 4), moveOf 0 (bits v 115 52), moveOf 1 (bits v 179 116), arrayOf (bits v 275 180), epiOf (bits v 355 276) imm,
   selOf (bits v 403 356), addrOf (bits v 467 404) imm]
/-- The operations of a bundle: a slot whose operation field is 0 is a NOP (R214). -/
def bundleOps (v : Nat) : List KOp := (bundleSlots v).filter fun o => opCode o != 0
/-- BARRIER (R215). -/
def bundleBarrier (v : Nat) : Bool := bit v 2

/-- Operations of bundle `b` of an image. -/
def opsAt (im : Bytes) (b : Nat) : List KOp := bundleOps (bundleBits im b)

/-! ## Loops (R216) -/

/-- The loops of a bundle range: (bundle of the LOOP, last bundle of its body, counter). -/
def loopsOf (im : Bytes) (lo hi : Nat) : List (Nat × Nat × Nat) :=
  ((List.range (hi + 1 - lo)).map (· + lo)).flatMap fun b => (opsAt im b).filterMap fun o => match o with
    | .ctrl k c => if k = 1 ∨ k = 2 then some (b, c.target, c.lreg) else none
    | _ => none
/-- The loops whose bodies hold a bundle, innermost first. -/
def enclosing (ls : List (Nat × Nat × Nat)) (b : Nat) : List (Nat × Nat × Nat) :=
  (ls.filter fun l => decide (l.1 < b) && decide (b ≤ l.2.1)).reverse

/-! ## Load errors (R221) -/

/-- A load error: reason, bundle, slot; a table error has bundle 0xFFFF and slot 0x0F (R227). -/
structure LoadErr where
  reason : Nat
  bundle : Nat := 0xFFFF
  slot : Nat := 0x0F
  deriving DecidableEq, Repr

/-- The first error of a list of tests. -/
def firstErr : List (Bool × LoadErr) → Option LoadErr
  | [] => none
  | (bad, e) :: rest => if bad then some e else firstErr rest

/-- A table lies within the image, aligned (R210). -/
def tableBad (h : KHead) (at_ n align : Nat) : List (Bool × LoadErr) :=
  [(n != 0 && at_ % align != 0, ⟨0, 0xFFFF, 15⟩), (n != 0 && decide (h.bytes < at_ + n), ⟨2, 0xFFFF, 15⟩)]

/-- Checks of a ring descriptor (R271, R273). -/
def ringErrs (im : Bytes) (ph : KPhase) (r : Nat) : List (Bool × LoadErr) :=
  let d := ringDesc im ph r
  let f := fun o n => fld im (ph.ringAt + 64 * r + o) n
  let idx := ringDesc im ph d.index
  let t := fun (n : Nat) => (⟨n, 0xFFFF, 15⟩ : LoadErr)
  [(decide (2 ≤ d.kind) || d.elem == 3, t 0), (decide (d.slots < 3) || decide (16 < d.slots), t 0),
   (decide (min 8 d.slots < d.ahead), t 0), (decide (d.slotBytes < 4096) || decide (262144 < d.slotBytes), t 0),
   (decide (d.runBytes < 16) || decide (16777216 < d.runBytes) || d.runBytes % 16 != 0, t 0), (d.runs == 0, t 0),
   (bit (f 0 1) 7 || decide (4 ≤ f 1 1) || decide (16 ≤ f 6 1) || decide (16 ≤ f 7 1) || f 22 2 != 0 || !zeroAt im (ph.ringAt + 64 * r + 26) 38, t 1),
   (d.kind == 1 && (d.index == r || decide (ph.rings ≤ d.index) || idx.kind == 1), t 2),
   (d.kind == 1 && decide (d.index < ph.rings) && (idx.elem != 0 || idx.runBytes % 8 != 0 || idx.output), t 2),
   (d.pair != 15 && (decide (ph.rings ≤ d.pair) || (ringDesc im ph d.pair).output), t 2),
   (d.output && d.ahead != 0, t 2), (!d.output && d.ahead == 0, t 2)]

/-- Checks of an output descriptor (R210, R219, R200, R163). -/
def odescErrs (im : Bytes) (p : Nat) (ph : KPhase) (i : Nat) : List (Bool × LoadErr) :=
  let d := oDesc im p i
  let f := fun o n => fld im (ph.odescAt + 16 * i + o) n
  let fm := (Fmt.ofCode d.fmt).getD .fp32
  let t := fun (n : Nat) => (⟨n, 0xFFFF, 15⟩ : LoadErr)
  [(decide (14 ≤ d.fmt), t 0), (decide (16 < d.auto), t 0),
   (bit (f 0 1) 7 || decide (32 ≤ f 2 1) || decide (32 ≤ f 3 1) || decide (16 ≤ f 4 1) || decide (32 ≤ f 5 1) || f 6 2 != 0, t 1),
   (d.static && !fm.narrow, t 2), (d.auto != 0 && d.list != 15, t 2), (d.list != 15 && decide ((kHead im).lists ≤ d.list), t 2),
   (d.dest == 1 && [3, 5, 6, 7, 11].contains d.fmt, t 2), ([8, 9, 10].contains d.fmt, t 2), (fm.blockScaled && d.columns % 32 != 0, t 2),
   ((d.dest == 0 || d.dest == 3) && (decide (ph.rings ≤ d.dataRing) || (fm.narrow && decide (ph.rings ≤ d.scaleRing))), t 2)]

/-- An outlier list word: ascending, distinct, unused entries at the end (R176, R177). -/
def listErrs (im : Bytes) (i : Nat) : List (Bool × LoadErr) :=
  let ws := (List.range 16).map fun j => fld im ((kHead im).listAt + 32 * i + 2 * j) 2
  let n := (ws.takeWhile fun c => c != 0xFFFF).length
  [((ws.drop n).any (fun c => c != 0xFFFF) || (List.range (n - 1)).any fun j => decide (ws.getD (j + 1) 0 ≤ ws.getD j 0), ⟨2, 0xFFFF, 15⟩)]

/-- Header and table checks (R210, R216, R221). -/
def tableErrs (im : Bytes) : List (Bool × LoadErr) :=
  let h := kHead im
  let t := fun (n : Nat) => (⟨n, 0xFFFF, 15⟩ : LoadErr)
  [(h.magic != 0x4B553453, t 0), (h.format != 1, t 0), (h.bundles == 0 || decide (16384 < h.bundles), t 0),
   (h.phases == 0 || decide (16 < h.phases), t 0), (h.clusters == 0 || decide (8 < h.clusters), t 0), (decide (14 < h.args), t 0),
   (decide (32 < h.bindings), t 0), (decide (15 < h.lists), t 0),
   (!zeroAt im 13 3 || !zeroAt im 48 16, t 1),
   ((List.range 8).any (fun g => decide (2 ^ h.clusters ≤ splitMask im g)), t 2)]
  ++ tableBad h h.code (64 * h.bundles) 64 ++ tableBad h h.phaseAt (32 * h.phases) 16 ++ tableBad h h.argAt (4 * h.args) 16
  ++ tableBad h h.bindAt (4 * h.bindings) 16 ++ tableBad h h.listAt (32 * h.lists) 16
  ++ (List.range h.bindings).flatMap (fun i =>
      let b := kBind im i
      [(decide (16 ≤ b.1) || decide (4 ≤ b.2) || fld im (h.bindAt + 4 * i + 2) 2 != 0, t 1), (bit b.1 3 && bit b.1 2, t 2)])
  ++ (List.range h.lists).flatMap (listErrs im)
  ++ (List.range h.phases).flatMap fun p =>
      let ph := kPhase im p
      [(decide (16 < ph.rings) || decide (16 < ph.odescs), t 0), (!zeroAt im (h.phaseAt + 32 * p + 6) 2 || !zeroAt im (h.phaseAt + 32 * p + 16) 16, t 1)]
      ++ tableBad h ph.ringAt (64 * ph.rings) 16 ++ tableBad h ph.odescAt (16 * ph.odescs) 16
      ++ (List.range ph.rings).flatMap (ringErrs im ph) ++ (List.range ph.odescs).flatMap (odescErrs im p ph)

/-! ## Slot checks (R214 to R220) -/

/-- Cells summed per output row by a GROUP code (R186). -/
def groupOf (g : Nat) : Nat := 4 * 2 ^ g
/-- Products per cell per cycle (R186, R188). -/
def productsPerCell (fa fb : Nat) : Nat := if fa = 5 ∧ fb = 5 then 8 else if fa = 4 ∧ fb = 4 then 2 else 1

/-- Batt mode and promotion cadence in steps of an operand pair (R188); none when the pair is in no row of the table. -/
def pairMode (fa fb g : Nat) : Option (Bool × Nat) :=
  let int4 := fun f => f == 0 || f == 11 || f == 1
  let fp4 := fun f => f == 2 || f == 3
  let block := fun f => f == 0 || f == 2 || f == 4 || f == 11
  if fa = 5 ∧ fb = 5 then some (false, 16)
  else if fp4 fa || fp4 fb then
    (if (fp4 fa || int4 fa) && (fp4 fb || int4 fb) then some (true, if block fa || block fb then 32 / g else 16) else none)
  else if fa = 4 ∧ fb = 4 then some (false, 16 / g)
  else if fa = 1 ∧ fb = 1 then some (false, 16)
  else if int4 fa && int4 fb then some (false, 32 / g)
  else if (fa = 4 ∧ int4 fb = true) ∨ (fb = 4 ∧ int4 fa = true) then some (false, 32 / g)
  else none

/-- Batt mode of an array operation: look-up mode is float (R188). -/
def arrayMode (k : Nat) (o : ArrayOp) : Option (Bool × Nat) :=
  if k = 3 then some (true, 1) else pairMode o.fmtA o.fmtB (groupOf o.group)

def ctrlErrs (im : Bytes) (lo hi b : Nat) (ls : List (Nat × Nat × Nat)) (k : Nat) (c : CtrlOp) : List (Bool × LoadErr) :=
  let e := fun (n : Nat) => (⟨n, b, 1⟩ : LoadErr)
  let inner := enclosing ls b
  let body := fun (t : Nat) => (enclosing ls t).head?
  [(decide (7 < k), e 0), (k == 5 && decide (32 ≤ c.count), e 1), ((k == 1 || k == 2) && c.count == 0, e 0),
   ((k == 1 || k == 2 || k == 6 || k == 7) && c.guard != 0, e 2),
   ((k == 1 || k == 2) && (decide (c.target ≤ b) || decide (hi < c.target) || decide (15 < inner.length)
      || inner.any (fun l => decide (l.2.1 < c.target) || l.2.2 == c.lreg)), e 2),
   (k == 3 && (decide (c.target ≤ b) || decide (hi < c.target) || body c.target != inner.head?), e 2),
   (k == 4 && inner.isEmpty, e 2), (k == 6 && (b != hi || hi + 1 == (kHead im).bundles), e 2),
   (k == 7 && hi + 1 != (kHead im).bundles, e 2), (k == 7 && b != hi, e 2),
   ((k == 6 || k == 7) && !inner.isEmpty, e 2), (decide (b < lo), e 2)]

def moveErrs (ph : KPhase) (b : Nat) (ops : List KOp) (k : Nat) (m : MoveOp) (w : Nat) : List (Bool × LoadErr) :=
  let e := fun (n : Nat) => (⟨n, b, 2 + m.side⟩ : LoadErr)
  let other := ops.any fun o => match o with
    | .move _ x => x.side != m.side && x.ring == m.ring
    | _ => false
  [(decide (3 < k), e 0), (bits w 63 38 != 0, e 1), (decide (ph.rings ≤ m.ring), e 2), (m.side == 1 && other, e 2)]

def arrayErrs (im : Bytes) (p : Nat) (ph : KPhase) (b k : Nat) (o : ArrayOp) (w : Nat) : List (Bool × LoadErr) :=
  let e := fun (n : Nat) => (⟨n, b, 4⟩ : LoadErr)
  let g := groupOf o.group
  let uses := k != 5
  let kk := o.steps * g * productsPerCell o.fmtA o.fmtB
  let input := fun r => decide (r < ph.rings) && !(ringDesc im ph r).output
  let operand := fun r => input r && (ringDesc im ph r).elem == 0
  let scaled := fun (f : Nat) => [0, 1, 2, 3, 4, 5, 11].contains f
  [(decide (5 < k), e 0), (bits w 95 92 != 0, e 1),
   (uses && (decide (14 ≤ o.fmtA) || decide (14 ≤ o.fmtB) || o.group == 3), e 0), (uses && o.steps == 0, e 0),
   ((k == 1 || k == 3 || k == 4) && (o.tile % (16 / g) != 0 || decide (96 < o.tile + 16 / g)), e 0),
   ((uses && !operand o.ringB) || (uses && k != 3 && !operand o.ringA), e 2),
   ((uses && k != 3 && (scaled o.fmtA || (o.outlier && k != 2)) && !input o.ringSA)
      || ((k == 1 || k == 4) && (scaled o.fmtB || o.outlier) && !input o.ringSB), e 2),
   ((k == 1 || k == 4) && o.outlier && !(input o.ringOA && input o.ringOB), e 2),
   (k == 1 && (pairMode o.fmtA o.fmtB g).isNone, e 2), (k == 4 && (o.fmtA != 5 || o.fmtB != 5), e 2),
   ((k == 2 || k == 3) && (decide (3 < o.fmtA) || (o.fmtB != 6 && o.fmtB != 7)), e 2),
   (o.outlier && decide ((kHead im).lists ≤ o.list), e 2),
   (o.outlier && (kList im o.list).any fun c => decide (kk ≤ c), e 2),
   (o.split && splitMask im o.splitId == 0, e 2), (decide ((kHead im).phases ≤ p), e 2)]

def epiErrs (im : Bytes) (p : Nat) (ph : KPhase) (b k : Nat) (o : EpiOp) (w : Nat) : List (Bool × LoadErr) :=
  let e := fun (n : Nat) => (⟨n, b, 5⟩ : LoadErr)
  let d := oDesc im p o.odesc
  let vec := fun m r => m == 2 || m == 3 → decide (r < ph.rings) && (ringDesc im ph r).elem == m - 1
  let fm := (Fmt.ofCode d.fmt).getD .fp32
  [(decide (3 < k), e 0), (bits w 79 69 != 0, e 1), (decide (95 < o.tile), e 0),
   (k == 1 && (decide (8 ≤ o.act) || o.biasMode == 1 || o.rowoffMode == 3), e 0),
   (k == 1 && decide (ph.odescs ≤ o.odesc), e 2),
   (k != 1 && (decide (ph.rings ≤ o.odesc) || (ringDesc im ph o.odesc).elem == 0), e 2),
   (k == 1 && !(vec o.alphaMode o.alphaRing && vec o.biasMode o.biasRing), e 2),
   (k == 1 && o.rowoffMode == 1 && !(decide (o.rowoffRing < ph.rings) && (ringDesc im ph o.rowoffRing).elem == 1), e 2),
   (o.split && splitMask im o.splitId == 0, e 2),
   (k == 1 && (fm == .uint4z || (fm == .bin && !d.static)) && decide (24576 < d.columns), e 2),
   (k == 1 && (d.auto != 0 || (fm == .fp4t && !d.static)) && decide (96 < ceilDiv d.rows 16 * ceilDiv d.columns 256), e 2)]

def selErrs (ph : KPhase) (im : Bytes) (b k : Nat) (o : SelOp) (w : Nat) : List (Bool × LoadErr) :=
  let e := fun (n : Nat) => (⟨n, b, 6⟩ : LoadErr)
  [(decide (6 < k), e 0), (bits w 47 33 != 0, e 1), (decide (ph.rings ≤ o.ringOut), e 2),
   (o.split && splitMask im o.splitId == 0, e 2)]

def addrErrs (b k : Nat) (o : AddrOp) (w : Nat) : List (Bool × LoadErr) :=
  let e := fun (n : Nat) => (⟨n, b, 7⟩ : LoadErr)
  let x := fun r => decide (16 ≤ r)
  let pr := fun r => decide (8 ≤ r)
  [(decide (13 < k), e 0), (bits w 63 30 != 0, e 1),
   (k == 1 && x o.s2, e 0),
   (decide (3 ≤ k) && decide (k ≤ 8) && (x o.s1 || (!o.immen && x o.s2)), e 0),
   ((decide (3 ≤ k) && decide (k ≤ 7) || k == 9 || k == 10) && x o.d, e 0), (k == 10 && x o.s1, e 0),
   (k == 8 && (pr o.d || o.d == 0 || decide (5 < o.aux)), e 0),
   (decide (11 ≤ k) && (pr o.d || o.d == 0 || pr o.s1 || (k != 13 && pr o.s2)), e 0)]

/-- Checks of one bundle (R214 to R220). Reserved bits of a slot are reserved bits of the bundle, a NOP's too (R221). -/
def bundleErrs (im : Bytes) (p lo hi : Nat) (ls : List (Nat × Nat × Nat)) (b : Nat) : List (Bool × LoadErr) :=
  let v := bundleBits im b
  let ph := kPhase im p
  let ops := bundleOps v
  (bits v 1 0 != 0, ⟨0, b, 0⟩) :: (bit v 3, ⟨1, b, 0⟩) :: (bundleSlots v).flatMap fun o => match o with
    | .ctrl k c => if k = 0 then [] else ctrlErrs im lo hi b ls k c
    | .move k m =>
      let w := if m.side = 0 then bits v 115 52 else bits v 179 116
      if k = 0 then [(bits w 63 38 != 0, ⟨1, b, opSlot o⟩)] else moveErrs ph b ops k m w
    | .array k a =>
      let w := bits v 275 180
      if k = 0 then [(bits w 95 92 != 0, ⟨1, b, opSlot o⟩)] else arrayErrs im p ph b k a w
    | .epi k a =>
      let w := bits v 355 276
      if k = 0 then [(bits w 79 69 != 0, ⟨1, b, opSlot o⟩)] else epiErrs im p ph b k a w
    | .sel k a =>
      let w := bits v 403 356
      if k = 0 then [(bits w 47 33 != 0, ⟨1, b, opSlot o⟩)] else selErrs ph im b k a w
    | .addr k a =>
      let w := bits v 467 404
      if k = 0 then [(bits w 63 30 != 0, ⟨1, b, opSlot o⟩)] else addrErrs b k a w

/-- A phase begins after the one before it and ends with its PHASE, the last one with END (R216). -/
def phaseErrs (im : Bytes) (p : Nat) : List (Bool × LoadErr) :=
  let h := kHead im
  let sp := phaseSpan im p
  let last := if p + 1 = h.phases then 7 else 6
  [(decide (sp.2 < sp.1) || decide (h.bundles ≤ sp.1), ⟨2, 0xFFFF, 15⟩),
   (!(opsAt im sp.2).any (fun o => match o with
      | .ctrl k _ => k == last
      | _ => false), ⟨2, sp.2, 1⟩)]

/-! ## Bindings on every path (R222) -/

/-- Binding of each address register. -/
abbrev BindMap := List (Option Nat)

/-- Effect of a bundle's ADDR slot on the bindings: AADD and AADDI carry their source's (R212). -/
def bindStep (ops : List KOp) (m : BindMap) : BindMap :=
  ops.foldl (fun m o => match o with
    | .addr k a => if k = 1 ∨ k = 2 then m.set a.d (m.getD a.s1 none) else m
    | _ => m) m
/-- Is a guarded change of a binding possible? -/
def bindSplit (ops : List KOp) (m : BindMap) : Bool :=
  ops.any fun o => match o with
    | .addr k a => (k == 1 || k == 2) && a.guard != 0 && m.getD a.d none != m.getD a.s1 none
    | _ => false
/-- Bundles that can follow the last bundle `t` of some code inside the loops `ls`: the next one, and the first of each body that ends there (R216). -/
def fallFrom (ls : List (Nat × Nat × Nat)) (t : Nat) : List Nat := (t + 1) :: (ls.filter fun l => l.2.1 == t).map fun l => l.1 + 1
/-- Bundles that can follow bundle `b` by its CTRL operation: `go` those it leads to when its guard is true or it has none, `stay` those when the guard is
false (R215, R216). `trips` is LOOPX's index register, where it is known. -/
def ctrlEdges (ls : List (Nat × Nat × Nat)) (b : Nat) (trips : Option Nat) (k : Nat) (c : CtrlOp) : List Nat × List Nat :=
  let inner := enclosing ls b
  let skip := fallFrom inner c.target
  match k with
  | 1 => ([b + 1], [])
  | 2 => (match trips with
    | some 0 => skip
    | some _ => [b + 1]
    | none => (b + 1) :: skip, [])
  | 3 => ([c.target], fallFrom inner b)
  | 4 => (match inner with
    | l :: outer => fallFrom outer l.2.1
    | [] => [], fallFrom inner b)
  | _ => (fallFrom inner b, fallFrom inner b)
/-- The CTRL operation of a bundle. -/
def ctrlAt (ops : List KOp) : Option (Nat × CtrlOp) := ops.findSome? fun o => match o with
  | .ctrl k c => some (k, c)
  | _ => none
/-- Bundles that can follow bundle `b` (R216). -/
def successors (ops : List KOp) (ls : List (Nat × Nat × Nat)) (b : Nat) : List Nat :=
  match ctrlAt ops with
  | some (k, c) => let e := ctrlEdges ls b none k c; e.1 ++ e.2
  | none => fallFrom (enclosing ls b) b

/-- Propagate bindings through a phase in bundle order; the first bundle reached with two bindings fails (R222), else each bundle reached has its bindings. -/
def bindFlow (im : Bytes) (ls : List (Nat × Nat × Nat)) (hi : Nat) : (n b : Nat) → List (Nat × BindMap) → List (Nat × BindMap) ⊕ LoadErr
  | 0, _, known => .inl known
  | n + 1, b, known =>
    match known.lookup b with
    | none => bindFlow im ls hi n (b + 1) known
    | some m =>
      let ops := opsAt im b
      if bindSplit ops m then .inr ⟨2, b, 7⟩
      else
        let out := bindStep ops m
        let next := (successors ops ls b).filter fun t => decide (t ≤ hi)
        if next.any fun t => match known.lookup t with
          | some m' => m' != out
          | none => false
        then .inr ⟨2, b, 7⟩
        else bindFlow im ls hi n (b + 1) (known ++ (next.filter fun t => (known.lookup t).isNone).map fun t => (t, out))

/-- Bindings at phase entry (R212). -/
def bindEntry (im : Bytes) : BindMap := (List.range 32).map fun i => if i < (kHead im).bindings then some i else none

/-- The bindings at each bundle of a phase (R222). -/
def phaseBinds (im : Bytes) (p : Nat) : List (Nat × BindMap) ⊕ LoadErr :=
  let sp := phaseSpan im p
  bindFlow im (loopsOf im sp.1 sp.2) sp.2 (sp.2 + 1 - sp.1) sp.1 [(sp.1, bindEntry im)]

/-- The atomic deliveries of a phase in a table's narrow row format: the binding of each target and the format (R200, R222). -/
def narrowAtomics (im : Bytes) (p : Nat) : List (Nat × Nat) :=
  match phaseBinds im p with
  | .inr _ => []
  | .inl known => known.flatMap fun m => (opsAt im m.1).filterMap fun o => match o with
    | .epi k e =>
      let d := oDesc im p e.odesc
      if k = 1 ∧ d.dest = 1 ∧ ((Fmt.ofCode d.fmt).getD .fp32).narrow = true then (m.2.getD d.atomicReg none).map fun i => (i, d.fmt) else none
    | _ => none

end Sys2Proof.Machine
end

