-- ==== Sys2Proof/Machine/KernelFlow.lean ====
section
/-! DEFINITION. What KERNEL_LOAD decides by following every path of a phase on each logical cluster: the modes of Batt tiles (R191), preloads of split
tiles (R199), and the outlier lists of products and of the conversions that feed them (R177). -/

namespace Sys2Proof.Machine

/-! ## What is known at a bundle -/

/-- What holds at a bundle on every path to it: the index registers and predicates that are known, and, on some path to it, which tiles may hold
promotions of which mode since their last drain, as bits numbered set × 192 + tile × 2 + mode with set 0 the active one (R191, R197). -/
structure FlowState where
  x : List (Option Word)
  p : List (Option Bool)
  modes : Nat := 0
  /-- The least that some ROWMAX has come to on every path: 0 none, 1 its span is open, 2 its span has ended (R239). -/
  rowMax : Nat := 0
  deriving DecidableEq, Repr

/-- At phase entry the arguments are unknown, X14 and X15 hold the logical cluster and n, all else is zero (R212). -/
def flowEntry (im : Bytes) (cluster : Nat) : FlowState :=
  let h := kHead im
  { x := (List.range 16).map fun i => if i < h.args then none else some (BitVec.ofNat 32 (if i = 14 then cluster else if i = 15 then h.clusters else 0))
    p := some true :: List.replicate 7 (some false) }

/-- What two paths that meet agree on. -/
def FlowState.meet (a b : FlowState) : FlowState :=
  let both := fun {α : Type} [DecidableEq α] (p : Option α × Option α) => if p.1 = p.2 then p.1 else none
  { x := (a.x.zip b.x).map both, p := (a.p.zip b.p).map both, modes := a.modes ||| b.modes, rowMax := min a.rowMax b.rowMax }

/-- A guard, where it is known (R214). -/
def FlowState.guard (s : FlowState) (g : Nat) : Option Bool := if g = 0 then some true else (s.p.getD (g % 8) none).map fun v => v != bit g 3
/-- May a slot with this guard act? Must it? -/
def FlowState.may (s : FlowState) (g : Nat) : Bool := s.guard g != some false
def FlowState.must (s : FlowState) (g : Nat) : Bool := s.guard g == some true

/-- An index register, where it is known. -/
def FlowState.xr (s : FlowState) (i : Nat) : Option Word := s.x.getD i none

/-- XCMP's condition (R216's Address operations table). -/
def compare (aux : Nat) (a b : Word) : Bool :=
  match aux with
  | 0 => a == b
  | 1 => a != b
  | 2 => decide (a.toNat < b.toNat)
  | 3 => decide (b.toNat ≤ a.toNat)
  | 4 => decide (a.toInt < b.toInt)
  | _ => decide (b.toInt ≤ a.toInt)

/-- An ADDR operation on what is known; a result under an unknown guard is unknown (R216). -/
def FlowState.addr (s : FlowState) (k : Nat) (o : AddrOp) : FlowState :=
  let two := fun (f : Word → Word → Word) => (s.xr o.s1).bind fun a => (if o.immen then some (BitVec.ofNat 32 o.imm) else s.xr o.s2).map fun b => f a b
  let by_ := fun (f : Word → Nat → Word) => two fun a b => f a (b.toNat % 32)
  let x : Option (Option Word) := match k with
    | 3 => some (two (· + ·))
    | 4 => some (two (· - ·))
    | 5 => some (by_ fun a n => a <<< n)
    | 6 => some (by_ fun a n => a >>> n)
    | 7 => some (by_ fun a n => a.sshiftRight n)
    | 9 => some (some (BitVec.ofNat 32 o.imm))
    | 10 => some none
    | _ => none
  let pr := fun (i : Nat) => s.p.getD i none
  let p : Option (Option Bool) := match k with
    | 8 => some ((two fun a b => if compare o.aux a b then 1 else 0).map fun w => w == 1)
    | 11 => some ((pr o.s1).bind fun a => (pr o.s2).map fun b => a && b)
    | 12 => some ((pr o.s1).bind fun a => (pr o.s2).map fun b => a || b)
    | 13 => some ((pr o.s1).map fun a => !a)
    | _ => none
  let put := fun {α : Type} [DecidableEq α] (l : List (Option α)) (v : Option α) =>
    if s.must o.guard then l.set o.d v else if l.getD o.d none = v then l else l.set o.d none
  if !s.may o.guard then s
  else match x, p with
    | some v, _ => { s with x := put s.x v }
    | none, some v => if o.d = 0 then s else { s with p := put s.p v }
    | none, none => s

/-! ## Tiles and their modes (R191) -/

/-- The bit of a tile and a mode in one set. -/
def modeBit (set tile : Nat) (float : Bool) : Nat := set * 192 + tile * 2 + flag float 0
/-- The other set becomes the active one (R197). -/
def swapModes (m : Nat) : Nat := m / 2 ^ 192 + m % 2 ^ 192 * 2 ^ 192
/-- A drain leaves its tile of the shadow set FRESH. -/
def drainModes (tile m : Nat) : Nat := m - (if bit m (modeBit 1 tile false) then 2 ^ modeBit 1 tile false else 0) - (if bit m (modeBit 1 tile true) then 2 ^ modeBit 1 tile true else 0)

/-- Does cluster `i` act on an operation that names a split group (R232)? -/
def inGroup (im : Bytes) (split : Bool) (g i : Nat) : Bool := !split || bit (splitMask im g) i

/-- Tiles an array operation promotes into. -/
def arrayTiles (k : Nat) (o : ArrayOp) : List Nat := if k = 1 ∨ k = 3 ∨ k = 4 then (List.range (16 / groupOf o.group)).map (· + o.tile) else []

/-- One operation's effect on what is known on cluster `i`. -/
def flowOp (im : Bytes) (i : Nat) (s : FlowState) (o : KOp) : FlowState :=
  match o with
  | .epi k e => if k = 1 ∧ inGroup im e.split e.splitId i = true ∧ s.must e.guard = true then { s with modes := drainModes e.tile s.modes } else s
  | .array k a =>
    if k = 5 then (if s.must a.guard then { s with modes := swapModes s.modes }
      else if s.may a.guard then { s with modes := s.modes ||| swapModes s.modes } else s)
    else if s.may a.guard && inGroup im a.split a.splitId i then
      match arrayMode k a with
      | some m => { s with modes := (arrayTiles k a).foldl (fun l t => l ||| 2 ^ modeBit 0 t m.1) s.modes }
      | none => s
    else s
  | .sel k a => if s.must a.guard then { s with rowMax := if 0 < s.rowMax then 2 else if k = 5 then 1 else 0 } else s
  | _ => s

/-- The operations of a bundle in the order in which they bear on the Batt and the Crown: the EPI slot sees the span that its bundle's SEL opens, and the sets as they
stood before its bundle's SWAP (R197, R237). -/
def flowOrder (ops : List KOp) : List KOp :=
  (ops.filter fun o => opSlot o == 6) ++ (ops.filter fun o => opSlot o == 5) ++ ops.filter fun o => opSlot o == 4
/-- A bundle's effect: its array and epilogue, then its ADDR, which the next bundle sees (R215). -/
def flowStep (im : Bytes) (i : Nat) (ops : List KOp) (s : FlowState) : FlowState :=
  let t := (flowOrder ops).foldl (flowOp im i) s
  ops.foldl (fun t o => match o with
    | .addr k a => let u := s.addr k a; { t with x := u.x, p := u.p }
    | _ => t) t

/-- Bundles that cluster `i` can go on to, by what is known (R215, R216). -/
def flowNext (ops : List KOp) (ls : List (Nat × Nat × Nat)) (b : Nat) (s : FlowState) : List Nat :=
  match ctrlAt ops with
  | none => fallFrom (enclosing ls b) b
  | some (k, c) =>
    let e := ctrlEdges ls b ((s.xr c.xreg).map BitVec.toNat) k c
    (if s.may c.guard then e.1 else []) ++ if s.must c.guard then [] else e.2

/-- What is known at each bundle `lo` and on of a phase; none where no path has come yet. -/
abbrev Flow := List (Option FlowState)

/-- One pass over the bundles of a phase. -/
def flowPass (im : Bytes) (ls : List (Nat × Nat × Nat)) (lo n i : Nat) (f : Flow) : Flow :=
  (List.range n).foldl (fun (f : Flow) j =>
    match f.getD j none with
    | none => f
    | some s =>
      let ops := opsAt im (lo + j)
      let out := flowStep im i ops s
      (flowNext ops ls (lo + j) s).foldl (fun f t =>
        if t < lo ∨ lo + n ≤ t then f
        else f.set (t - lo) (some (match f.getD (t - lo) none with
          | none => out
          | some u => u.meet out))) f) f

/-- Passes until nothing changes; what is known only shrinks and the tiles in play only grow, so `fuel` of 412 for each bundle never runs out. -/
def flowRun (im : Bytes) (ls : List (Nat × Nat × Nat)) (lo n i : Nat) : (fuel : Nat) → Flow → Flow
  | 0, f => f
  | fuel + 1, f => let g := flowPass im ls lo n i f; if g = f then f else flowRun im ls lo n i fuel g

/-- What is known at the bundles of phase `p` on logical cluster `i`. -/
def phaseFlow (im : Bytes) (p i : Nat) : Flow :=
  let sp := phaseSpan im p
  let n := sp.2 + 1 - sp.1
  flowRun im (loopsOf im sp.1 sp.2) sp.1 n i (412 * n) (some (flowEntry im i) :: List.replicate (n - 1) none)

/-! ## The checks -/

/-- An array operation of a bundle that could promote into a tile in one mode while it holds promotions in the other (R191). -/
def modeClash (im : Bytes) (i : Nat) (ops : List KOp) (s : FlowState) : Bool :=
  let t := ((flowOrder ops).filter fun o => opSlot o == 5).foldl (flowOp im i) s
  ops.any fun o => match o with
    | .array k a => s.may a.guard && inGroup im a.split a.splitId i && (match arrayMode k a with
        | some m => (arrayTiles k a).any fun j => bit t.modes (modeBit 0 j !m.1)
        | none => false)
    | _ => false

/-- A drain of a bundle that could take row maxima of which, on some path, no span has ended (R239). -/
def maxMissing (im : Bytes) (i : Nat) (ops : List KOp) (s : FlowState) : Bool :=
  let t := ((flowOrder ops).filter fun o => opSlot o == 6).foldl (flowOp im i) s
  ops.any fun o => match o with
    | .epi k e => k == 1 && e.rowoffMode == 2 && s.may e.guard && inGroup im e.split e.splitId i && decide (t.rowMax < 2)
    | _ => false

/-- The drains that can be the next of a tile of the set in which it stands, `set` 1 the shadow, from the bundles `todo` on (R198, R199). -/
def nextDrains (im : Bytes) (ls : List (Nat × Nat × Nat)) (f : Flow) (lo i tile : Nat) : (fuel : Nat) → (seen todo : List (Nat × Nat)) → List EpiOp
  | 0, _, _ => []
  | fuel + 1, seen, todo =>
    match todo with
    | [] => []
    | (b, set) :: rest =>
      match f.getD (b - lo) none with
      | none => nextDrains im ls f lo i tile fuel seen rest
      | some s =>
        let ops := opsAt im b
        let here := ops.filterMap fun o => match o with
          | .epi k e => if k = 1 ∧ set = 1 ∧ e.tile = tile ∧ s.may e.guard = true ∧ inGroup im e.split e.splitId i = true then some e else none
          | _ => none
        let swap := ops.findSome? fun o => match o with
          | .array 5 a => some (s.may a.guard, s.must a.guard)
          | _ => none
        let sets := match swap with
          | some (true, true) => [1 - set]
          | some (true, false) => [set, 1 - set]
          | _ => [set]
        let next := if here.any fun e => s.must e.guard then [] else (flowNext ops ls b s).flatMap fun t => sets.map fun x => (t, x)
        let new := next.filter fun x => !(seen.contains x) && decide (lo ≤ x.1) && decide (x.1 < lo + f.length)
        here ++ nextDrains im ls f lo i tile fuel (seen ++ new) (rest ++ new)

/-- A preload that cluster `i`, not the home, could make of a tile that is next drained as a split tile of a group it belongs to (R199). Whether a guard
can be true is judged by what is known on the cluster (DEDUCED, log entry 89). -/
def preloadBad (im : Bytes) (ls : List (Nat × Nat × Nat)) (f : Flow) (lo b i : Nat) (ops : List KOp) (s : FlowState) : Bool :=
  ops.any fun o => match o with
    | .epi k e =>
      (k == 2 || k == 3) && s.may e.guard
        && (let swap := ops.any fun o => match o with
              | .array 5 a => s.must a.guard
              | _ => false
            let from_ := (flowNext ops ls b s).map fun t => (t, if swap then 0 else 1)
            (nextDrains im ls f lo i e.tile (2 * f.length + 2) from_ from_).any fun d => d.split && splitHome im d.splitId != i)
    | _ => false

/-- The first bundle of a phase that a cluster's paths condemn (R191, R199, R239). -/
def flowErr (im : Bytes) (p : Nat) : Option LoadErr :=
  let sp := phaseSpan im p
  let ls := loopsOf im sp.1 sp.2
  let flows := (List.range (kHead im).clusters).map fun i => (i, phaseFlow im p i)
  ((List.range (sp.2 + 1 - sp.1)).map (· + sp.1)).findSome? fun b =>
    let ops := opsAt im b
    let bad := fun (f : Nat → Flow → FlowState → Bool) => flows.any fun x => match x.2.getD (b - sp.1) none with
      | some s => f x.1 x.2 s
      | none => false
    if bad fun i _ s => modeClash im i ops s then some ⟨2, b, 4⟩
    else if bad fun i _ s => maxMissing im i ops s then some ⟨2, b, 5⟩
    else if bad fun i f s => preloadBad im ls f sp.1 b i ops s then some ⟨2, b, 5⟩ else none

/-! ## Outlier lists (R177) -/

/-- The bindings at which a phase's rings are started: ring and binding. -/
def ringStarts (im : Bytes) (p : Nat) : List (Nat × Nat) :=
  match phaseBinds im p with
  | .inr _ => []
  | .inl known => known.flatMap fun m => (opsAt im m.1).filterMap fun o => match o with
    | .move 1 x => (m.2.getD x.areg none).map fun i => (x.ring, i)
    | _ => none

/-- The outlier lists that a phase's conversions declare for what they write, by binding. -/
def writtenLists (im : Bytes) (p : Nat) : List (Nat × List Nat) :=
  let ds := (List.range (kPhase im p).odescs).map fun i => oDesc im p i
  (ds.filter fun d => d.list != 15 && (d.dest == 0 || d.dest == 3)).flatMap fun d =>
    ((ringStarts im p).filter fun s => s.1 == d.dataRing).map fun s => (s.2, kList im d.list)

/-- A product whose list is not the one declared for an operand that this kernel writes: its bundle (R177). -/
def listErr (im : Bytes) : Option LoadErr :=
  let ps := List.range (kHead im).phases
  let written := ps.flatMap (writtenLists im)
  ps.findSome? fun p =>
    let sp := phaseSpan im p
    let starts := ringStarts im p
    ((List.range (sp.2 + 1 - sp.1)).map (· + sp.1)).findSome? fun b => (opsAt im b).findSome? fun o => match o with
      | .array k a =>
        if (k = 1 ∨ k = 4) ∧ a.outlier = true
            ∧ (starts.any fun s => (s.1 == a.ringA || s.1 == a.ringB) && written.any fun w => w.1 == s.2 && w.2 != kList im a.list) = true
        then some ⟨2, b, 4⟩ else none
      | _ => none

end Sys2Proof.Machine
end

