-- ==== Sys2Proof/Machine/KernelBound.lean ====
section
/-! DEFINITION. The evaluation of a phase's bundles at KERNEL_LOAD: the cycle bound and the Crown spans
(R204, R223–R225, R237, R239, R242–R244). -/

namespace Sys2Proof.Machine

/-! ## Order of bundles (R216) -/

/-- The bundle after `b`, and the loops then entered: at a loop's last bundle the trips count down and the body starts again while any remain. -/
def nextBundle (b : Nat) : List (Nat × Nat × Nat) → Nat × List (Nat × Nat × Nat)
  | [] => (b + 1, [])
  | (first, last, left) :: outer =>
    if b ≠ last then (b + 1, (first, last, left) :: outer)
    else if 1 < left then (first, (first, last, left - 1) :: outer)
    else nextBundle b outer

/-! ## What an operation needs of its rings -/

/-- Lines of an operand: output rows of A, columns of B (R186). -/
def operandLines (g : Nat) (isA : Bool) : Nat := if isA then 256 / g else 256
/-- Bytes of an operand, and of its scale records (R163, R166). -/
def operandBytes (fmt lines k : Nat) : Nat := lines * elemBytes ((Fmt.ofCode fmt).getD .int4b) k
def scaleBytes (fmt lines k : Nat) : Nat :=
  if [0, 2, 4, 11].contains fmt then lines * ceilDiv k 32 * 2 else if fmt = 1 ∨ fmt = 5 then lines * 8 else if fmt = 3 then 8 else 0

/-- Elements that a codebook of a kernel's operand covers, 1 to 32 (R179). -/
def bookGroup (im : Bytes) (fmt : Nat) : Nat := Config.codebookGroup im fmt % 32 + 1
/-- Bytes of one codebook: an FP16 scale, then 16 or 4 centroids of `g` nibbles (R92, R179). -/
def bookSize (fmt g : Nat) : Nat := if fmt = 7 then 2 + 2 * g else 2 + 8 * g

/-- The rings an array operation reads, with the bytes it takes of each: operands, scales, outliers. The outlier lane's channel records follow the operand's
own records in its scale ring; LUT_BUILD's steps are steps of its activation (DESIGN CHOICE, log entry 17). -/
def arrayNeeds (im : Bytes) (k : Nat) (o : ArrayOp) (steps : Nat) : List (Nat × Nat) :=
  let g := groupOf o.group
  let kk := steps * g * productsPerCell o.fmtA o.fmtB
  let la := operandLines g true
  let n := if o.outlier then (kList im o.list).length else 0
  if k = 2 then
    let gl := bookGroup im o.fmtB
    [(o.ringA, operandBytes o.fmtA la kk), (o.ringB, kk / gl * bookSize o.fmtB gl), (o.ringSA, scaleBytes o.fmtA la kk)]
  else if k = 3 then [(o.ringB, operandBytes o.fmtB 256 (steps * g))]
  else
    [(o.ringA, operandBytes o.fmtA la kk), (o.ringB, operandBytes o.fmtB 256 kk), (o.ringSA, scaleBytes o.fmtA la kk + 2 * n)
     , (o.ringSB, scaleBytes o.fmtB 256 kk + 2 * n)]
    ++ if o.outlier then [(o.ringOA, la * n), (o.ringOB, 256 * n)] else []

/-- Rings an EPI operation reads: a preload's source, or a drain's vectors and static scales, with bytes. -/
def epiNeeds (k : Nat) (o : EpiOp) (d : ODesc) (elem : Nat → Nat) : List (Nat × Nat) :=
  let size := fun r => if elem r = 2 then 2 else 4
  if k = 2 then [(o.odesc, 4096 * size o.odesc)]
  else if k = 3 then [(o.odesc, 256 * size o.odesc)]
  else
    (if 2 ≤ o.alphaMode then [(o.alphaRing, 256 * size o.alphaRing)] else []) ++ (if 2 ≤ o.biasMode then [(o.biasRing, 256 * size o.biasRing)] else [])
    ++ (if o.rowoffMode = 1 then [(o.rowoffRing, 64)] else [])
    ++ if d.static then [(d.scaleRing, if d.fmt = 1 then 128 else 256)] else []

/-- Bytes a tile delivers to its data ring and its scale ring: 16 rows of up to 256 columns (R203). -/
def drainBytes (d : ODesc) : Nat × Nat :=
  let f := (Fmt.ofCode d.fmt).getD .fp32
  let cols := min 256 d.columns
  (16 * elemBytes f cols, if f.blockScaled then 16 * (cols / 32) * 2 else if f = .uint4z ∨ f = .bin then 16 * 8 else if f = .fp4t then 8 else 0)

/-- Crown passes for a selection of K among the values of a row (R242). -/
def crownPasses (keff : Nat) : Nat := if keff ≤ 1024 then 1 else 1 + (findFrom (fun i => decide (keff ≤ 1024 * 2 ^ i)) 64 0).getD 0

/-! ## The evaluation (R223–R225) -/

/-- A ring in the evaluation. -/
structure BRing where
  started : Option Nat := none
  /-- Slots that its stream brings. -/
  len : Nat := 0
  tier : Nat := 0
  /-- Slots released, with their release times; slots acknowledged after their fills. -/
  released : List Nat := []
  filled : Nat := 0
  acks : List Nat := []
  deriving Inhabited

/-- The state of the evaluation. Units: 1 ARRAY, 2 EPI, 3 SEL, 4 MOVE0, 5 MOVE1. -/
structure BState where
  pc : Nat
  loops : List (Nat × Nat × Nat) := []
  /-- Issue cycle of the last bundle plus one. -/
  next : Nat := 0
  busy : List Nat := List.replicate 6 0
  swap : Option Nat := none
  active : Nat := 0
  /-- Modes of tiles since their last drain: set, tile, float. -/
  modes : List (Nat × Nat × Bool) := []
  rings : List BRing := List.replicate 16 {}
  binds : BindMap
  /-- The open Crown span: operation, K, output descriptor, tiles delivered, and when the last drain to the Crown completes. -/
  span : Option (Nat × Nat × Option Nat × Nat) := none
  crown : Nat := 0
  err : Option LoadErr := none

/-- λ in cycles of a tier, and cycles for `n` bytes at the mover's rate shared by `k` rings (R225). -/
def tierDelay (t : Nat) : Nat := match t with
  | 0 => 84 | 1 => 945 | 2 => 2520 | _ => 5250
def tierCycles (t k n : Nat) : Nat := if t = 0 then ceilDiv (n * k) 1024 else ceilDiv (n * k * tierDelay t) 131072

/-- A time that is never reached: a slot that waits for a release no bundle makes. -/
abbrev never : Nat := 2 ^ 48

/-- Rings of the phase on a mover. -/
def sharing (im : Bytes) (p m : Nat) : Nat := ((List.range (kPhase im p).rings).filter fun r => (phaseRing im p r).mover == m).length

/-- Arrival of slot `i` of a started input ring (R225). -/
def slotArrival (im : Bytes) (p r i : Nat) (st : BState) : Nat :=
  let d := phaseRing im p r
  let b := st.rings.getD r {}
  let k := sharing im p d.mover
  let total := d.runs * d.runBytes
  let upTo := min ((i + 1) * d.slotBytes) total
  match b.started with
  | none => never
  | some s =>
    let a := s + tierDelay b.tier + tierCycles b.tier k upTo
    if i < d.ahead then a
    else match b.released[i - d.ahead]? with
      | some t => max a (t + tierDelay b.tier + tierCycles b.tier k (upTo - min (i * d.slotBytes) total))
      | none => never

/-- First and last arrivals of what an operation takes from its rings' heads. -/
def needArrivals (im : Bytes) (p : Nat) (needs : List (Nat × Nat)) (st : BState) : Nat × Nat :=
  needs.foldl (fun a n =>
    if n.2 = 0 then a
    else
      let h := (st.rings.getD n.1 {}).released.length
      let slots := max 1 (ceilDiv n.2 (phaseRing im p n.1).slotBytes)
      (max a.1 (slotArrival im p n.1 h st), max a.2 (slotArrival im p n.1 (h + slots - 1) st))) (0, 0)

/-- Release `n` slots of a ring, and of its PAIR ring, at a time (R217, R274). -/
def boundRelease (im : Bytes) (p r n t : Nat) (st : BState) : BState :=
  let put := fun (l : List BRing) (i : Nat) => modifyAt l i fun b => { b with released := b.released ++ List.replicate n t }
  let rs := put st.rings r
  { st with rings := if (phaseRing im p r).pair = 15 then rs else put rs (phaseRing im p r).pair }

/-- A drain fills an output ring with `n` bytes at time `t`: acknowledgements of the slots it fills (R225). -/
def boundFill (im : Bytes) (p r n t : Nat) (st : BState) : BState :=
  let d := phaseRing im p r
  let k := sharing im p d.mover
  { st with rings := modifyAt st.rings r fun b =>
      let f := b.filled + n
      let slots := f / max d.slotBytes 1 - b.acks.length
      { b with filled := f, acks := b.acks ++ List.replicate slots (t + tierDelay b.tier + tierCycles b.tier k d.slotBytes) } }

/-- Cycles of a drain (R204, R224): its format, halvings of an integer tile, split partials, Crown passes. -/
def drainCycles (im : Bytes) (o : EpiOp) (d : ODesc) (float : Bool) (keff : Nat) : Nat :=
  let f := (Fmt.ofCode d.fmt).getD .fp32
  let base := if d.auto != 0 then 48 + (if f = .uint4z then 16 else 0) else if d.static || !f.narrow then 16 else if f = .uint4z then 48 else 32
  let halve := if float then 0 else 48
  let split := if o.split then 32 * max 1 ((splitMembers im o.splitId).length - 1) else 0
  let crown := if 2 ≤ d.dest then 256 * crownPasses keff else 0
  max (base + halve + split) crown

/-- K as the evaluation takes it (R223, R243). -/
def selK (k : Nat) (o : SelOp) : Nat := if k = 3 ∨ k = 4 then 1 else if k = 5 then 0 else if o.k = 0 then 65535 else o.k

/-- Values of one row that `tiles` drained tiles deliver: no more than COLUMNS, and no more than 256 for each tile of the row (R243). -/
def rowSeen (d : ODesc) (tiles : Nat) : Nat := min (min d.columns 65535) (ceilDiv (256 * tiles) (max 1 (ceilDiv d.rows 16)))

/-- Store entries a span needs; a COLLECT's are checked with its own group (R243). -/
def spanNeed (op k : Nat) (d : ODesc) (tiles : Nat) : Nat :=
  let keff := min k (rowSeen d tiles)
  match op with
  | 1 | 2 => if keff ≤ 1024 then d.rows * keff else tiles * 4096
  | 6 => 0
  | _ => d.rows

/-- Close the open span: its store need is checked (R243). -/
def closeSpan (im : Bytes) (p b : Nat) (st : BState) : BState :=
  match st.span with
  | some (op, k, some i, tiles) =>
    if 65536 < spanNeed op k (oDesc im p i) tiles then { st with err := st.err <|> some ⟨2, b, 6⟩ } else st
  | _ => st

/-- One operation in the evaluation, issued at `s`: the completion of its unit (R224). -/
def boundOp (im : Bytes) (p b s : Nat) (st : BState) (o : KOp) : BState :=
  let unit := fun (u t : Nat) (st : BState) => { st with busy := st.busy.set u (max (st.busy.getD u 0) t) }
  let ph := kPhase im p
  match o with
  | .ctrl _ _ | .addr _ _ => st
  | .move k m =>
    let u := 4 + m.side
    let r := st.rings.getD m.ring {}
    let d := phaseRing im p m.ring
    let slots := if m.xen ∨ m.len = 0 then d.length else m.len
    if k = 1 then
      -- a START on a ring in use waits until the ring is empty (R217)
      let all := if d.output then (r.acks.foldl max s) else (if r.started.isNone then s else if r.released.length < r.len then never else r.released.foldl max s)
      let tier := match st.binds.getD m.areg none with
        | some i => (kBind im i).2 % 4
        | none => 0
      unit u (max s all + 1) { st with rings := st.rings.set m.ring { started := some (max s all), len := slots, tier := tier } }
    else if k = 3 then unit u (s + 1) (boundRelease im p m.ring slots s st)
    -- a STOP leaves at most what the fetch-ahead has fetched
    else unit u (s + 1) { st with rings := modifyAt st.rings m.ring fun b => { b with len := min b.len (b.released.length + d.ahead) } }
  | .array k a =>
    if k = 5 then
      let t := max s (st.busy.getD 2 0)
      unit 1 (t + 1) { st with swap := some t, active := 1 - st.active }
    else
      let g := groupOf a.group
      let needs := arrayNeeds im k a a.steps
      let ar := needArrivals im p needs st
      let kk := a.steps * g * productsPerCell a.fmtA a.fmtB
      let steps := if k = 2 then ceilDiv (16 * kk * 256) 65536 else if a.outlier then max a.steps 16 else a.steps
      let t := max (max s ar.1 + steps) (ar.2 + 1)
      let rel := fun (yes : Bool) (r : Nat) (st : BState) =>
        if yes then boundRelease im p r (max 1 (ceilDiv ((needs.lookup r).getD 1) (phaseRing im p r).slotBytes)) t st else st
      let st := rel a.relA a.ringA (rel a.relB a.ringB st)
      let mode := (arrayMode k a).map Prod.fst
      unit 1 t { st with modes := st.modes ++ (arrayTiles k a).map fun i => (st.active, i, mode.getD false) }
  | .epi k e =>
    let d := oDesc im p e.odesc
    let shadow := 1 - st.active
    let start := max s (match st.swap with
      | some t => t + 24
      | none => 0)
    let ar := needArrivals im p (epiNeeds k e d fun r => (phaseRing im p r).elem) st
    let start := max start ar.2
    let here := fun (m : Nat × Nat × Bool) => m.1 == shadow && m.2.1 == e.tile
    if k = 1 then
      let float := st.modes.any fun m => here m && m.2.2
      let spanK := match st.span with
        | some (_, k, _, _) => min k (min d.columns 65535)
        | none => 0
      let by_ := drainBytes d
      let out := fun (r n : Nat) (st : BState) =>
        if n = 0 then (0, st)
        else
          let rd := phaseRing im p r
          let br := st.rings.getD r {}
          -- a drain waits for a free slot (R274), and its charge is at least the ring's delivery time (R204)
          let slot := br.filled / max rd.slotBytes 1
          let wait := if slot < rd.slots then 0 else br.acks.getD (slot - rd.slots) never
          (max wait (start + tierCycles br.tier (sharing im p rd.mover) n), st)
      let toRing := d.dest == 0 || d.dest == 3
      let w := if toRing then max (out d.dataRing by_.1 st).1 (if d.static then 0 else (out d.scaleRing by_.2 st).1) else 0
      let t := max (start + drainCycles im e d float spanK) w
      let st := if toRing then boundFill im p d.dataRing by_.1 t (if d.static || by_.2 = 0 then st else boundFill im p d.scaleRing by_.2 t st) else st
      let st := if d.dest = 1 then
          -- atomic adds are acknowledged at the drain's completion plus λ of the target's tier
          let tier := match st.binds.getD d.atomicReg none with
            | some i => (kBind im i).2 % 4
            | none => 0
          { st with crown := max st.crown (t + tierDelay tier) } else st
      let bad := decide (2 ≤ d.dest) && (match st.span with
        | none => true
        | some (_, _, some i, _) => i != e.odesc
        | some (_, _, none, _) => false)
      let st := { st with
        err := if bad then st.err <|> some ⟨2, b, 5⟩ else st.err
        modes := if e.guard = 0 then st.modes.filter fun m => !here m else st.modes
        span := if 2 ≤ d.dest then st.span.map fun x => (x.1, x.2.1, some e.odesc, x.2.2.2 + 1) else st.span
        crown := if 2 ≤ d.dest then max st.crown t else st.crown }
      unit 2 t st
    else unit 2 (start + 16) st
  | .sel k a =>
    let st := closeSpan im p b st
    let n := (splitMembers im a.splitId).length
    let of_ := match st.span with
      | some (_, _, some i, tiles) => ((oDesc im p i).rows, min (selK k a) (rowSeen (oDesc im p i) tiles))
      | _ => (0, 0)
    let t := if k = 6 then max (s + 1) (st.crown + ceilDiv ((n - 1) * of_.2 * of_.1) 16) else s + 1
    let st := if k = 6 ∧ 65536 < n * of_.2 * of_.1 then { st with err := st.err <|> some ⟨2, b, 6⟩ } else st
    let st := unit 3 t { st with span := some (k, selK k a, if k = 6 then (st.span.bind fun x => x.2.2.1) else none, 0) }
    if ph.rings ≤ a.ringOut then { st with err := st.err <|> some ⟨2, b, 6⟩ } else st

/-- Units a bundle uses. -/
def opUnit : KOp → Nat
  | .array _ _ => 1
  | .epi _ _ => 2
  | .sel _ _ => 3
  | .move _ m => 4 + m.side
  | _ => 0

/-- Every acknowledgement so far. -/
def BState.acked (st : BState) : Nat := (st.rings.flatMap BRing.acks).foldl max st.crown

/-- One bundle of the evaluation (R223): loops run their COUNT, branches and breaks are not taken. -/
def boundBundle (im : Bytes) (p : Nat) (st : BState) : BState :=
  let b := st.pc
  let v := bundleBits im b
  let ops := bundleOps v
  let all := st.busy.foldl max 0
  let waits := ops.foldl (fun m o => match o with
    | .ctrl k c => if k = 5 then (List.range 5).foldl (fun m i => if bit c.count i then max m (st.busy.getD (i + 1) 0) else m) m else m
    | _ => m) 0
  let s := ops.foldl (fun m o => max m (st.busy.getD (opUnit o) 0)) (max st.next waits)
  let isWait := ops.any fun o => match o with
    | .ctrl k _ => k == 5
    | _ => false
  let s := if bundleBarrier v then max s (max all st.acked) else if isWait then max s st.acked else s
  -- a SEL opens its span for the drains of its own bundle, and a SWAP waits for them (R197, R237)
  let rank := fun (o : KOp) => match o with
    | .epi _ _ => 1
    | .array _ _ => 2
    | _ => 0
  let st := ((List.range 3).flatMap fun i => ops.filter fun o => rank o == i).foldl (boundOp im p b s) st
  let st := { st with binds := bindStep ops st.binds, next := s + 1 }
  let enter := ops.findSome? fun o => match o with
    | .ctrl k c => if k = 1 ∨ k = 2 then some (b + 1, c.target, c.count) else none
    | _ => none
  match enter with
  | some l => { st with pc := b + 1, loops := l :: st.loops }
  | none => let n := nextBundle b st.loops; { st with pc := n.1, loops := n.2 }

/-- Run the evaluation to the end of the phase. -/
def boundRun (im : Bytes) (p last : Nat) : (fuel : Nat) → BState → BState
  | 0, st => st
  | fuel + 1, st => if last < st.pc ∨ st.err.isSome then st else boundRun im p last fuel (boundBundle im p st)

/-- Bundles that the evaluation can meet at most: each loop multiplies. -/
def boundFuel (im : Bytes) (lo hi : Nat) : Nat :=
  ((List.range (hi + 1 - lo)).map (· + lo)).foldl (fun n b => (opsAt im b).foldl (fun n o => match o with
    | .ctrl k c => if k = 1 ∨ k = 2 then n * (c.count + 1) else n
    | _ => n) n) (hi + 2 - lo)

/-- A phase's bound in cycles, or its error (R223). -/
def phaseBound (im : Bytes) (p : Nat) : Nat ⊕ LoadErr :=
  let sp := phaseSpan im p
  let st := boundRun im p sp.2 (boundFuel im sp.1 sp.2) { pc := sp.1, binds := bindEntry im }
  let st := closeSpan im p sp.2 st
  -- a slot that the stream's last drain left part-filled is written back at the end of the phase
  let tails := (List.range (kPhase im p).rings).map fun r =>
    let d := phaseRing im p r
    let b := st.rings.getD r {}
    let rest := b.filled - b.acks.length * d.slotBytes
    if d.output && decide (0 < rest) then st.busy.getD 2 0 + tierDelay b.tier + tierCycles b.tier (sharing im p d.mover) rest else 0
  match st.err with
  | some e => .inr e
  | none => .inl (max (max st.next (st.busy.foldl max 0)) (max st.acked (tails.foldl max 0)) + 64 + 2 * (kPhase im p).rerun)

/-- Every check of KERNEL_LOAD on an image, in the order header and tables, bundles, bindings, paths, outlier lists, bounds (R177, R191, R199, R216–R222): the bounds, or the first
error. -/
def loadImage (im : Bytes) (cycles : Nat) : List Nat ⊕ LoadErr :=
  let h := kHead im
  let tables := firstErr (tableErrs im)
  match tables with
  | some e => .inr e
  | none =>
    let ps := List.range h.phases
    let shape := firstErr (ps.flatMap (phaseErrs im))
    let slots := shape <|> ps.findSome? fun p =>
      let sp := phaseSpan im p
      let ls := loopsOf im sp.1 sp.2
      ((List.range (sp.2 + 1 - sp.1)).map (· + sp.1)).findSome? fun b => firstErr (bundleErrs im p sp.1 sp.2 ls b)
    let binds := slots <|> ps.findSome? fun p => match phaseBinds im p with
      | .inr e => some e
      | .inl _ => none
    match binds <|> ps.findSome? (flowErr im) <|> listErr im with
    | some e => .inr e
    | none =>
      match ps.findSome? fun p => match phaseBound im p with
        | .inr e => some e
        | .inl n => if cycles < n then some ⟨4, 0xFFFF, 15⟩ else none with
      | some e => .inr e
      | none => .inl (ps.map fun p => match phaseBound im p with
        | .inl n => n
        | .inr _ => 0)

end Sys2Proof.Machine
end

