-- ==== Sys2Proof/Machine/Rings.lean ====
section
/-! DEFINITION. Rings and stream movers at run time: what a binding reads and writes, streams, slots, tags and their arbitration, release,
write-back (R213, R217, R267–R275, R277, R278, R280). -/

namespace Sys2Proof.Machine

/-! ## The phase in progress -/

def State.kernel (s : State) (id : Nat) : Option Kernel := s.kernels.find? fun k => k.id == id
/-- The kernel loaded on a channel and not unloaded (R229). -/
def State.loaded (s : State) (slot : Nat) : Option Kernel := s.kernels.find? fun k => k.slot == slot && !k.leaving
def State.cluster (s : State) (k : Nat) : Cluster := s.clusters.getD k {}

/-- The kernel that a command's own phases run on, as resolved at admission: a run's third working value, an encoded search's eleventh
(R228, R230). -/
def Cmd.kernelId (c : Cmd) : Nat := if c.op = 0x2003 then c.work.getD 10 0 else c.work.getD 2 0

/-- Setting `i` of those resolved at admission (R70). -/
def Cmd.runSetting (c : Cmd) (i : Nat) : Nat := c.work.getD ((if c.op = 0x2003 then 11 else 3) + i) 0
/-- ROUND_MODE (0), ROUND_SEED (1) and SAT_THRESHOLD (2) of the kernel that the command's phases now run on, its fallback's once that is placed. -/
def Cmd.kernelSetting (c : Cmd) (i : Nat) : Nat := c.runSetting ((if c.fallback.isSome then 5 else 2) + i)

/-- What runs on a cluster: the phase, its kernel, its command. -/
structure Running where
  run : PhaseRun
  kern : Kernel
  cmd : Cmd

def State.running (s : State) (k : Nat) : Option Running :=
  match (s.cluster k).run with
  | none => none
  | some r => match s.kernel r.kernel, s.cmd r.cmd with
    | some kn, some c => some ⟨r, kn, c⟩
    | _, _ => none

/-- Channel slot whose settings and counters a phase works under: its kernel's channel (R173, R185, R281). -/
def Running.chan (r : Running) : Nat := r.kern.slot
def Running.ring (r : Running) (i : Nat) : RingDesc := phaseRing r.kern.image r.run.phase i
/-- Stream number of a kernel ring: physical mover × 16 + ring (R267, R268). -/
def Running.stream (r : Running) (k i : Nat) : Nat := (4 * k + (r.ring i).mover) * 16 + i

def setRing (k i : Nat) (f : Ring → Ring) (s : State) : State := s.setCluster k fun c => { c with rings := modifyAt c.rings i f }
def State.ring (s : State) (k i : Nat) : Ring := (s.cluster k).rings.getD i { num := i }

/-! ## What a binding reads and writes (R212, R213) -/

/-- Length of what a binding stands for. -/
def State.bindLen (s : State) (b : BindTo) (c : Cmd) : Nat := match b with
  | .object n => ((s.obj n).map fun o => o.pages * pageBytes).getD 0
  | .sink _ n => n
  | .features => fld c.q.params 80 4
  | .query n => n

/-- Binding `i` of a run; an unbound register has length 0 (R213). -/
def Running.bind (r : Running) (i : Option Nat) : Option BindTo := (i.bind fun j => r.run.binds[j]?).map Prod.fst

/-- `n` bytes at an offset: zeros outside, and whether any byte lay outside (R213). -/
def bindRead (r : Running) (b : Option BindTo) (off n : Nat) (s : State) : Bytes × Bool :=
  match b with
  | none => (zeros n, decide (0 < n))
  | some b =>
    let len := s.bindLen b r.cmd
    let m := min n (len - off)
    let bs := match b with
      | .object num => s.readObj num off m
      | .sink base _ => s.hostView.read (base + off) m
      | .features => slice r.cmd.q.params (96 + off) m
      | .query _ => slice r.cmd.encoded off m
    (bs ++ zeros (n - m), decide (m < n))

/-- Write bytes at an offset; bytes outside are discarded (R213). -/
def bindWrite (r : Running) (b : Option BindTo) (off : Nat) (bs : Bytes) (s : State) : State × Bool :=
  match b with
  | none => (s, !bs.isEmpty)
  | some b =>
    let m := min bs.length (s.bindLen b r.cmd - off)
    let w := bs.take m
    let s := match b with
      | .object num => writeFor r.cmd 1 num off w s
      | .sink base _ => let p := r.cmd.q.access
          if r.cmd.epoch = (s.port p).epoch then hostPost p ⟨base + off, w⟩ s else if w.isEmpty then s else parkWrite p r.cmd.id ⟨base + off, w⟩ s
      | .features => s
      | .query n => s.setCmd r.cmd.id fun c =>
          let e := c.encoded ++ zeros (n - c.encoded.length)
          { c with encoded := e.take off ++ w ++ e.drop (off + w.length) }
    (s, decide (m < bs.length))

/-! ## Streams (R272) -/

/-- The pieces of a stream's bytes from `pos`, `n` of them: (address, bytes) run by run. -/
def pieces (d : RingDesc) (g : Ring) : (fuel pos n : Nat) → List (Nat × Nat)
  | 0, _, _ => []
  | fuel + 1, pos, n =>
    if n = 0 ∨ d.runBytes = 0 then []
    else
      let i := pos / d.runBytes
      let m := min n (d.runBytes - pos % d.runBytes)
      let x : Int := if d.kind = 1 then ((g.words.getD i 0 % 2 ^ 40 : Nat) : Int) else ((i : Nat) : Int)
      let a := (((g.offset : Nat) : Int) + x * d.stride + ((pos % d.runBytes : Nat) : Int)) % (2 ^ 48)
      (a.toNat, m) :: pieces d g fuel (pos + m) (n - m)

/-- Bytes of slot `i`: every slot is full but the stream's last (R272). -/
def slotSize (d : RingDesc) (i : Nat) : Nat := min d.slotBytes (d.runs * d.runBytes - i * d.slotBytes)
/-- Pieces of slot `i`. -/
def slotPieces (d : RingDesc) (g : Ring) (i : Nat) : List (Nat × Nat) :=
  pieces d g (d.slotBytes / 16 + 2) (i * d.slotBytes) (slotSize d i)

/-- Pages of an object that a list of pieces touches. -/
def piecePages (ps : List (Nat × Nat)) : List Nat :=
  dedupBy id (ps.flatMap fun p => (List.range ((p.1 % pageBytes + p.2 + pageBytes - 1) / pageBytes)).map fun i => p.1 / pageBytes + i)
/-- Lines of 256 bytes that a list of pieces touches. -/
def pieceLines (ps : List (Nat × Nat)) : List Nat :=
  dedupBy id (ps.flatMap fun p => (List.range ((p.1 % 256 + p.2 + 255) / 256)).map fun i => p.1 / 256 + i)

/-- Object a ring's stream reads, if it reads one. -/
def Running.object (r : Running) (g : Ring) : Option Nat := match r.bind g.bind with
  | some (.object n) => some n
  | _ => none

/-- Does a slot wait for pages that a PREFETCH_PLAN has yet to place (R280)? -/
def slotUnplaced (r : Running) (d : RingDesc) (g : Ring) (i : Nat) (s : State) : Bool :=
  match (r.object g).bind s.obj with
  | some o => (piecePages (slotPieces d g i)).any fun p => ((assocGet p o.pageInfo).map Page.unplaced).getD false
  | none => false

/-! ## Fetching (R274) -/

/-- May the mover go on with the ring's next slot: within its length and fetch-ahead, with its index words taken (R272, R274)? -/
def canFetch (d : RingDesc) (g : Ring) : Bool :=
  g.active && !g.stopped && !d.output && decide (g.issued < g.len) && decide (g.issued - g.head < d.ahead)
    && (d.kind != 1 || decide (min d.runs (ceilDiv (min ((g.issued + 1) * d.slotBytes) (d.runs * d.runBytes)) (max d.runBytes 1)) ≤ g.words.length))

/-- The ring's first `n` slots are released at a cycle; the latest releases are kept, as many as a fetch-ahead can look back on (R225, R274). -/
def Ring.pass (n cycle : Nat) (g : Ring) : Ring :=
  let all := g.freedAt ++ (List.range n).map fun j => (g.head + j, cycle)
  { g with head := g.head + n, slots := g.slots.drop n, freedAt := all.drop (all.length - 8) }

/-- Index rings give their words to the rings they index, and their slots go free when every run they name has been issued (R272). -/
def feedIndexed (r : Running) (k : Nat) (s : State) (i : Nat) : State :=
  let d := r.ring i
  let g := s.ring k i
  if d.kind != 1 || !g.active then s
  else
    let xd := r.ring d.index
    let x := s.ring k d.index
    let have_ := g.words.length
    -- the words of arrived index slots beyond those already taken
    let fresh := x.slots.flatMap fun p => (List.range (p.2.length / 8)).filterMap fun j =>
      let w := p.1 * (xd.slotBytes / 8) + j
      if have_ ≤ w then some (fld p.2 (8 * j) 8) else none
    let s := setRing k i (fun g => { g with words := g.words ++ fresh }) s
    -- runs issued so far, and the index slots wholly used by them
    let runs := min d.runs (g.issued * d.slotBytes / max d.runBytes 1)
    let drop := x.slots.filter fun p => decide ((p.1 + 1) * (xd.slotBytes / 8) ≤ runs)
    setRing k d.index (Ring.pass drop.length s.frame.cycle) s

/-! ## Due cycles (R225, R275) -/

/-- Tier that a ring's binding declares (R225). -/
def Running.tier (r : Running) (g : Ring) : Nat := match g.bind with
  | some j => (kBind r.kern.image j).2 % 4
  | none => 0
/-- λ + ceil(n / ρ) of a ring: ρ is its tier's rate shared by the rings of its mover (R225). -/
def Running.reach (r : Running) (g : Ring) (n : Nat) : Nat :=
  tierDelay (r.tier g) + tierCycles (r.tier g) (sharing r.kern.image r.run.phase (r.ring g.num).mover) n

/-- Due cycle of slot `i`: the arrival of R225 from the cycle at which the stream started, with the actual release of slot i − F (R275). -/
def Running.due (r : Running) (g : Ring) (i : Nat) : Nat :=
  let d := r.ring g.num
  let first := g.since + r.reach g (min ((i + 1) * d.slotBytes) (d.runs * d.runBytes))
  match if i < d.ahead then none else assocGet (i - d.ahead) g.freedAt with
  | some c => max first (c + r.reach g (slotSize d i))
  | none => first
/-- Is the slot to be fetched next behind: the cycle within λ + ceil(b / ρ) of its due cycle (R275)? -/
def Running.behind (r : Running) (g : Ring) (cycle : Nat) : Bool :=
  decide (r.due g g.issued ≤ cycle + r.reach g (slotSize (r.ring g.num) g.issued))

/-! ## Tags and arbitration (R269, R270, R275) -/

/-- Tags that a list of pieces takes: one for each granule of 256 bytes or part of one (R269). -/
def pieceTags (ps : List (Nat × Nat)) : Nat := (ps.map fun p => (p.1 % 256 + p.2 + 255) / 256).foldl (· + ·) 0
def slotTags (d : RingDesc) (g : Ring) (i : Nat) : Nat := pieceTags (slotPieces d g i)

/-- Slots of a ring that are outstanding: reads not arrived, or writes not acknowledged. -/
def Ring.outstanding (g : Ring) (output : Bool) : List Nat :=
  let lo := if output then g.acked else g.head + g.slots.length
  (List.range ((if output then g.wrote else g.issued) - lo)).map (lo + ·)
/-- Tags that a ring's stream holds. -/
def Running.tags (r : Running) (g : Ring) : Nat :=
  let d := r.ring g.num
  ((g.outstanding d.output).map (slotTags d g)).foldl (· + ·) 0 + g.granted - g.back
/-- Rings of the phase on a logical mover. -/
def Running.onMover (r : Running) (m : Nat) : List Nat :=
  (List.range (kPhase r.kern.image r.run.phase).rings).filter fun i => (r.ring i).mover == m
/-- Tags of a mover that are free, of its 512 (R269). -/
def freeTags (r : Running) (k m : Nat) (s : State) : Nat :=
  let held := ((r.onMover m).map fun i => r.tags (s.ring k i)).foldl (· + ·) 0
  let owed := (((s.cluster k).owed.filter fun o => o.mover == m && !o.retired).map fun o => o.tags.foldl (· + ·) 0).foldl (· + ·) 0
  512 - held - owed

/-- Has the stream's last drain written to its ring: its length filled, the phase's operations done, or a START waiting for the ring with no drain or selection
before it (R217, R274)? -/
def Running.over (r : Running) (c : Cluster) (g : Ring) : Bool :=
  let d := r.ring g.num
  let here := fun (i : Issued) => match i.op with
    | .move 1 m => m.ring == g.num
    | _ => false
  decide (d.runs * d.runBytes ≤ g.wrote * d.slotBytes + g.buf.length) || (r.run.ending && c.busy.isEmpty && c.span.isNone && c.held.isEmpty)
    || (c.busy.any here && (c.busy.takeWhile fun i => !here i).all fun i => opSlot i.op != 5 && opSlot i.op != 6)
/-- Bytes of the slot that an output ring may write back; 0 for none (R274). -/
def Running.fullBytes (r : Running) (c : Cluster) (g : Ring) : Nat :=
  let n := (r.ring g.num).slotBytes
  if n ≤ g.buf.length then n else if r.over c g then g.buf.length else 0

/-- What a stream wants of its mover: its place in R275's order, and the transfers of its next slot that have no tag. -/
structure Want where
  place : Nat
  due : Nat
  deadline : Nat
  stream : Nat
  ring : Nat
  left : Nat

/-- Is a want before another: earlier place, then due cycle, deadline tick, stream number (R275)? -/
def Want.before (a b : Want) : Bool :=
  lexLt [a.place, a.due, a.deadline, a.stream] [b.place, b.due, b.deadline, b.stream]
where
  lexLt : List Nat → List Nat → Bool
    | x :: xs, y :: ys => decide (x < y) || (x == y && lexLt xs ys)
    | _, _ => false

/-- A ring's want: 1 an output ring with a full slot, 2 an input ring that is behind, 4 another with room under its fetch-ahead. Gather streams, place 3, never
share a mover with a kernel phase in a tick (R267, R275). -/
def wantOf (r : Running) (k i : Nat) (s : State) : Option Want :=
  let d := r.ring i
  let g := s.ring k i
  let want := fun (place due n : Nat) => some { place := place, due := due, deadline := r.cmd.admitTick + r.cmd.deadline, stream := r.stream k i, ring := i, left := n : Want }
  if d.output then
    let n := r.fullBytes (s.cluster k) g
    if n = 0 then none else want 1 0 (pieceTags (pieces d g (d.slotBytes / 16 + 2) (g.wrote * d.slotBytes) n) - g.granted)
  else if canFetch d g then want (if r.behind g s.frame.cycle then 2 else 4) (r.due g g.issued) (slotTags d g g.issued - g.granted)
  else none

/-- Write one slot back to the binding; KERNEL_RANGE counts a transfer with bytes outside it (R213). -/
def writeRingSlot (r : Running) (k i : Nat) (bs : Bytes) (s : State) : State :=
  let d := r.ring i
  let g := s.ring k i
  let ps := pieces d g (d.slotBytes / 16 + 2) (g.wrote * d.slotBytes) bs.length
  let w := ps.foldl (fun (a : State × Bytes × Bool) p =>
    let x := bindWrite r (r.bind g.bind) p.1 (a.2.1.take p.2) a.1
    (x.1, a.2.1.drop p.2, a.2.2 || x.2)) (s, bs, false)
  let s := if w.2.2 then countChan r.chan 12 1 w.1 else w.1
  setRing k i (fun g => { g with wrote := g.wrote + 1, granted := 0 }) s

/-- Grant free tags to the first stream in order, for its next slot: until the slot has all of its own, that stream stays the first. A slot whose transfers all
have tags is issued, or written back (R274, R275). -/
def grantOne (r : Running) (k m : Nat) (s : State) : State :=
  let best := ((r.onMover m).filterMap fun i => wantOf r k i s).foldl (fun (b : Option Want) w => match b with
    | none => some w
    | some x => if w.before x then some w else b) none
  match best with
  | none => s
  | some w =>
    let n := min (freeTags r k m s) w.left
    if n < w.left then setRing k w.ring (fun g => { g with granted := g.granted + n }) s
    else if (r.ring w.ring).output then
      let b := r.fullBytes (s.cluster k) (s.ring k w.ring)
      writeRingSlot r k w.ring ((s.ring k w.ring).buf.take b) (setRing k w.ring (fun g => { g with buf := g.buf.drop b }) s)
    else setRing k w.ring (fun g => { g with issued := g.issued + 1, granted := 0 }) s

/-- Grant every tag that a mover can grant. -/
def grantMover (r : Running) (k : Nat) (s : State) (m : Nat) : State := (List.range 64).foldl (fun s _ => grantOne r k m s) s
/-- Index words taken, then every mover's grants, then index slots given back (R272, R275). -/
def fetchAll (r : Running) (k : Nat) (s : State) : State :=
  let feed := fun (s : State) => (List.range (kPhase r.kern.image r.run.phase).rings).foldl (feedIndexed r k) s
  feed ((List.range 4).foldl (grantMover r k) (feed s))

/-- The tags that a ring's stream leaves outstanding as it ends (R270, R277). -/
def Running.leaves (r : Running) (g : Ring) (ended : Bool) : List Owed :=
  let d := r.ring g.num
  let tags := (g.outstanding d.output).map (slotTags d g) ++ if g.back < g.granted then [g.granted - g.back] else []
  if tags.isEmpty then [] else [{ ring := g.num, mover := d.mover, gen := g.gen, output := d.output, tags := tags, ended := ended }]
/-- A response for a stream that is over: its tag is free; one that a boundary has retired is a late response (R270). -/
def owedResponse (k i gen : Nat) (output : Bool) (s : State) : Option (Bool × State) :=
  match (s.cluster k).owed.find? fun o => o.ring == i && o.output == output && (output || o.gen == gen) with
  | none => none
  | some o => some (o.retired, s.setCluster k fun c => { c with
      owed := if o.tags.length ≤ 1 then c.owed.erase o else c.owed.map fun p => if p == o then { p with tags := p.tags.drop 1 } else p })
/-- TICK_BOUNDARY: the tags of the stages that ended in the tick just closed are retired and free; writes among them are forgotten (R270). -/
def retireTags (s : State) : State :=
  (List.range s.clusters.length).foldl (fun s k => s.setCluster k fun c => { c with
    owed := (c.owed.filter fun o => !(o.ended && o.output)).map fun o => if o.ended then { o with retired := true } else o }) s

/-- The hinted cache takes a slot's lines read from T1 (R278); each keep line replaced advances KEEP_EVICT. -/
def cacheSlot (r : Running) (d : RingDesc) (g : Ring) (i : Nat) (s : State) : State :=
  match (r.object g).bind s.obj with
  | some o =>
    ((pieceLines (slotPieces d g i)).filter fun l => o.cachedPage s.self (l / 256)).foldl (fun s l => let c := cacheRead o.num l d.hint s; countChan r.chan 27 c.2 c.1) s
  | none => s

/-- HINT 3: once the stream has released a slot, its lines are the first to be replaced (R278). -/
def discardSlot (r : Running) (d : RingDesc) (g : Ring) (i : Nat) (s : State) : State :=
  match r.object g with
  | some n =>
    if d.hint != 3 then s
    else
      let ls := pieceLines (slotPieces d g i)
      let mine := fun (e : Nat × Nat × Bool) => e.1 == n && ls.contains e.2.1
      s.setMem fun m => { m with cache := m.cache.filter mine ++ m.cache.filter fun e => !mine e }
  | none => s

/-- Release `n` head slots of an input ring, clamped to those filled with RING_UNDERFLOW, and the same slots of its PAIR ring
(R217, R274). -/
def releaseOne (r : Running) (k i n : Nat) (s : State) : State :=
  let g := s.ring k i
  let m := min n g.slots.length
  let s := if m < n then countChan r.chan 26 1 s else s
  let s := (g.slots.take m).foldl (fun s p => discardSlot r (r.ring i) g p.1 s) s
  setRing k i (Ring.pass m s.frame.cycle) s
def releaseSlots (r : Running) (k i n : Nat) (s : State) : State :=
  let s := releaseOne r k i n s
  fetchAll r k (if (r.ring i).pair = 15 then s else releaseOne r k (r.ring i).pair n s)

/-- The bytes an operation takes from a ring's head slots, once they have arrived. -/
def headBytes (r : Running) (k i n : Nat) (s : State) : Option Bytes :=
  if n = 0 then some []
  else
    let slots := max 1 (ceilDiv n (max (r.ring i).slotBytes 1))
    let g := s.ring k i
    if g.slots.length < slots then none else some ((g.slots.take slots).flatMap fun p => p.2)
/-- Slots that `n` bytes take. -/
def slotsFor (r : Running) (i n : Nat) : Nat := max 1 (ceilDiv n (max (r.ring i).slotBytes 1))

/-! ## Output rings (R272, R274) -/

/-- Slots of an output ring that are filled or being filled and not yet free. -/
def slotsHeld (d : RingDesc) (g : Ring) (extra : Nat) : Nat := ceilDiv (g.buf.length + extra) (max d.slotBytes 1) + (g.wrote - g.acked)
/-- Has an active output ring room for `n` more bytes? -/
def ringRoom (r : Running) (k i n : Nat) (s : State) : Bool :=
  let g := s.ring k i
  g.active && (r.ring i).output && decide (slotsHeld (r.ring i) g n ≤ (r.ring i).slots)

/-- A drain or a Crown fills an output ring; a slot it fills competes for tags (R274, R275). -/
def fillRing (r : Running) (k i : Nat) (bs : Bytes) (s : State) : State :=
  grantMover r k (setRing k i (fun g => { g with buf := g.buf ++ bs }) s) (r.ring i).mover

/-- Every output ring's writes are acknowledged, and every atomic add (R200, R215). -/
def Cluster.quiet (c : Cluster) : Bool := c.rings.all (fun g => g.buf.isEmpty && g.wrote == g.acked) && c.adds == 0

end Sys2Proof.Machine
end

