-- ==== Sys2Proof/Machine/Batt.lean ====
section
/-! DEFINITION. The scoring array and the Batt: operands and their scale records, promotion, overflow, preloads, look-up mode
(R163–R167, R175, R177, R179, R186–R198). -/

namespace Sys2Proof.Machine

/-! ## Operands (R163–R167, R186) -/

/-- One operand of a product, as its rings' head slots hold it. Where a line's element stands is open (DESIGN CHOICE, log entry 17). -/
structure Operand where
  fmt : Nat
  lines : Nat
  /-- Reduction length of the operation. -/
  k : Nat
  data : Bytes
  recs : Bytes
  /-- Scale records of the stream that came before the head slot. -/
  base : Nat
  /-- Outlier channels of the product, their format, and a byte for each line and channel (R176). -/
  chans : Nat := 0
  outFmt : Fmt := .e4m3
  outs : Bytes := []

def Operand.format (x : Operand) : Fmt := (Fmt.ofCode x.fmt).getD .int4b
/-- Element value (R164); 0x8 of FP4 reads as 0. -/
def Operand.elem (x : Operand) (line i : Nat) : Fr := elemVal x.format (elemAt x.format x.data (Config.operandPos x.fmt x.lines x.k line i))
/-- Bytes of a scale record; 0 when the format has none here (R166). -/
def Operand.recBytes (x : Operand) : Nat := if x.format.blockScaled then 2 else if x.fmt = 1 ∨ x.fmt = 3 ∨ x.fmt = 5 then 8 else 0
/-- Scale records that the operand has (R166). -/
def Operand.recCount (x : Operand) : Nat :=
  if x.format.blockScaled then x.lines * ceilDiv x.k 32 else if x.fmt = 1 ∨ x.fmt = 5 then x.lines else if x.fmt = 3 then 1 else 0
/-- The record of a line's block (of its row, or of the tensor). -/
def Operand.record (x : Operand) (line block : Nat) : Bytes :=
  slice x.recs (x.recBytes * (if x.fmt = 3 then 0 else Config.recordPos x.fmt x.lines x.k line block)) x.recBytes
/-- E8M0 byte of a block (R166). -/
def Operand.expo (x : Operand) (line block : Nat) : Nat := fld (x.record line block) 1 1
/-- Zero point, row sum and row or tensor scale of a line (R166); a BIN scale of 0 means none. -/
def Operand.zp (x : Operand) (line : Nat) : Int := if x.fmt = 1 then ((fld (x.record line 0) 1 1 % 16 : Nat) : Int) else 0
def Operand.rowSum (x : Operand) (line : Nat) : Int := ((fld (x.record line 0) 4 4 : Nat) : Int)
def Operand.scale (x : Operand) (line : Nat) : Fr :=
  let c := fld (x.record line 0) 2 2
  if x.fmt = 1 then f16Scale c else if x.fmt = 5 then (if c = 0 then Fr.int 1 else f16Scale c)
  else if x.fmt = 3 then f32Scale (fld (x.record line 0) 4 4) else Fr.int 1
/-- The record of outlier channel `p` of the list: INDEX and E (R166). -/
def Operand.chanRec (x : Operand) (p : Nat) : Nat × Nat := let o := x.recCount * x.recBytes + 2 * p; (fld x.recs o 1, fld x.recs (o + 1) 1)
/-- A record whose INDEX is not that of its block, row or outlier position (R167). -/
def Operand.skewed (x : Operand) : Bool :=
  ((List.range x.recCount).any fun p => fld x.recs (p * x.recBytes) 1 != (if x.fmt = 3 then 0 else (x.base + p) % 256))
    || (List.range x.chans).any fun p => (x.chanRec p).1 != p
/-- The byte of a line's outlier channel `p`: one byte for each listed channel, row by row, in list order (R176). -/
def Operand.outByte (x : Operand) (line p : Nat) : Nat := fld x.outs (line * x.chans + p) 1
/-- Its value, scale included (R164, R165, R177), with what de-quantising it counts. -/
def Operand.outVal (x : Operand) (line p : Nat) : Word × ConvCount := dequant (Fr.mul (elemVal x.outFmt (x.outByte line p)) (e8m0 (x.chanRec p).2))
/-- Invalid scales and outlier bytes read (R164, R165). -/
def Operand.counts (x : Operand) : ConvCount :=
  let recs := (List.range x.recCount).map fun p =>
    let r := slice x.recs (p * x.recBytes) x.recBytes
    if x.format.blockScaled then e8m0Count (fld r 1 1)
    else if x.fmt = 3 then (if fmtF32.isFinite (fld r 4 4) && !fmtF32.sign (fld r 4 4) then {} else { nanIn := 1 })
    else f16Count (fld r 2 2)
  let chans := (List.range x.chans).map fun p => e8m0Count (x.chanRec p).2
  let bytes := (List.range x.lines).flatMap fun l => (List.range x.chans).map fun p => (elemCount x.outFmt (x.outByte l p)).add (x.outVal l p).2
  sumCounts (recs ++ chans ++ bytes)
/-- The outlier term O of an output row and column, an FP32 sum over the listed channels (R177, R194). -/
def outlierSum (a b : Operand) (r j : Nat) : Word := f32Sum ((List.range a.chans).map fun p => f32Mul (a.outVal r p).1 (b.outVal j p).1)

/-- Does one operand alone carry zero points, so that they enter with the products (R175)? -/
def zpInProduct (a b : Operand) : Bool := (a.fmt == 1) != (b.fmt == 1)
/-- The exact in-array sum of one promotion: elements `lo` up to `hi` of output row `r` and column `j` (R175, R186, R188). -/
def inArraySum (a b : Operand) (r j lo hi : Nat) : Fr :=
  let z := zpInProduct a b
  (List.range (hi - lo)).foldl (fun s i =>
    let va := a.elem r (lo + i)
    let vb := b.elem j (lo + i)
    let va := if z then Fr.sub va (Fr.int (a.zp r)) else va
    let vb := if z then Fr.sub vb (Fr.int (b.zp j)) else vb
    Fr.add s (Fr.mul va vb)) Fr.zero
/-- Sum of (E − 127) over the block-scaled operands, and whether a scale of 0 is among them (R165, R192). -/
def blockExp (a b : Operand) (r j block : Nat) : Int × Bool :=
  let one := fun (x : Operand) (line : Nat) => if x.format.blockScaled then ((x.expo line block : Int) - 127, x.expo line block == 255) else (0, false)
  ((one a r).1 + (one b j).1, (one a r).2 || (one b j).2)

/-! ## Tiles (R190, R191, R195) -/

/-- A tile of a set, none when FRESH. -/
def Cluster.tile (c : Cluster) (set i : Nat) : Option Tile := c.tiles.find? fun t => t.set == set && t.index == i
def Cluster.setTile (c : Cluster) (t : Tile) : Cluster :=
  { c with tiles := (c.tiles.filter fun u => !(u.set == t.set && u.index == t.index)) ++ [t] }
/-- A drain leaves its tile FRESH (R191). -/
def Cluster.freshen (c : Cluster) (set i : Nat) : Cluster := { c with tiles := c.tiles.filter fun u => !(u.set == set && u.index == i) }

/-- Sixteen rows of 256 entries, each from its place. -/
def tileRows (f : Nat → Nat → BEntry) : List (List BEntry) := (List.range 16).map fun i => (List.range 256).map fun j => f i j
def Tile.entry (t : Tile) (i j : Nat) : BEntry := (t.rows.getD i []).getD j {}
/-- Change every entry, knowing its place. -/
def Tile.mapEntries (t : Tile) (f : Nat → Nat → BEntry → BEntry) : Tile :=
  { t with rows := t.rows.zipIdx.map fun r => r.1.zipIdx.map fun e => f r.2 e.2 e.1 }

/-- Does a sum stay in 32 bits (R195)? -/
def inAcc (n : Int) : Bool := decide (-2147483648 ≤ n) && decide (n ≤ 2147483647)

/-- An integer promotion of a whole tile: value d with exponent e at each entry. On an overflow the tile is halved and the promotion repeated,
three times at most; answers the tile, none on the fourth overflow, and the halvings made (R192, R195). -/
def promoteInt (v : Nat → Nat → Int × Int) : (fuel : Nat) → Tile → Nat → Option Tile × Nat
  | 0, _, n => (none, n)
  | fuel + 1, t, n =>
    let u := t.mapEntries fun i j b => { b with acc := b.acc + shiftRne (v i j).1 ((v i j).2 - t.accExp) }
    if u.rows.all fun r => r.all fun b => inAcc b.acc then (some u, n)
    else if t.halvings = 3 then (none, n)
    else
      let h := t.mapEntries fun _ _ b => { b with acc := (Fr.rne ⟨b.acc, 2⟩) }
      promoteInt v fuel { h with accExp := t.accExp + 1, halvings := t.halvings + 1 } (n + 1)

/-- Would this compensated addition leave the FP32 range (R196, R201)? -/
def compOver (a : Comp) (x : Word) : Bool :=
  let t := f32Add a.s x
  f32Over (Fr.add (f32Val a.s) (f32Val x)) || f32Over (Fr.add (f32Lim a.c) (Fr.sub (Fr.add (f32Val a.s) (f32Val x)) (f32Val t)))
/-- A float promotion of a whole tile (R193, R196): the tile, and the entries whose S or C left the range. A value beyond the range itself is cut to the
limit as it enters. -/
def promoteFloat (v : Nat → Nat → Fr) (t : Tile) : Tile × Nat :=
  let past := fun (e : BEntry) (x : Fr) => f32Over x || compOver ⟨e.s, e.c⟩ (f32Of x)
  let beyond := (t.rows.zipIdx.map fun r => (r.1.zipIdx.filter fun e => past e.1 (v r.2 e.2)).length).foldl (· + ·) 0
  (t.mapEntries fun i j b => let a := Comp.add ⟨b.s, b.c⟩ (f32Of (v i j)); { b with s := a.s, c := a.c }, beyond)

/-- What an array operation has made of the Batt. -/
structure ArrayOut where
  cluster : Cluster
  retries : Nat := 0
  beyond : Nat := 0
  /-- The fourth overflow of a tile (R195). -/
  fault : Bool := false

/-- One tile's promotions of a product, in order (R188, R192, R193). `row0` is the output row of its tile row 0. -/
def tilePromotions (a b : Operand) (float : Bool) (row0 n k : Nat) (t : Tile) : Option Tile × Nat × Nat :=
  (List.range (ceilDiv k n)).foldl (fun (acc : Option Tile × Nat × Nat) q =>
    match acc.1 with
    | none => acc
    | some t =>
      let lo := q * n
      let hi := min k (lo + n)
      let e := fun i j => blockExp a b (row0 + i) j (lo / 32)
      if float then
        let r := promoteFloat (fun i j => if (e i j).2 then Fr.zero else Fr.mul (inArraySum a b (row0 + i) j lo hi) (Fr.dy 1 (e i j).1)) t
        (some r.1, acc.2.1, acc.2.2 + r.2)
      else
        let r := promoteInt (fun i j => if (e i j).2 then (0, 0) else ((inArraySum a b (row0 + i) j lo hi).num, (e i j).1)) 4 t 0
        (r.1, acc.2.1 + r.2, acc.2.2)) (some t, 0, 0)

/-- ACC_EXP of a tile's first promotion: the instruction's, or AUTO from the first block pair of the tile's first entry (R192, DESIGN CHOICE, log entry 17). -/
def firstExp (o : ArrayOp) (a b : Operand) (row0 : Nat) : Int :=
  if !o.accAuto then sN 10 o.accExp
  else if a.format.blockScaled || b.format.blockScaled then (blockExp a b row0 0 0).1 - 8 else 0

/-- Scale product, per-tile corrections and outlier term of each entry (R175, R177, R190, R192, R194). The row sums enter once, with the
tile's first product (DESIGN CHOICE, log entry 17). -/
def tileTerms (a b : Operand) (float first : Bool) (row0 : Nat) (t : Tile) : Tile :=
  let both := a.fmt == 1 && b.fmt == 1
  t.mapEntries fun i j e =>
    let r := row0 + i
    let corr := if both then
        (if first then -(b.zp j) * a.rowSum r - a.zp r * b.rowSum j else 0) + (a.k : Int) * a.zp r * b.zp j
      else 0
    let e := { e with f := f32Of (Fr.mul (a.scale r) (b.scale j)), corr := e.corr + corr }
    if a.chans = 0 then e
    else
      let x := outlierSum a b r j
      if float then (let c := Comp.add ⟨e.s, e.c⟩ x; { e with s := c.s, c := c.c }) else if fmtF32.isInf e.side.toNat then e else { e with side := f32Add e.side x }
/-- Entries of a tile whose outlier term leaves the FP32 range as it enters (R196). -/
def termsOver (a b : Operand) (float : Bool) (row0 : Nat) (t : Tile) : Nat :=
  if a.chans = 0 then 0
  else sumOver (fun (r : List BEntry × Nat) => (r.1.zipIdx.filter fun e =>
    let x := outlierSum a b (row0 + r.2) e.2
    if float then compOver ⟨e.1.s, e.1.c⟩ x else !fmtF32.isInf e.1.side.toNat && f32Over (Fr.add (f32Val e.1.side) (f32Val x))).length) t.rows.zipIdx

/-- A product into the tile span of an MMA or BINARY (R186–R196). -/
def product (o : ArrayOp) (steps : Nat) (a b : Operand) (c : Cluster) : ArrayOut :=
  let g := groupOf o.group
  let k := steps * g * productsPerCell o.fmtA o.fmtB
  let m := (pairMode o.fmtA o.fmtB g).getD (false, 1)
  let n := max 1 (m.2 * g * productsPerCell o.fmtA o.fmtB)
  if steps = 0 then { cluster := c }
  else (List.range (16 / g)).foldl (fun (acc : ArrayOut) i =>
    if acc.fault then acc
    else
      let row0 := 16 * i
      let old := acc.cluster.tile acc.cluster.active (o.tile + i)
      let first := old.isNone || (old.map Tile.preloaded).getD false
      let base : Tile := old.getD { set := acc.cluster.active, index := o.tile + i, float := m.1, rows := tileRows fun _ _ => {} }
      let t := if first then { base with float := m.1, preloaded := false, accExp := firstExp o a b row0 } else base
      let r := tilePromotions a b t.float row0 n k t
      match r.1 with
      | none => { acc with retries := acc.retries + r.2.1, fault := true }
      | some u =>
        { acc with
          cluster := acc.cluster.setTile (tileTerms a b u.float first row0 u), retries := acc.retries + r.2.1
          beyond := acc.beyond + r.2.2 + termsOver a b u.float row0 u })
    { cluster := c }

/-! ## Look-up mode (R179, R193) -/

/-- Elements of codebook group `i` of an activation, cut where a block scale changes. -/
def Lut.segments (l : Lut) (i : Nat) : List (List Nat) :=
  let js := (List.range l.glen).map (· + i * l.glen)
  if ((Fmt.ofCode l.fmtA).getD .int4b).blockScaled then (dedupBy id (js.map (· / 32))).map fun m => js.filter fun j => j / 32 == m else [js]
/-- The activation of a table as an operand. -/
def Lut.operand (l : Lut) : Operand := { fmt := l.fmtA, lines := l.lines, k := l.k, data := l.act, recs := l.recs, base := l.base }
/-- Entry [i][c] of the table of an output row: Σ a_j × σ_i × n_j(c), formed as R123 forms it for search: exactly within a scale block, the block sums added in
FP32 in ascending order (R179, DEDUCED, log entry 17). -/
def Lut.entry (l : Lut) (row i c : Nat) : Word :=
  let x := l.operand
  let book := slice l.books (i * bookSize l.fmtB l.glen) (bookSize l.fmtB l.glen)
  let sg := f16Scale (fld book 0 2)
  f32Sum ((l.segments i).map fun js =>
    let sc := if x.format.blockScaled then e8m0 (x.expo row (js.headD 0 / 32)) else x.scale row
    let d := js.foldl (fun (s : Fr) j =>
      Fr.add s (Fr.mul (Fr.sub (x.elem row j) (Fr.int (x.zp row))) (Fr.int (s4 (nibble (book.drop 2) (c * l.glen + (j - i * l.glen))))))) Fr.zero
    f32Of (Fr.mul (Fr.mul sc sg) d))
/-- Invalid scales that building a table reads (R165). -/
def Lut.counts (l : Lut) : ConvCount :=
  l.operand.counts.add (sumCounts ((List.range (l.k / max l.glen 1)).map fun i => f16Count (fld l.books (i * bookSize l.fmtB l.glen) 2)))

/-- LUT_SCAN: each step sums g table entries as a chain in ascending group order and promotes the sum (R193). -/
def lutScan (o : ArrayOp) (steps : Nat) (codes : Bytes) (c : Cluster) : ArrayOut :=
  let g := groupOf o.group
  let f := (Fmt.ofCode o.fmtB).getD .cb4
  let entry := match c.lut with
    | some l => l.entry
    | none => Config.noTable
  let code := fun j i => elemAt f codes (Config.operandPos o.fmtB 256 (steps * g) j i)
  let sum := fun r j q => f32Sum ((List.range g).map fun i => entry r (q * g + i) (code j (q * g + i)))
  if steps = 0 then { cluster := c }
  else (List.range (16 / g)).foldl (fun (acc : ArrayOut) i =>
    let old := acc.cluster.tile acc.cluster.active (o.tile + i)
    let base : Tile := old.getD { set := acc.cluster.active, index := o.tile + i, float := true, rows := tileRows fun _ _ => {} }
    let r := (List.range steps).foldl (fun (t : Tile × Nat) q =>
      let p := promoteFloat (fun x j => f32Val (sum (16 * i + x) j q)) t.1
      (p.1, t.2 + p.2)) ({ base with float := true, preloaded := false }, 0)
    { acc with cluster := acc.cluster.setTile r.1, beyond := acc.beyond + r.2 }) { cluster := c }

/-! ## Preloads (R194, R198) -/

/-- FP32 of preload element `i`: a NaN is written as 0 (R198); the ring's descriptor fixes the format. -/
def preloadElem (bf16 : Bool) (bs : Bytes) (i : Nat) : Word × ConvCount :=
  let w := if bf16 then bf16ToF32 (fld bs (2 * i) 2) else BitVec.ofNat 32 (fld bs (4 * i) 4)
  if fmtF32.isNaN w.toNat then (0, { nanIn := 1 }) else (w, {})

/-- A preload replaces what the tile of the shadow set holds (R194, R198); a row is broadcast to all 16 tile rows. -/
def preload (row bf16 : Bool) (index : Nat) (bs : Bytes) (c : Cluster) : Cluster × ConvCount :=
  let n := if row then 256 else 4096
  let e := fun i j => (preloadElem bf16 bs (if row then j else 256 * i + j)).1
  let t : Tile := { set := 1 - c.active, index := index, float := false, preloaded := true
                    rows := tileRows fun i j => { side := e i j, c := e i j } }
  (c.setTile t, sumCounts ((List.range n).map fun i => (preloadElem bf16 bs i).2))

end Sys2Proof.Machine
end

