-- ==== Sys2Proof/Machine/Crown.lean ====
section
/-! DEFINITION. The Crown: rank order, selection over a span, the two sums, list records and their merge (R236–R245). -/

namespace Sys2Proof.Machine

/-- Is `a` better than `b` under a SEL operation (R236)? BOTTOMK and ARGMIN take the lower. -/
def selBetter (op : Nat) (a b : Word) : Bool := if op = 2 ∨ op = 4 then f32Lt a b else f32Lt b a

/-- The lowest finite FP32 value: M when nothing was seen (R240). -/
def f32Lowest : Word := 0xFF7FFFFF

/-- The Crown's running maximum and its two sums (R241). -/
structure CrownSum where
  m : Word := f32Lowest
  seen : Bool := false
  sel : Comp := ⟨0, 0⟩
  out : Comp := ⟨0, 0⟩

/-- e^v as a Crown forms it (R241). -/
def crownExp (v : Word) : Word := (expWord (Config.expF32 v) (f32Val v)).1

/-- Raise the maximum: with EXP both sums are multiplied by e^(M_old − M_new) (R241). -/
def CrownSum.raise (a : CrownSum) (exp : Bool) (v : Word) : CrownSum :=
  if a.seen && !f32Lt a.m v then a
  else
    let f := if a.seen && exp then crownExp (f32Sub a.m v) else f32One
    let scale := fun (c : Comp) => if a.seen && exp then (⟨f32Mul c.s f, f32Mul c.c f⟩ : Comp) else c
    { m := v, seen := true, sel := scale a.sel, out := scale a.out }
where
  f32One : Word := 0x3F800000

/-- One decided value enters one of the sums (R241). -/
def CrownSum.take (exp : Bool) (a : CrownSum) (x : Word × Bool) : CrownSum :=
  let a := a.raise exp x.1
  let t := if exp then crownExp (f32Sub x.1 a.m) else x.1
  if x.2 then { a with sel := a.sel.add t } else { a with out := a.out.add t }

/-- Entries beyond the first `k` whose value equals that of the last selected (R240 TIED_OUT). -/
def tiedOut (k : Nat) (l : List (Nat × Word)) : Nat :=
  match (l.take k).getLast? with
  | some e => ((l.drop k).filter fun x => f32Eq x.2 e.2).length
  | none => 0

/-- The selection of one tensor row: `vals` are (index, value) in input order, `k` the K in force; the order in which the Crown decides the
values is open (R174, DESIGN CHOICE, log entry 5). -/
def selectRow (op k : Nat) (exp : Bool) (draw row : Nat) (vals : List (Nat × Word)) : CList :=
  let ranked := sortBy (fun a b => selBetter op a.2 b.2) vals
  let keep := if op = 5 then 0 else if op = 3 ∨ op = 4 then 1 else k
  let marked := ranked.zipIdx.map fun p => (p.1.2, decide (p.2 < keep))
  let sums := (permuteBy draw marked.length 0 marked).foldl (CrownSum.take exp) {}
  { row := row, entries := ranked.take keep, seen := vals.length, tied := if keep = 0 then 0 else tiedOut keep ranked
    m := sums.m, sumSel := sums.sel.val, sumOut := sums.out.val, op := op, exp := exp
    radix := decide (1024 < min keep vals.length) }

/-- Results of a span, in ascending tensor row (R237, R238); each row's values in delivery order. -/
def Span.results (sp : Span) (draw : Nat) : List CList :=
  let rows := sortBy (fun (a b : Nat) => decide (a < b)) (dedupBy id (sp.values.map fun v => v.1))
  rows.zipIdx.map fun r => selectRow sp.op sp.k sp.exp (draw + r.2) r.1 ((sp.values.filter fun v => v.1 == r.1).map Prod.snd)

/-- Remove entries whose INDEX has come before in rank order (R244). -/
def dedupEntries (l : List (Nat × Word)) : List (Nat × Word) := dedupBy Prod.fst l

/-- The merge of one row's records, in the order of their members (R244, R245): K entries of all members' entries; what is left out joins the
members' own left-out sums, rescaled to the largest M with EXP. The order of summation is open (DESIGN CHOICE, log entry 5). -/
def mergeRow (op k draw : Nat) (recs : List CList) : CList :=
  let rank := (recs.headD { row := 0, entries := [], seen := 0, tied := 0, m := 0, sumSel := 0, sumOut := 0, op := 1, exp := false }).op
  let exp := recs.any CList.exp
  let all := sortBy (fun (a b : Nat × Word) => selBetter rank a.2 b.2) (recs.flatMap CList.entries)
  let l := dedupEntries all
  let removed := all.length - l.length
  let seenRecs := recs.filter fun r => decide (0 < r.seen)
  let m := seenRecs.foldl (fun m r => if f32Lt m r.m then r.m else m) f32Lowest
  let term := fun (v : Word) => if exp then crownExp (f32Sub v m) else v
  let outs := (seenRecs.map fun r => if exp then f32Mul r.sumOut (crownExp (f32Sub r.m m)) else r.sumOut) ++ (l.drop k).map fun e => term e.2
  let sum := fun (i : Nat) (xs : List Word) => ((permuteBy (draw + i) xs.length 0 xs).foldl Comp.add ⟨0, 0⟩).val
  { row := (recs.headD { row := 0, entries := [], seen := 0, tied := 0, m := 0, sumSel := 0, sumOut := 0, op := 1, exp := false }).row
    entries := l.take k, seen := (recs.map CList.seen).foldl (· + ·) 0 - removed, tied := if k = 0 then 0 else tiedOut k l
    m := m, sumSel := sum 0 ((l.take k).map fun e => term e.2), sumOut := sum 1 outs, op := op, exp := exp
    dup := decide (0 < removed) || recs.any CList.dup, radix := decide (1024 < min k l.length) }

/-- Merge members' record lists row by row, in ascending row (R244). -/
def mergeRecords (op k draw : Nat) (members : List (List CList)) : List CList :=
  let rows := sortBy (fun (a b : Nat) => decide (a < b)) (dedupBy id (members.flatten.map CList.row))
  rows.zipIdx.map fun r => mergeRow op k (draw + 2 * r.2) (members.filterMap fun l => l.find? fun x => x.row == r.1)

/-! ## Bytes of a record (R240) -/

def clistBytes (r : CList) : Bytes :=
  let n := r.entries.length
  leBytes 4 r.row ++ leBytes 4 n ++ leBytes 4 r.seen ++ leBytes 4 r.tied ++ leBytes 4 r.m.toNat ++ leBytes 4 r.sumSel.toNat ++ leBytes 4 r.sumOut.toNat
    ++ leBytes 1 r.op ++ leBytes 1 (flag r.exp 0 + flag r.dup 1 + flag r.radix 2 + flag r.part 3) ++ zeros 2
    ++ (r.entries.flatMap fun e => leBytes 4 e.1 ++ leBytes 4 e.2.toNat) ++ (if n % 2 = 1 then zeros 8 else [])

/-- Read one record (R240). -/
def clistAt (bs : Bytes) (off : Nat) : CList :=
  let f := fun o n => fld bs (off + o) n
  let w := fun o => BitVec.ofNat 32 (f o 4)
  { row := f 0 4, entries := (List.range (min (f 4 4) 65535)).map fun i => (f (32 + 8 * i) 4, w (36 + 8 * i)), seen := f 8 4, tied := f 12 4
    m := w 16, sumSel := w 20, sumOut := w 24, op := f 28 1 % 16, exp := bit (f 29 1) 0, dup := bit (f 29 1) 1, radix := bit (f 29 1) 2, part := bit (f 29 1) 3 }

/-- Length of a record of `n` entries. -/
def clistLen (n : Nat) : Nat := 32 + roundUp (8 * n) 16

/-- The records of a slot: `n` of them with nonzero OP, none when the slot is absent (R327). -/
def clistsFrom (bs : Bytes) : (n off : Nat) → Option (List CList)
  | 0, _ => some []
  | n + 1, off =>
    let r := clistAt bs off
    if r.op = 0 ∨ bs.length < off + clistLen r.entries.length then none
    else (clistsFrom bs n (off + clistLen r.entries.length)).map fun l => r :: l

end Sys2Proof.Machine
end

