-- ==== Sys2Proof/Machine/Epilogue.lean ====
section
/-! DEFINITION. The epilogue: the stages of a drain from Batt entry to delivery (R168–R173, R176–R182, R198–R204, R219, R237, R239). -/

namespace Sys2Proof.Machine

/-- What an operation in a unit comes to: it waits, it completes, or it ends the stage with a fault of class 5 (R61). -/
inductive Done where
  | waits
  | ok (s : State)
  | fault (s : State) (code detail : Nat)

/-! ## Stages 1 to 5 (R201) -/

/-- An FP32 result with the count of its saturation (R201). -/
def stage (a : Fr) : Word × Nat := (f32Of a, if f32Over a then 1 else 0)

/-- Stage 1 of one entry (R190, R201). -/
def combineEntry (t : Tile) (b : BEntry) : Word × Nat :=
  if t.float then stage (Fr.add (f32Val b.s) (f32Lim b.c))
  else
    let x := stage (Fr.mul (f32Val (f32Int b.acc)) (f32Val b.f))
    let y := stage (Fr.mul (f32Val x.1) (Fr.dy 1 t.accExp))
    let z := stage (Fr.add (f32Val y.1) (f32Lim b.side))
    (z.1, x.2 + y.2 + z.2)

/-- The per-tile corrections enter before the combine, with shift −ACC_EXP (R192, R195). -/
def correctTile (t : Tile) : Option Tile × Nat :=
  if t.float then (some t, 0) else promoteInt (fun i j => ((t.entry i j).corr, 0)) 4 t 0

/-- An element of an epilogue vector: a NaN or infinity counts and acts as 0 (R170, R201). -/
def vecElem (bf16 : Bool) (bs : Bytes) (i : Nat) : Word × ConvCount :=
  let w := if bf16 then bf16ToF32 (fld bs (2 * i) 2) else BitVec.ofNat 32 (fld bs (4 * i) 4)
  if fmtF32.isNaN w.toNat then (0, { nanIn := 1 }) else if fmtF32.isInf w.toNat then (0, { infIn := 1 }) else (w, {})

/-- Activation (R202). -/
def activate (code p : Nat) (v : Word) : Word × Nat :=
  let relu := if f32Lt 0 v then v else 0
  match code with
  | 0 => (v, 0)
  | 1 => (relu, 0)
  | 2 => (if f32Lt (bf16ToF32 p) relu then bf16ToF32 p else relu, 0)
  | 7 => let r := expWord (Config.activation 7 v) (f32Val v); (r.1, flag r.2 0)
  | _ => (nearWord (Config.activation code v) (actVal code (f32Val v)), 0)

/-- What stages 2 to 5 take besides the values. -/
structure EpiIn where
  alpha : Nat → Word
  bias : Nat → Word
  off : Nat → Word
  useAlpha : Bool
  useBias : Bool
  useOff : Bool

/-- Stages 2 to 5 of the value at tile row i, tile column j. -/
def epiValue (e : EpiOp) (x : EpiIn) (i j : Nat) (v : Word) : Word × Nat :=
  let a := if x.useAlpha then stage (Fr.mul (f32Val v) (f32Val (x.alpha j))) else (v, 0)
  let b := if x.useBias then stage (Fr.add (f32Val a.1) (f32Val (x.bias j))) else (a.1, 0)
  let c := if x.useOff then stage (Fr.sub (f32Val b.1) (f32Val (x.off i))) else (b.1, 0)
  let d := activate e.act e.actP c.1
  (d.1, a.2 + b.2 + c.2 + d.2)

/-! ## Stage 6: conversion (R168–R173, R176, R178, R181, R182, R203) -/

/-- What a conversion works under. -/
structure ConvIn where
  f : Fmt
  static : Bool
  stochastic : Bool
  threshold : Nat
  /-- Columns and rows of the tensor. -/
  columns : Nat
  rows : Nat
  /-- Its outlier channels. -/
  outl : Nat → Bool

/-- The running state of a conversion: generator, re-runs left, free count; the scale records of a sizing pass, the counts, and the records that re-runs put in
place of supplied ones, by their place among those. -/
structure Conv where
  gen : BitVec 64
  rerun : Nat
  free : Nat
  recs : Bytes := []
  counts : ConvCount := {}
  fixes : List (Nat × Bytes) := []

/-- Draws for `n` elements. -/
def Conv.draws (c : Conv) (x : ConvIn) (n : Nat) : Option (List Nat) × Conv :=
  let d := drawsFor x.stochastic c.free n c.gen
  (d.2, { c with gen := d.1, free := c.free + 1 })
def Conv.count (c : Conv) (n : ConvCount) : Conv := { c with counts := c.counts.add n }

/-- Is a span under a static scale all zeros from nonzero input (R182)? `z` is the code of 0. -/
def underflows (z : Nat) (xs : List Word) (codes : List Nat) : ConvCount :=
  if xs.any (fun w => (f32Val w).num != 0) && codes.all fun k => k == z then { underflowBlocks := 1 } else {}

/-- Blocks of 32 in a tile row. -/
def ConvIn.blocks (x : ConvIn) (col : Nat) : Nat := ceilDiv (min 256 (x.columns - col)) 32
/-- INDEX of block `m` of row `i` of a tile (R166, R203). -/
def ConvIn.blockIndex (x : ConvIn) (t : HeldTile) (i m : Nat) : Nat := ((t.row + i) * (x.columns / 32) + t.col / 32 + m) % 256

/-- A supplied record whose INDEX is not that of its block, row or tensor (R167). -/
def ConvIn.skewed (x : ConvIn) (t : HeldTile) : Bool :=
  let n := x.blocks t.col
  x.static && (if x.f.blockScaled then (List.range 16).any fun i => (List.range n).any fun m => fld t.given (2 * (i * n + m)) 1 != x.blockIndex t i m
    else if x.f = .uint4z then (List.range 16).any fun i => fld t.given (8 * i) 1 != (t.row + i) % 256
    else x.f = .fp4t && fld t.given 0 1 != 0)

/-- One block of 32 columns: block `m` of row `i` of a tile. A static block with too many saturated elements is re-run while the allowance lasts, and its new
record takes the place of the supplied one (R181, R182). -/
def convBlock (x : ConvIn) (t : HeldTile) (i m : Nat) (xs : List Word) (c : Conv) : List Nat × Conv :=
  let d := c.draws x xs.length
  let record := fun (e : Nat) => leBytes 1 (x.blockIndex t i m) ++ leBytes 1 e
  if !x.static then
    let b := sizeBlock x.f xs d.1
    (b.2.1, { d.2 with recs := d.2.recs ++ record b.1, counts := d.2.counts.add b.2.2 })
  else
    let p := i * x.blocks t.col + m
    let e := fld t.given (2 * p + 1) 1
    let c := d.2.count (e8m0Count e)
    let r := convertScaled staticRule x.f (e8m0 e) 0 xs d.1
    if r.2.1 < x.threshold then (r.1, c.count (r.2.2.add (underflows 0 xs r.1)))
    else if c.rerun = 0 then (r.1, c.count (r.2.2.add { satUnfixed := 1 }))
    else
      let d := c.draws x xs.length
      let b := sizeBlock x.f xs d.1
      (b.2.1, { d.2.count (b.2.2.add { satRerun := 1 }) with rerun := d.2.rerun - 1, fixes := d.2.fixes ++ [(2 * p, record b.1)] })

/-- A tile row in a block-scaled format. -/
def convBlocks (x : ConvIn) (t : HeldTile) (i : Nat) (xs : List Word) (c : Conv) : List Nat × Conv :=
  (chunks 32 xs).zipIdx.foldl (fun (a : List Nat × Conv) b => let r := convBlock x t i b.2 b.1 a.2; (a.1 ++ r.1, r.2)) ([], c)

/-- Row `i` of the tensor rows that begin at a tile, whole, in UINT4Z (R169). Under a static scale every span of 32 is judged, and a re-run sizes the row
(R181, R182). -/
def convRowZ (x : ConvIn) (t : HeldTile) (i : Nat) (xs : List Word) (c : Conv) : List Nat × Conv :=
  let record := fun (z : RowZ) => rowRecord ((t.row + i) % 256) z.zp z.scale z.rowSum
  let outl := fun j => x.outl (t.col + j)
  let d := c.draws x xs.length
  if !x.static then
    let z := sizeRowZ dynamicRule xs outl d.1
    (z.codes, { d.2.count z.counts with recs := d.2.recs ++ record z })
  else
    let sc := fld t.given (8 * i + 2) 2
    let zp := fld t.given (8 * i + 1) 1 % 16
    let c := d.2.count (f16Count sc)
    let clean := withoutOutliers xs outl
    let es := clean.zipIdx.map fun w => (w.1, convertElem staticRule .uint4z (f16Scale sc) zp w.1 (d.1.map fun (l : List Nat) => l.getD w.2 0))
    let hot := (chunks 32 es).filter fun b => decide (x.threshold ≤ (b.filter fun e => e.2.2.1).length)
    if hot.isEmpty || c.rerun == 0 then
      let cold := (chunks 32 es).filter fun b => decide ((b.filter fun e => e.2.2.1).length < x.threshold)
      (es.map fun e => e.2.1, c.count (sumCounts ([{ satUnfixed := hot.length }] ++ es.map (fun e => e.2.2.2)
        ++ cold.map fun b => underflows zp (b.map Prod.fst) (b.map fun e => e.2.1))))
    else
      let d := c.draws x xs.length
      let z := sizeRowZ dynamicRule xs outl d.1
      (z.codes, { d.2.count (z.counts.add { satRerun := 1 }) with rerun := d.2.rerun - 1, fixes := d.2.fixes ++ [(8 * i, record z)] })

/-- A row of BIN, whole: the row scale is the mean magnitude of its finite elements (R164, R169, R170). -/
def convRowBin (x : ConvIn) (t : HeldTile) (i : Nat) (xs : List Word) (c : Conv) : List Nat × Conv :=
  let codes := xs.map fun w => if f32Lt 0 w then 1 else 0
  let mean := Fr.div (xs.foldl (fun a w => Fr.add a (f32Val w).abs) Fr.zero) (Fr.int (max xs.length 1))
  (codes, if x.static then c else { c with recs := c.recs ++ rowRecord ((t.row + i) % 256) 0 (fmtF16.ofFrSat mean) (codes.foldl (· + ·) 0) })

/-- A tile row in FP4T under the tensor's scale: never re-run; spans are judged in static mode only (R168, R182). -/
def convRowT (x : ConvIn) (scale : Fr) (xs : List Word) (c : Conv) : List Nat × Conv :=
  (chunks 32 xs).foldl (fun (a : List Nat × Conv) b =>
    let d := a.2.draws x b.length
    let r := convertScaled (if x.static then staticRule else dynamicRule) .fp4t scale 0 b d.1
    let n : ConvCount := if !x.static then {} else if x.threshold ≤ r.2.1 then { satUnfixed := 1 } else underflows 0 b r.1
    (a.1 ++ r.1, d.2.count (r.2.2.add n))) ([], c)

/-- The values of the tensor's rows in a tile: rows beyond ROWS are none of it. -/
def ConvIn.valid (x : ConvIn) (t : HeldTile) : List (List Word) := t.vals.take (x.rows - t.row)

/-- The FP4T scale of a tensor from all its tiles, or the one supplied (R165, R168). -/
def ConvIn.tensorScale (x : ConvIn) (tiles : List HeldTile) : Nat :=
  if x.static then fld ((tiles.map HeldTile.given).headD []) 4 4
  else (f32Of (Fr.div (amax (tiles.flatMap fun t => (x.valid t).flatMap fun r => withoutOutliers r fun j => x.outl (t.col + j))) (Fr.int 6))).toNat

/-- Cut a row's codes into those of its tiles. -/
def cutCodes (tiles : List HeldTile) (codes : List Nat) : List (List Nat) :=
  tiles.map fun t => (codes.drop (t.col - ((tiles.map HeldTile.col).foldl min t.col))).take (t.vals.headD []).length

/-- Convert the rows that some tiles hold together, whole rows at a time: for each row, the codes of each tile's part. -/
def convRows (x : ConvIn) (tiles : List HeldTile) (c : Conv) : List (List (List Nat)) × Conv :=
  let ts := sortBy (fun (a b : HeldTile) => decide (a.col < b.col)) tiles
  match ts with
  | [] => ([], c)
  | t :: _ => (List.range 16).foldl (fun (a : List (List (List Nat)) × Conv) i =>
      let xs := ts.flatMap fun u => u.vals.getD i []
      let r := if x.f = .uint4z then convRowZ x t i xs a.2 else convRowBin x t i xs a.2
      (a.1 ++ [cutCodes tiles r.1], r.2)) ([], c)

/-- Convert one tile whose scales lie within it or are the tensor's: the codes of each row. -/
def convTile (x : ConvIn) (scale : Fr) (t : HeldTile) (c : Conv) : List (List Nat) × Conv :=
  t.vals.zipIdx.foldl (fun (a : List (List Nat) × Conv) r =>
    -- an outlier channel holds element 0 and enters no sizing (R176)
    let xs := withoutOutliers r.1 fun j => x.outl (t.col + j)
    let o : List Nat × Conv := match x.f with
      | .fp32 => (r.1.map BitVec.toNat, a.2)
      | .bf16 => (r.1.map f32ToBF16, a.2)
      | .fp4t => convRowT x scale xs a.2
      | .int4b | .mxfp4 | .int2b | .uint4b => convBlocks x t r.2 xs a.2
      -- no rule forms codebook codes or FP8 elements from an epilogue's values: open (DESIGN CHOICE, log entry 17)
      | _ => ((List.range r.1.length).map fun j => Config.freeNat (a.2.free + j), { a.2 with free := a.2.free + r.1.length })
    (a.1 ++ [o.1], o.2)) ([], c)

/-- Convert the tiles that one set of scales covers: the bytes of each tile, row by row (R163), and the conversion's state (R203). -/
def convGroup (x : ConvIn) (tiles : List HeldTile) (c : Conv) : List Bytes × Conv :=
  let pack := fun (rows : List (List Nat)) => rows.flatMap (packElems x.f)
  if x.f = .uint4z ∨ x.f = .bin then
    -- row tiles one after another, each a whole band of 16 rows
    let bands := dedupBy id (tiles.map HeldTile.row)
    let r := bands.foldl (fun (a : List (Nat × List (List (List Nat))) × Conv) b =>
      let o := convRows x (tiles.filter fun t => t.row == b) a.2
      (a.1 ++ [(b, o.1)], o.2)) ([], c)
    (tiles.map fun t =>
      let band := ((r.1.find? fun b => b.1 == t.row).map Prod.snd).getD []
      let k := (tiles.filter fun u => u.row == t.row).idxOf t
      pack (band.map fun row => row.getD k []), r.2)
  else
    let sc := x.tensorScale tiles
    let c := if x.f = .fp4t ∧ x.static = true ∧ !(fmtF32.isFinite sc && !fmtF32.sign sc) = true then c.count { nanIn := 1 } else c
    let r := tiles.foldl (fun (a : List Bytes × Conv) t => let o := convTile x (f32Scale sc) t a.2; (a.1 ++ [pack o.1], o.2)) ([], c)
    (r.1, if x.f = .fp4t ∧ x.static = false then { r.2 with recs := zeros 4 ++ leBytes 4 sc } else r.2)

/-! ## Automatic outlier channels (R178) -/

/-- The N channels of greatest magnitude over the tensor, ties to the lower, ascending. -/
def greatestChannels (n : Nat) (x : ConvIn) (tiles : List HeldTile) : List Nat :=
  let mag := fun (j : Nat) => (tiles.filter fun t => decide (t.col ≤ j)).foldl (fun m t =>
    (x.valid t).foldl (fun m r => Fr.max m (f32Val (r.getD (j - t.col) 0)).abs) m) Fr.zero
  sortBy (fun a b => decide (a < b))
    (((sortBy (fun (a b : Nat × Fr) => Fr.lt b.2 a.2) ((List.range x.columns).map fun j => (j, mag j))).take n).map Prod.fst)
/-- A list word (R176). -/
def listWord (l : List Nat) : Bytes := (l.flatMap (leBytes 2)) ++ List.replicate (32 - 2 * l.length) 0xFF

/-! ## The drain -/

/-- Members of a split group as physical clusters, in logical order (R199, R208). -/
def Running.group (r : Running) (g : Nat) : List Nat := (splitMembers r.kern.image g).map fun i => r.kern.clusters.getD i 99
/-- The group's home. -/
def Running.home (r : Running) (g : Nat) : Nat := (r.group g).headD 99

/-- Partials of a split tile that have arrived, one of each member, in order of arrival (R199). -/
def Cluster.partialsOf (c : Cluster) (cmd phase group tile : Nat) : List Partial :=
  dedupBy Partial.src (c.partials.filter fun p => p.cmd == cmd && p.phase == phase && p.group == group && p.tile == tile && p.arrived)

/-- Atomic adds that go to another member (R200, R316, R324): a part of at most 256 bytes of a tile row, by the target's global address. -/
def sendAdds (r : Running) (b : Option BindTo) (code off : Nat) (operand : Bytes) (s : State) : State :=
  match b with
  | some (.object n) => match s.obj n with
    | some o =>
      sendToHome r.cmd o 0x04 1 off (leBytes 1 code ++ leBytes 8 (o.globalAddr off) ++ leBytes 2 operand.length) operand s
    | none => s
  | _ => s

/-- One tile row of FP32 or BF16 adds to the atomic target (R200, R213). What the home of another member's pages is sent stands in this member's view of the
object too (DESIGN CHOICE, log entry 9). -/
def atomicRow (r : Running) (b : Option BindTo) (bf16 : Bool) (off : Nat) (xs : List Word) (s : State) : State :=
  let n := if bf16 then 2 else 4
  let old := bindRead r b off (n * xs.length) s
  let fm := if bf16 then fmtBF16 else fmtF32
  let add := xs.map fun x => if bf16 then f32ToBF16 x else x.toNat
  let new := add.zipIdx.flatMap fun p => leBytes n (ieeeAdd fm (s.free + p.2) (fld old.1 (n * p.2) n) p.1)
  let s := { s with free := s.free + xs.length }
  -- one packet for each granule that the row touches
  let s := (granulesOf off (n * xs.length)).foldl (fun s g =>
    let lo := max off (256 * g)
    let hi := min (off + n * xs.length) (256 * g + 256)
    sendAdds r b (if bf16 then 4 else 3) lo (slice (add.flatMap (leBytes n)) (lo - off) (hi - lo)) s) s
  let w := bindWrite r b off new s
  if w.2 then countChan r.chan 12 1 w.1 else w.1
where
  granulesOf (a n : Nat) : List Nat := (List.range ((a + n + 255) / 256 - a / 256)).map (· + a / 256)

/-- One tile row of adds to a table row in its own narrow format: the row slot at the address, the tile's columns of the row (R200, R262,
DESIGN CHOICE, log entry 17). The atomic unit of the row's stack draws, going on from where it stands, since no UPDATE batch begins (R172, log entry 93). -/
def atomicTableRow (r : Running) (b : Option BindTo) (fmt off col0 : Nat) (xs : List Word) (stochastic : Bool) (s : State) : State :=
  match b with
  | some (.object n) => match s.tables.find? fun t => t.heap == n && t.fmt == fmt with
    | some t =>
      let old := s.readObj n off t.rowBytes
      let delta := (List.range t.elems).map fun j => if col0 ≤ j then xs.getD (j - col0) 0 else 0
      let k := ((s.obj n).bind fun o => o.stackOf (off / pageBytes)).getD 12
      let d := drawsFor stochastic s.free t.elems (s.stackList.getD k {}).gen
      let a := applyAdd t.format (fld old (elemBytes t.format t.elems) 1) t.elems (s.free + 1) old delta d.2
      countConv r.chan a.2 ((({ s with free := s.free + 2 }).setStack k fun st => { st with gen := d.1 }).writeObj n off a.1)
    | none => countChan r.chan 12 1 s
  | _ => countChan r.chan 12 1 s

/-- Stride of a table's slots, for the rows of a narrow atomic delivery. -/
def atomicStride (b : Option BindTo) (s : State) : Nat := match b with
  | some (.object n) => ((s.tables.find? fun t => t.heap == n).map Table.stride).getD 0
  | _ => 0

/-- Is every ring that a drain reads or fills ready (R274)? -/
def drainReady (r : Running) (k : Nat) (e : EpiOp) (d : ODesc) (s : State) : Bool :=
  let elem := fun i => (r.ring i).elem
  (epiNeeds 1 e d elem).all (fun n => (headBytes r k n.1 n.2 s).isSome)
    && (d.dest == 1 || d.dest == 2 || (ringRoom r k d.dataRing 1 s
        && (d.static || (drainBytes d).2 == 0 || ringRoom r k d.scaleRing 1 s)))

/-- The values of stage 5 of a drained tile, cut to the columns written, with what its vectors count, the values that left the range, and the rows whose
maximum was missed (R198–R202, R239). -/
def drainValues (r : Running) (k : Nat) (i : Issued) (e : EpiOp) (cols : Nat) (t : Tile) (parts : List Partial) (s : State) : List (List Word) × ConvCount × Nat :=
  let hb := fun ring n => (headBytes r k ring n s).getD []
  let c := s.cluster k
  let size := fun ring => if (r.ring ring).elem = 2 then 2 else 4
  let av := hb e.alphaRing (256 * size e.alphaRing)
  let bv := hb e.biasRing (256 * size e.biasRing)
  let ov := hb e.rowoffRing 64
  let imm := vecElem false (leBytes 4 e.imm) 0
  let alpha := fun j => if e.alphaMode = 1 then imm else vecElem (e.alphaMode == 3) av j
  let bias := fun j => vecElem (e.biasMode == 3) bv j
  let offc := fun j => if e.rowoffMode = 2 then ((assocGet (i.row + j) c.rowMax).getD 0, {}) else vecElem false ov j
  let x : EpiIn := ⟨fun j => (alpha j).1, fun j => (bias j).1, fun j => (offc j).1, e.alphaMode != 0, e.biasMode != 0, e.rowoffMode == 1 || e.rowoffMode == 2⟩
  let js := List.range cols
  let read := sumCounts ((if e.alphaMode = 1 then [imm.2] else if x.useAlpha then js.map fun j => (alpha j).2 else [])
    ++ (if x.useBias then js.map fun j => (bias j).2 else []) ++ if x.useOff then (List.range 16).map fun j => (offc j).2 else [])
  let misses := if e.rowoffMode = 2 then ((List.range 16).filter fun j => (assocGet (i.row + j) c.rowMax).isNone).length else 0
  -- stage 1: the split partials join in order of arrival, each addition and the last sum saturating (R199, R201)
  let sum := fun (a b : Nat) =>
    let p := combineEntry t (t.entry a b)
    let q := parts.foldl (fun (m : Comp × Nat) p => let v := (p.values.getD a []).getD b 0; (m.1.add v, m.2 + flag (compOver m.1 v) 0)) (⟨p.1, 0⟩, p.2)
    if parts.isEmpty then p else (q.1.val, q.2 + flag (f32Over (Fr.add (f32Val q.1.s) (f32Val q.1.c))) 0)
  let v5 := (List.range 16).map fun a => js.map fun b => let v := sum a b; let w := epiValue e x a b v.1; (w.1, v.2 + w.2)
  (v5.map fun row => row.map Prod.fst, read.add { outOfRange := sumOver (fun row => sumOver Prod.snd row) v5 }, misses)

/-- How far a drain's conversion reaches: 0 the tile, 1 its rows, 2 the tensor (R168, R169, R178, R203). -/
def ODesc.scope (d : ODesc) : Nat :=
  let f := (Fmt.ofCode d.fmt).getD .fp32
  if d.auto != 0 || (f == .fp4t && !d.static) then 2 else if f == .uint4z || (f == .bin && !d.static) then 1 else 0

/-- The held tiles that a conversion takes together once the last of them is drained; none while one is missing (R203). -/
def heldGroup (d : ODesc) (t : HeldTile) (held : List HeldTile) : Option (List HeldTile) :=
  let cols := (List.range (ceilDiv d.columns 256)).map (256 * ·)
  let has := fun (l : List HeldTile) (row col : Nat) => l.any fun u => u.row == row && u.col == col
  let mine := held.filter fun u => u.odesc == t.odesc
  match d.scope with
  | 0 => some [t]
  | 1 => let band := mine.filter fun u => u.row == t.row
         if cols.all fun c => has band t.row c then some band else none
  | _ => if ((List.range (ceilDiv d.rows 16)).map (16 * ·)).all fun r => cols.all fun c => has mine r c then some mine else none

/-- A supplied scale record that a re-run replaces, in the ring's head slots and in the stream's memory (R181, DESIGN CHOICE, log entry 88). -/
def fixRecord (r : Running) (k ring : Nat) (s : State) (f : Nat × Bytes) : State :=
  let d := r.ring ring
  let g := s.ring k ring
  let i := f.1 / max d.slotBytes 1
  let o := f.1 % max d.slotBytes 1
  let put := fun (bs : Bytes) => bs.take o ++ f.2 ++ bs.drop (o + f.2.length)
  let s := setRing k ring (fun g => { g with slots := modifyAt g.slots i fun p => (p.1, put p.2) }) s
  let w := (pieces d g (f.2.length + 2) ((g.head + i) * d.slotBytes + o) f.2.length).foldl (fun (a : State × Bytes) p =>
    ((bindWrite r (r.bind g.bind) p.1 (a.2.take p.2) a.1).1, a.2.drop p.2)) (s, f.2)
  w.1

/-- Convert a group of tiles and deliver it to its rings: the automatic list word, the scale records, then the data tile by tile (R178, R203). -/
def deliverGroup (r : Running) (k : Nat) (d : ODesc) (list : Option Nat × Nat) (tiles : List HeldTile) (s : State) : State :=
  let im := r.kern.image
  let base : ConvIn :=
    { f := (Fmt.ofCode d.fmt).getD .fp32, static := d.static, stochastic := r.cmd.kernelSetting 0 == 0, threshold := r.cmd.kernelSetting 2
      columns := d.columns, rows := d.rows, outl := fun _ => false }
  let chans := if d.auto != 0 then greatestChannels d.auto base tiles else if d.list = 15 then [] else kList im d.list
  let o := convGroup { base with outl := fun j => chans.contains j } tiles { gen := r.run.gen, rerun := r.run.rerun, free := s.free }
  let s := countConv r.chan o.2.counts { s with free := o.2.free }
  let s := s.setCluster k fun c => { c with run := c.run.map fun p => { p with gen := o.2.gen, rerun := o.2.rerun } }
  let s := if d.auto != 0 then (bindWrite r (r.bind list.1) list.2 (listWord chans) s).1 else s
  let s := o.2.fixes.foldl (fixRecord r k d.scaleRing) s
  let s := if o.2.recs.isEmpty then s else fillRing r k d.scaleRing o.2.recs s
  o.1.foldl (fun s bs => fillRing r k d.dataRing bs s) s

/-- Stages 6 and 7 to rings: a tile is held until every tile that its scales or channels are chosen from has been drained, and all of them are delivered then
(R203, DESIGN CHOICE, log entry 17). -/
def deliverRing (r : Running) (k : Nat) (i : Issued) (d : ODesc) (t : HeldTile) (s : State) : State :=
  let held := (s.cluster k).held.filter (fun u => !(u.odesc == t.odesc && u.row == t.row && u.col == t.col)) ++ [t]
  match heldGroup d t held with
  | none => s.setCluster k fun c => { c with held := held }
  | some tiles => deliverGroup r k d i.list tiles (s.setCluster k fun c => { c with held := held.filter fun u => !tiles.contains u })

/-- Stage 7 to an atomic target: one add for each tile row (R200). -/
def deliverAdds (r : Running) (k : Nat) (i : Issued) (d : ODesc) (vals : List (List Word)) (s : State) : State :=
  let f := (Fmt.ofCode d.fmt).getD .fp32
  let b := r.bind i.at_.1
  let n := if f = .bf16 then 2 else 4
  let st := atomicStride b s
  let s := vals.zipIdx.foldl (fun s row =>
    if f == .bf16 || f == .fp32 then atomicRow r b (f == .bf16) (i.at_.2 + ((i.row + row.2) * d.columns + i.col) * n) row.1 s
    else atomicTableRow r b d.fmt (i.at_.2 + (i.row + row.2) * st) i.col row.1 (r.cmd.kernelSetting 0 == 0) s) s
  s.setCluster k fun c => { c with adds := c.adds + 1 }

/-- Stages 1 to 7 of a drain whose rings are ready; `parts` the partials of a split tile, in order of arrival (R198–R203). -/
def drainTile (r : Running) (k : Nat) (i : Issued) (e : EpiOp) (t : Tile) (parts : List Partial) (s : State) : Done :=
  let d := oDesc r.kern.image r.run.phase e.odesc
  let v := drainValues r k i e (min 256 (d.columns - i.col)) t parts s
  let h : HeldTile :=
    { odesc := e.odesc, row := i.row, col := i.col, vals := v.1, given := if d.static then (headBytes r k d.scaleRing (if d.fmt = 1 then 128 else 256) s).getD [] else [] }
  let toRing := d.dest == 0 || d.dest == 3
  let skew := toRing && ({ f := (Fmt.ofCode d.fmt).getD .fp32, static := d.static, stochastic := false, threshold := 0, columns := d.columns, rows := d.rows
                           outl := fun _ => false : ConvIn }).skewed h
  let s := countConv r.chan (v.2.1.add { skewFaults := flag skew 0 }) s
  let s := s.setChan r.chan fun c => { c with rowmaxMiss := satAdd c.rowmaxMiss v.2.2 }
  if skew then .fault s 2 (r.stream k d.scaleRing)
  else
    let s := if toRing then deliverRing r k i d h s else if d.dest = 1 then deliverAdds r k i d v.1 s else s
    .ok (if d.dest < 2 then s else s.setCluster k fun c => { c with span := c.span.map fun sp => { sp with
      values := sp.values ++ v.1.zipIdx.flatMap fun row => row.1.zipIdx.map fun w => (i.row + row.2, i.col + w.2, w.1) } })

/-- DRAIN in its unit (R198–R204): a split drain outside the home sends its combined values to the home; at the home it waits for the other
members' (R199); a cluster outside the group does nothing (R232). A Batt word that it reads may be uncorrectable (R205). -/
def tryDrain (r : Running) (k : Nat) (i : Issued) (e : EpiOp) (s : State) : Done :=
  let c := s.cluster k
  let set := 1 - c.active
  let group := r.group e.splitId
  let fresh : Tile := { set := set, index := e.tile, float := false, rows := tileRows fun _ _ => {} }
  let ct := correctTile ((c.tile set e.tile).getD fresh)
  if e.split && !group.contains k then .ok s
  else if i.bad then .fault s 1 3
  else match ct.1 with
    | none => .fault (countChan r.chan 9 1 (countChan r.chan 8 ct.2 s)) 4 k
    | some t =>
      let home := r.home e.splitId
      if e.split && home != k then
        let vs := (List.range 16).map fun a => (List.range 256).map fun b => combineEntry t (t.entry a b)
        let s := countConv r.chan { outOfRange := sumOver (fun row => sumOver Prod.snd row) vs } (countChan r.chan 8 ct.2 (s.setCluster k fun c => c.freshen set e.tile))
        .ok (s.setCluster home fun h => { h with partials := h.partials ++
          [{ cmd := r.run.cmd, phase := r.run.phase, group := e.splitId, src := k, tile := e.tile, values := vs.map fun row => row.map Prod.fst }] })
      else
        let parts := if e.split then c.partialsOf r.run.cmd r.run.phase e.splitId e.tile else []
        let d := oDesc r.kern.image r.run.phase e.odesc
        -- a selection issued before must have ended the span before it (R237, R239)
        let sels := (decide (2 ≤ d.dest) || e.rowoffMode == 2) && (c.busy.takeWhile fun x => x != i).any fun x => opSlot x.op == 6
        if (e.split && decide (parts.length + 1 < group.length)) || sels || !drainReady r k e d s then .waits
        else
          let s := countChan r.chan 8 ct.2 (s.setCluster k fun c =>
            { c.freshen set e.tile with partials := parts.foldl List.erase c.partials })
          drainTile r k i e t parts s

/-- PRELOAD_TILE and PRELOAD_ROW in their unit: the ring's entry is released when it has been written (R198). -/
def tryPreload (r : Running) (k : Nat) (row : Bool) (e : EpiOp) (s : State) : Done :=
  let bf := (r.ring e.odesc).elem == 2
  let n := (if row then 256 else 4096) * (if bf then 2 else 4)
  match headBytes r k e.odesc n s with
    | none => .waits
    | some bs =>
      let p := preload row bf e.tile bs (s.cluster k)
      .ok (releaseSlots r k e.odesc (slotsFor r e.odesc n) (countConv r.chan p.2 (s.setCluster k fun _ => p.1)))

end Sys2Proof.Machine
end

