-- ==== Sys2Proof/Machine/Sequencer.lean ====
section
/-! DEFINITION. The kernel sequencer: how a bundle's slots issue, what the units do, phases and their ends, late data, fallbacks
(R207–R209, R212–R220, R226, R228, R230–R232, R237–R239, R244, R274, R276, R277). -/

namespace Sys2Proof.Machine

/-! ## Bundles (R214–R216) -/

/-- Operations of the bundle at a cluster's pc. -/
def Running.ops (r : Running) (c : Cluster) : List KOp := opsAt r.kern.image c.pc
/-- Is a guard true (R214)? -/
def Cluster.guard (c : Cluster) (g : Nat) : Bool := c.p.getD (g % 8) false != bit g 3
/-- An index register. -/
def Cluster.xr (c : Cluster) (i : Nat) : Word := c.x.getD i 0

/-- Has a unit an operation that is not complete? -/
def Cluster.unitBusy (c : Cluster) (slot : Nat) : Bool := c.busy.any fun i => opSlot i.op == slot

/-- May the bundle at pc begin to issue: units it uses free, a WAIT's units idle, a BARRIER's wait over (R214, R215, R223)? -/
def Running.bundleFree (r : Running) (c : Cluster) : Bool :=
  let ops := r.ops c
  let live := ops.filter fun o => c.guard (opGuard o)
  (live.all fun o => c.issued.contains (opSlot o) || !c.unitBusy (opSlot o))
    && (!c.issued.isEmpty || ((!bundleBarrier (bundleBits r.kern.image c.pc) || (c.busy.isEmpty && c.quiet))
        && live.all fun o => match o with
          | .ctrl k x => k != 5 || (List.range 5).all fun i => !(bit x.count i && c.unitBusy ([4, 5, 6, 2, 3].getD i 0))
          | _ => true))

/-- Slots of the same bundle that must have issued first: a drain after its bundle's SEL, whose span it belongs to; a SWAP after its bundle's EPI
slot, which names the sets as they stood; ADDR, whose writes are for the next bundle, after every other (R197, R215, R237). -/
def slotsBefore : KOp → List Nat
  | .epi _ _ => [6]
  | .array k _ => if k = 5 then [5] else []
  | .addr _ _ => [1, 2, 3, 4, 5, 6]
  | _ => []

/-- May this operation issue now on cluster `k`? It must stand in the bundle at pc. -/
def canIssue (s : State) (k : Nat) (op : KOp) : Option Running :=
  match s.running k with
  | none => none
  | some r =>
    let c := s.cluster k
    let here := (r.ops c).map opSlot
    if !r.run.ending && (r.ops c).contains op && !c.issued.contains (opSlot op) && r.bundleFree c
      && (slotsBefore op).all (fun n => !here.contains n || c.issued.contains n) then some r else none

/-- Counter register of the loop whose body begins at a bundle: that of the LOOP before it. -/
def loopReg (im : Bytes) (first : Nat) : Nat :=
  ((opsAt im (first - 1)).findSome? fun o => match o with
    | .ctrl _ c => some c.lreg
    | _ => none).getD 0

/-- Loop counters after a step of the sequencer: a loop left has counted down to 0, the others hold the trips that remain (R216). -/
def loopRegs (im : Bytes) (old new : List (Nat × Nat × Nat)) (l : List Nat) : List Nat :=
  new.foldl (fun l p => l.set (loopReg im p.1) p.2.2) (old.foldl (fun l p => l.set (loopReg im p.1) 0) l)

/-- The sequencer leaves the bundle at pc, all of whose slots have issued (R215, R216). -/
def advance (r : Running) (c : Cluster) : Cluster :=
  let im := r.kern.image
  let b := c.pc
  let go := fun (n : Nat × List (Nat × Nat × Nat)) =>
    { c with pc := n.1, loops := n.2, l := loopRegs im c.loops n.2 c.l, issued := [], taken := 0 }
  let ctrl := (r.ops c).findSome? fun o => match o with
    | .ctrl k x => some (k, x)
    | _ => none
  match ctrl with
  | none => go (nextBundle b c.loops)
  | some (k, x) =>
    if k = 1 ∨ k = 2 then
      (if c.taken = 0 then go (nextBundle x.target c.loops) else go (b + 1, (b + 1, x.target, c.taken) :: c.loops))
    else if k = 3 ∧ c.taken = 1 then go (x.target, c.loops)
    else if k = 4 ∧ c.taken = 1 then
      (match c.loops with
        | l :: outer => go (nextBundle l.2.1 outer)
        | [] => go (b + 1, []))
    else if k = 6 ∨ k = 7 then { c with run := c.run.map fun p => { p with ending := true }, issued := [], taken := 0 }
    else go (nextBundle b c.loops)

/-- Leave every bundle whose slots have all issued, passing bundles that hold no operation (R214). -/
def settleBundles (r : Running) : (fuel : Nat) → Cluster → Cluster
  | 0, c => c
  | fuel + 1, c =>
    let ending := (c.run.map PhaseRun.ending).getD true
    let slots := (r.ops c).map opSlot
    let free := !slots.isEmpty || !c.issued.isEmpty || r.bundleFree c
    if !ending && free && slots.all (fun n => c.issued.contains n) then settleBundles r fuel (advance r c) else c

/-! ## Units -/

/-- Steps of an array operation: from XSTEPS, clamped to STEPS with LOOP_CLAMP (R218). -/
def arraySteps (c : Cluster) (o : ArrayOp) : Nat × Bool :=
  if o.xsEn then (let x := (c.xr o.xsteps).toNat; (min x o.steps, decide (o.steps < x))) else (o.steps, false)

/-- An array operation in its unit (R218): waits for its operands' slots, checks scales, adds the product, releases as its flags direct. A Batt word that it
reads may be uncorrectable (R205). -/
def tryArray (r : Running) (k : Nat) (i : Issued) (op : Nat) (o : ArrayOp) (s : State) : Done :=
  let c := s.cluster k
  if op = 5 then (if c.unitBusy 5 then .waits else .ok (s.setCluster k fun c => { c with active := 1 - c.active }))
  else if o.split && !(r.group o.splitId).contains k then .ok s
  else
    let im := r.kern.image
    let steps := i.row
    let g := groupOf o.group
    let needs := arrayNeeds im op o steps
    if needs.any fun x => (headBytes r k x.1 x.2 s).isNone then .waits
    else if i.bad then .fault s 1 3
    else
      let take := fun (j : Nat) => let x := needs.getD j (0, 0); (headBytes r k x.1 x.2 s).getD []
      let release := fun (s : State) =>
        let one := fun (yes : Bool) (ring : Nat) (s : State) =>
          if yes then releaseSlots r k ring (slotsFor r ring ((needs.lookup ring).getD 1)) s else s
        one o.relB o.ringB (one o.relA o.ringA s)
      let kk := steps * g * productsPerCell o.fmtA o.fmtB
      let base := fun ring (size : Nat) => (s.ring k ring).head * (r.ring ring).slotBytes / max size 1
      let skew := fun ring => Done.fault (countConv r.chan { skewFaults := 1 } s) 2 (r.stream k ring)
      if op = 2 then
        let l : Lut := { fmtA := o.fmtA, fmtB := o.fmtB, lines := operandLines g true, glen := bookGroup im o.fmtB, k := kk, act := take 0, recs := take 2, base := 0, books := take 1 }
        let l := { l with base := base o.ringSA l.operand.recBytes }
        if steps ≠ 0 ∧ l.operand.skewed = true then skew o.ringSA
        else .ok (release (countConv r.chan l.counts (s.setCluster k fun c => { c with lut := some l })))
      else if op = 3 then
        let out := lutScan o steps (take 0) c
        .ok (release (countConv r.chan { outOfRange := out.beyond } (s.setCluster k fun _ => out.cluster)))
      else
        let operand := fun (isA : Bool) =>
          let x : Operand :=
            { fmt := if isA then o.fmtA else o.fmtB, lines := operandLines g isA, k := kk, data := take (if isA then 0 else 1), recs := take (if isA then 2 else 3), base := 0
              chans := if o.outlier then (kList im o.list).length else 0
              outFmt := [Fmt.e4m3, Fmt.e5m2, Fmt.int8].getD (Config.outlierFmt im o.list isA % 3) .e4m3, outs := take (if isA then 4 else 5) }
          { x with base := base (if isA then o.ringSA else o.ringSB) x.recBytes }
        let a : Operand := operand true
        let b : Operand := operand false
        if steps ≠ 0 ∧ a.skewed = true then skew o.ringSA
        else if steps ≠ 0 ∧ b.skewed = true then skew o.ringSB
        else
          let out := product o steps a b c
          let s := countConv r.chan ((a.counts.add b.counts).add { outOfRange := out.beyond }) (s.setCluster k fun _ => out.cluster)
          let s := countChan r.chan 8 out.retries s
          if out.fault then .fault (countChan r.chan 9 1 s) 4 k else .ok (release s)

/-- Does a SEL's K come to more than a slot may hold (R218, R220)? -/
def selKOf (c : Cluster) (op : Nat) (o : SelOp) : Nat × Bool :=
  if op = 3 ∨ op = 4 then (1, false) else if op = 5 then (0, false)
  else if o.k = 0 then (let x := (c.xr o.xk).toNat; (min x 65535, decide (65535 < x))) else (o.k, false)

/-- What a split group's records and partials are kept under at its home: command, phase, group (R199, R244). -/
def Running.key (r : Running) (g : Nat) : Nat × Nat × Nat := (r.run.cmd, r.run.phase, g)

/-- End the open span of a cluster's Crown: results to RING_OUT, or to the group's home; a ROWMAX's maxima to stage 4 (R237–R239, R244). -/
def closeCrown (r : Running) (k : Nat) (s : State) : State :=
  match (s.cluster k).span with
  | none => s
  | some sp =>
    let rs := sp.results s.free
    let s := { s with free := s.free + rs.length }
    let s := s.setCluster k fun c => { c with span := none }
    if sp.op = 6 then s
    else
      let s := if sp.op = 5 then s.setCluster k fun c => { c with rowMax := rs.map fun x => (x.row, x.m) } else s
      let home := match sp.split with
        | some g => r.home g
        | none => k
      let s := match sp.split with
        | some g => if (r.group g).contains k then
            s.setCluster home fun h => { h with records := h.records ++ rs.map (fun x => (r.key g, k, x)), delivered := h.delivered ++ [(r.key g, k)] }
          else s
        | none => s
      if home = k then (if rs.isEmpty then s else fillRing r k sp.ring (rs.flatMap clistBytes) s) else s

/-- Has the open span's ring room for its records (R238, R274)? -/
def crownRoom (r : Running) (k : Nat) (s : State) : Bool :=
  match (s.cluster k).span with
  | none => true
  | some sp => sp.values.isEmpty || sp.op == 6 || ringRoom r k sp.ring 1 s || (match sp.split with
      | some g => r.home g != k
      | none => false)

/-- A SEL operation in its unit: it ends the open span once the drains issued before it have passed the Crown, and opens its own; COLLECT on the
home waits for every member's records and merges them (R237, R244). What it meets in the selection store may be uncorrectable (R235). -/
def trySel (r : Running) (k : Nat) (i : Issued) (op : Nat) (o : SelOp) (s : State) : Done :=
  let c := s.cluster k
  let earlier := (c.busy.takeWhile fun x => x != i).any fun x => opSlot x.op == 5
  if earlier || !crownRoom r k s then .waits
  else if i.bad then .fault s 1 3
  else
    let s1 := closeCrown r k s
    let span : Span := { op := op, k := i.row, ring := o.ringOut, exp := o.exp, split := if o.split then some o.splitId else none }
    if op != 6 || r.home o.splitId != k then .ok (s1.setCluster k fun c => { c with span := some span })
    else
      let h := s1.cluster k
      let group := r.group o.splitId
      if group.any (fun m => !h.delivered.contains (r.key o.splitId, m)) || !ringRoom r k o.ringOut 1 s1 then .waits
      else
        let lists := group.map fun m => (h.records.filter fun x => x.1 == r.key o.splitId && x.2.1 == m).map fun x => x.2.2
        let out := mergeRecords 6 i.row s1.free lists
        let s2 := ({ s1 with free := s1.free + 2 * out.length }).setCluster k fun c =>
          { c with span := some span, records := c.records.filter (fun x => x.1 != r.key o.splitId), delivered := group.foldl (fun l m => l.erase (r.key o.splitId, m)) c.delivered }
        .ok (if out.isEmpty then s2 else fillRing r k o.ringOut (out.flatMap clistBytes) s2)

/-- START waits until the ring is empty; what a stopped stream still has in flight is never consumed (R217, R277). -/
def tryStart (r : Running) (k : Nat) (i : Issued) (m : MoveOp) (s : State) : Done :=
  let d := r.ring m.ring
  let g := s.ring k m.ring
  let empty := if d.output then g.buf.isEmpty && g.wrote == g.acked else g.slots.isEmpty && (!g.active || g.stopped || (g.issued == g.head && g.granted == 0))
  if !empty then .waits
  else
    let left := r.leaves g false
    let len := i.row
    .ok (fetchAll r k (setRing k m.ring (fun g =>
      { num := g.num, active := true, bind := i.at_.1, offset := i.at_.2, len := len, gen := if left.isEmpty then g.gen else g.gen + 1, since := s.frame.cycle })
      (s.setCluster k fun c => { c with owed := c.owed ++ left })))

/-- One operation tried in its unit. -/
def tryOp (r : Running) (k : Nat) (i : Issued) (s : State) : Done :=
  match i.op with
  | .array op o => tryArray r k i op o s
  | .epi op e => if op = 1 then tryDrain r k i e s else tryPreload r k (op == 3) e s
  | .sel op o => trySel r k i op o s
  | .move op m =>
    if op = 1 then tryStart r k i m s
    else if op = 2 then .ok (setRing k m.ring (fun g => { g with stopped := true }) s)
    else .ok (releaseSlots r k m.ring i.row s)
  | _ => .ok s

/-! ## Ends of phases and runs (R191, R207, R228, R231) -/

/-- A cluster after a phase: nothing of that is left but the tags its streams have outstanding, until they come back or the boundary retires them; what a later
phase's members have sent stays (R191, R207, R270, R277). -/
def idleCluster (r : Running) (c : Cluster) : Cluster :=
  let left := c.rings.flatMap fun g => r.leaves g true
  { queue := c.queue, owner := c.owner, owed := (c.owed.map fun o => { o with ended := true }) ++ left
    rings := c.rings.map fun g => { num := g.num, gen := if left.any fun o => o.ring == g.num then g.gen + 1 else g.gen }
    partials := c.partials.filter fun p => !(p.cmd == r.run.cmd && p.phase == r.run.phase)
    records := c.records.filter fun x => !(x.1.1 == r.run.cmd && x.1.2.1 == r.run.phase)
    delivered := c.delivered.filter fun x => !(x.1.1 == r.run.cmd && x.1.2.1 == r.run.phase) }

/-! ## Late slots (R276) -/

/-- What an operation in a unit needs of its rings, with bytes. -/
def Running.needs (r : Running) (i : Issued) : List (Nat × Nat) := match i.op with
  | .array op o => if op = 5 then [] else arrayNeeds r.kern.image op o i.row
  | .epi op e => epiNeeds op e (oDesc r.kern.image r.run.phase e.odesc) fun j => (r.ring j).elem
  | _ => []
/-- The slot of an input ring that a waiting operation needs and that has not arrived, with the cycle from which it waits (R276). -/
def lateSlot (r : Running) (k i : Nat) (s : State) : Option (Nat × Nat) :=
  let g := s.ring k i
  if (r.ring i).output || !g.active then none
  else ((s.cluster k).busy.find? fun b => (r.needs b).any fun n => n.1 == i && (headBytes r k i n.2 s).isNone).map fun b =>
    (g.head + g.slots.length, b.since)
/-- The cycles that a consumer has waited past the due cycle of a ring's slot, under STALL (R276, R281). -/
def countStall (r : Running) (k : Nat) (s : State) (i : Nat) : State :=
  match lateSlot r k i s with
  | some (n, since) =>
    if r.cmd.runSetting 0 = 1 then countChan r.chan 24 (s.frame.cycle - max since (r.due (s.ring k i) n)) s else s
  | none => s

/-- What a command's phases leave on a cluster: they leave its queue, its run ends, and what its split groups have sent there goes; partials not added and adds not
acknowledged are counted (R199, R200, R232). -/
def dropOn (id : Nat) (s : State) (k : Nat) : State :=
  let c := s.cluster k
  let mine := c.partials.filter fun p => p.cmd == id
  let ch := match c.run, c.queue.find? fun w => w.cmd == id with
    | some p, some w => if p.cmd = id then c.owner else (s.kernel w.kernel).map Kernel.slot
    | none, some w => (s.kernel w.kernel).map Kernel.slot
    | _, none => c.owner
  let s := countChan (ch.getD 0) 10 mine.length s
  let s := match s.running k with
    | some r =>
      if r.run.cmd != id then s
      else
        let s := (List.range 16).foldl (countStall r k) s
        (if 0 < c.adds then countChan r.chan 11 1 s else s).setCluster k (idleCluster r)
    | none => s
  s.setCluster k fun c => { c with
    queue := c.queue.filter fun w => w.cmd != id, partials := c.partials.filter fun p => p.cmd != id
    records := c.records.filter fun x => x.1.1 != id, delivered := c.delivered.filter fun x => x.1.1 != id }
/-- Every phase of a command leaves its clusters, queued or in progress. -/
def dropPhases (id : Nat) (s : State) : State := (List.range s.clusters.length).foldl (dropOn id) s

/-- Phases of a command that have completed (R228). -/
def Cmd.phasesDone (c : Cmd) : Nat := (c.stages.filter fun g => g.finished && (match g.kind with
  | .phase _ => true
  | _ => false)).length

/-- An encoded search that ends before its walk stage gives back the walk slots charged at its admission (R45). -/
def refundEncoded (c : Cmd) (s : State) : State :=
  if c.op == 0x2003 && c.state == .running && !s.queries.any (fun q => q.cmd == c.id) then refundQuota c.q.access 3 (c.work.getD 1 0) s else s

/-- End a kernel run, or a SEARCH_ENCODED in its encoder phase, with a status (R61, R228). -/
def endRun (id cls code detail : Nat) (s : State) : State :=
  match s.cmd id with
  | none => s
  | some c => finish c { status := status cls code, detail := detail, count := if c.op = 0x5002 then c.phasesDone else 0 } (dropPhases id (refundEncoded c s))

/-- A run's phase is queued on every cluster of its kernel (R207, R209). -/
def queuePhase (id kid phase : Nat) (s : State) : State :=
  match s.kernel kid with
  | none => s
  | some kn => kn.clusters.foldl (fun s k => s.setCluster k fun c => { c with queue := c.queue ++ [⟨id, kid, phase, s.tick⟩] }) s

/-- A later stage begins when its tick has come and every earlier stage is finished (R22). -/
def startNext (id : Nat) (s : State) : State :=
  match s.cmd id with
  | none => s
  | some c => match c.stages.find? fun g => !g.finished with
    | none => s
    | some g =>
      if s.tick < g.tick then s
      else match g.kind with
        | .phase p => queuePhase id (c.fallback.getD c.kernelId) p s
        | .walk => startSearch c s
        | _ => s

/-- A phase has completed on every cluster: its stage is finished; the run goes on, or is decided. A fallback's phase ends the run with
CHEAPER_PATH, and an encoder's fallback gives the query for the walk stage (R207, R228, R230, R231). -/
def phaseFinished (run : PhaseRun) (s : State) : State :=
  match s.cmd run.cmd with
  | none => s
  | some c =>
    let s := s.setCmd c.id fun d => { d with
      lateStream := none
      stages := match d.stages.findIdx? (fun g => !g.finished) with
        | some i => modifyAt d.stages i fun g => { g with finished := true }
        | none => d.stages }
    if c.fallback.isSome then
      let s := countChan (handleSlot c.q.handle) 14 1 s
      if c.op = 0x2003 then startNext c.id (s.setCmd c.id fun d => { d with partialBits := 4 })
      else finish c { status := status 1 3, detail := 4, count := c.phasesDone + 1 } s
    else if c.stages.all fun g => g.finished || g.kind == .phase run.phase then finish c (okDone (c.phasesDone + 1)) s
    else startNext c.id s

/-- Deliver what is still held, group by group. -/
def deliverHeld (r : Running) (k : Nat) : (fuel : Nat) → State → State
  | 0, s => s
  | fuel + 1, s => match (s.cluster k).held with
    | [] => s
    | t :: rest =>
      let d := oDesc r.kern.image r.run.phase t.odesc
      let mine := fun (u : HeldTile) => u.odesc == t.odesc && (d.scope == 2 || u.row == t.row)
      deliverHeld r k fuel (deliverGroup r k d ((s.cluster k).a.getD d.listReg (none, 0)) ((t :: rest).filter mine)
        (s.setCluster k fun c => { c with held := rest.filter fun u => !mine u }))

/-- A cluster's part of a phase is over when PHASE or END has issued, every unit is idle, the last span's records are out and every write and
add is acknowledged (R200, R207, R223). -/
def endOnCluster (r : Running) (k : Nat) (s : State) : State :=
  let c := s.cluster k
  if !r.run.ending || !c.busy.isEmpty then s
  else if c.span.isSome then (if crownRoom r k s then closeCrown r k s else s)
  else
    -- tiles whose row or tensor was never drained whole are converted as they are (DESIGN CHOICE, log entry 17)
    let s := deliverHeld r k 128 s
    -- a slot that the stream's last drain left part-filled is written back now (R274)
    let s := fetchAll r k s
    if !(s.cluster k).quiet then s
    else
      let s := s.setCluster k (idleCluster r)
      let left := s.clusters.any fun c => c.queue.any (fun w => w.cmd == r.run.cmd && w.phase == r.run.phase) || (match c.run with
        | some p => p.cmd == r.run.cmd
        | none => false)
      if left then s else phaseFinished r.run s

/-- Try every operation in the units of cluster `k`, in order of issue, once. -/
def driveOnce (k : Nat) (s : State) : State :=
  (s.cluster k).busy.foldl (fun s i =>
    if !(s.cluster k).busy.contains i then s
    else match s.running k with
      | none => s
      | some r => match tryOp r k i s with
        | .waits => s
        | .ok t => t.setCluster k fun c => { c with busy := c.busy.erase i }
        | .fault t code detail => endRun r.run.cmd 5 code detail t) s

/-- Let a cluster go on as far as it can: units, fetches, empty bundles, the end of the phase. -/
def driveOne (k : Nat) (s : State) : State :=
  let s := driveOnce k (driveOnce k (driveOnce k s))
  match s.running k with
  | none => s
  | some r =>
    let s := fetchAll r k s
    let s := s.setCluster k (settleBundles r 4096)
    match s.running k with
    | none => s
    | some r => endOnCluster r k (endOnCluster r k s)

/-- Let every cluster go on: one may wait for another at a split drain or a COLLECT (R232). The clock that due cycles are told by has gone on by cycles that no
command gives (R275, DESIGN CHOICE, log entry 91). -/
def drive (s : State) : State :=
  let s := { s with frame := { s.frame with cycle := s.frame.cycle + Config.freeNat s.free }, free := s.free + 1 }
  let one := fun (s : State) => (List.range s.clusters.length).foldl (fun s k => driveOne k s) s
  one (one s)

/-! ## Slot operations -/

/-- Mark a slot issued. -/
def issued (k : Nat) (op : KOp) (s : State) : State := s.setCluster k fun c => { c with issued := c.issued ++ [opSlot op] }

/-- A slot operation of the bundle at pc issues: nothing happens when it may not, and a false guard leaves it without effect (R214). -/
def issue (k : Nat) (op : KOp) (f : Running → State → State) (s : State) : State :=
  match canIssue s k op with
  | none => s
  | some r => drive (issued k op (if (s.cluster k).guard (opGuard op) then f r s else s))

/-- Put an operation into its unit. -/
def toUnit (k : Nat) (i : Issued) (s : State) : State := s.setCluster k fun c => { c with busy := c.busy ++ [{ i with since := s.frame.cycle }] }

/-- What LOOP, LOOPX, BRANCH and BREAK come to (R215, R216); LOOPX and its clamp (R234). -/
def ctrlTaken (k op : Nat) (o : CtrlOp) (r : Running) (s : State) : State :=
  let x := ((s.cluster k).xr o.xreg).toNat
  let n := match op with
    | 1 => o.count
    | 2 => min x o.count
    | _ => 1
  let s := if op = 2 ∧ o.count < x then countChan r.chan 13 1 s else s
  s.setCluster k fun c => { c with taken := n }

def issueCtrl (k op : Nat) (o : CtrlOp) (s : State) : State := issue k (.ctrl op o) (ctrlTaken k op o) s

/-- An ADDR operation writes its register for the next bundle (R215, R216). -/
def issueAddr (k op : Nat) (o : AddrOp) (f : Cluster → Cluster) (s : State) : State :=
  issue k (.addr op o) (fun _ s => s.setCluster k f) s

/-- Second source of an X operation: IMM or X[S2]. -/
def Cluster.src2 (c : Cluster) (o : AddrOp) : Word := if o.immen then BitVec.ofNat 32 o.imm else c.xr o.s2
/-- Shift amount. -/
def Cluster.shift (c : Cluster) (o : AddrOp) : Nat := (c.src2 o).toNat % 32
/-- Write an X register. -/
def Cluster.setX (c : Cluster) (d : Nat) (v : Word) : Cluster := { c with x := c.x.set d v }
/-- Write a predicate; P0 always reads 1 (R212). -/
def Cluster.setP (c : Cluster) (d : Nat) (v : Bool) : Cluster := if d = 0 then c else { c with p := c.p.set d v }
/-- Write an address register: the binding of the source, the offset modulo 2^48 (R212). -/
def Cluster.addA (c : Cluster) (o : AddrOp) (by_ : Int) : Cluster :=
  let a := c.a.getD o.s1 (none, 0)
  { c with a := c.a.set o.d (a.1, ((((a.2 : Nat) : Int) + by_) % (2 ^ 48)).toNat) }

def issueMove (k op : Nat) (o : MoveOp) (s : State) : State :=
  issue k (.move op o) (fun r s =>
    let c := s.cluster k
    toUnit k { op := .move op o, row := if o.xen then (c.xr o.xreg).toNat else if o.len = 0 then (r.ring o.ring).length else o.len, at_ := c.a.getD o.areg (none, 0) } s) s

def issueArray (k op : Nat) (o : ArrayOp) (bad : Bool) (s : State) : State :=
  issue k (.array op o) (fun r s =>
    let n := arraySteps (s.cluster k) o
    toUnit k { op := .array op o, row := n.1, bad := bad } (if n.2 && op != 5 then countChan r.chan 13 1 s else s)) s

def issueEpi (k op : Nat) (o : EpiOp) (bad : Bool) (s : State) : State :=
  issue k (.epi op o) (fun r s =>
    let c := s.cluster k
    let d := oDesc r.kern.image r.run.phase o.odesc
    toUnit k { op := .epi op o, row := (c.xr o.xrow).toNat, col := (c.xr o.xcol).toNat, at_ := c.a.getD d.atomicReg (none, 0), list := c.a.getD d.listReg (none, 0), bad := bad } s) s

def issueSel (k op : Nat) (o : SelOp) (bad : Bool) (s : State) : State :=
  issue k (.sel op o) (fun r s =>
    let n := selKOf (s.cluster k) op o
    toUnit k { op := .sel op o, row := n.1, bad := bad } (if n.2 then countChan r.chan 13 1 s else s)) s

/-! ## The start of a phase (R191, R209, R212) -/

/-- Is system work queued that this cluster is to run: a scan pass in progress or ready, or a rescoring that waits for the lowest cluster taking system
work with no kernel phase in progress (R209)? -/
def State.systemFirst (s : State) (k : Nat) : Bool :=
  s.systemClusters.contains k
    && ((s.indexes.any fun x => match x.shard with
          | some sh => sh.passWalks.isSome || (sh.ready.isSome && !(s.passReady x.num).isEmpty)
          | none => false)
      || (s.walks.any (fun w => w.phase == .ended) && s.idleSystem.head? == some k))

/-- What the bindings of a run stand for (R228, R230): its packet's objects, an encoder's features and query. A table stands for its row heap
here. -/
def runBinds (c : Cmd) (s : State) : List (BindTo × Nat) :=
  if c.op = 0x2003 then
    let dims := (((s.chan (handleSlot c.q.handle)).bind fun h => s.index h.primary).map Index.dims).getD 0
    [(.features, 0), (.query (2 * dims), 0)]
  else (List.range (fld c.q.params 1 1)).map fun i =>
    let n := fld c.q.params (80 + 16 * i) 4
    let off := fld c.q.params (88 + 16 * i) 8
    let bound : BindTo := if n = 0xFFFFFFFF then .sink (c.work.getD 0 0) (c.work.getD 1 0)
      else match s.table n with
        | some t => .object t.heap
        | none => .object n
    (bound, off)
/-- Arguments of a run. -/
def runArgs (c : Cmd) (i : Nat) : Nat := if c.op = 0x2003 then (if i = 0 then fld c.q.params 80 4 else 0) else fld c.q.params (16 + 4 * i) 4

/-- KERNEL_PHASE_START: the first queued phase of a cluster starts when no phase is in progress there, no system work comes first and the
cut-off has not passed (R18, R209); the registers are set as at phase entry (R212), the Batt is FRESH (R191), the generator seeded (R172). -/
def phaseStart (k : Nat) (s : State) : State :=
  let c := s.cluster k
  match c.run, c.queue with
  | none, w :: rest =>
    if s.frame.tail || s.systemFirst k then s
    else match s.kernel w.kernel, s.cmd w.cmd with
      | some kn, some cmd =>
        let h := kHead kn.image
        let logical := kn.clusters.idxOf k
        let binds := runBinds cmd s
        let seed := cmd.kernelSetting 1
        let sd := if seed = 0 then (Config.seed s.free).toNat else seed
        let s := { s with free := s.free + 1 }
        let run : PhaseRun :=
          { cmd := w.cmd, kernel := w.kernel, phase := w.phase, logical := logical, binds := binds, rerun := (kPhase kn.image w.phase).rerun
            gen := genInit sd k cmd.admitTick, since := s.frame.cycle }
        let x := (List.range 16).map fun i =>
          BitVec.ofNat 32 (if i = 14 then logical else if i = 15 then h.clusters else if i < h.args then runArgs cmd i else 0)
        let a := (List.range 32).map fun i => if i < h.bindings then (some i, ((binds[i]?).map Prod.snd).getD 0) else (none, 0)
        let fresh : Cluster := { queue := rest, run := some run, pc := (kPhase kn.image w.phase).entry, x := x, a := a, rings := c.rings.map fun g => { num := g.num, gen := g.gen }, owed := c.owed, owner := some kn.slot
                                 partials := c.partials, records := c.records, delivered := c.delivered }
        drive (s.setCluster k fun _ => fresh)
      | _, _ => s.setCluster k fun c => { c with queue := rest }
  | _, _ => s

/-! ## Events of rings (R199, R270, R274, R276, R277, R305) -/

/-- A slot's transfers that have tags have come back, and so their tags: those it still lacks are granted in R275's order, again and again while it is granted any; a slot
may need more tags than its mover has (R269). -/
def regrant (r : Running) (k i : Nat) : (fuel : Nat) → State → State
  | 0, s => s
  | fuel + 1, s =>
    let g := s.ring k i
    if g.granted ≤ g.back then s else regrant r k i fuel (fetchAll r k (setRing k i (fun g => { g with back := g.granted }) s))

/-- The bytes of the next outstanding slot have arrived: an uncorrectable read ends the stage (R277), what lies outside the binding or on an unplaced page of an ended
plan is counted (R213, R280). -/
def slotArrives (r : Running) (k i : Nat) (err : Bool) (s : State) : State :=
  let g := s.ring k i
  let n := g.head + g.slots.length
  let d := r.ring i
  let ps := slotPieces d g n
  let bad := err || (match r.object g with
    | some o => ps.any fun p => s.poisoned o p.1 p.2
    | none => false)
  if bad then
    let tier := ((r.object g).bind s.obj).map Obj.tier
    let s := match r.object g, ps.head? with
      | some o, some p => uncorrectable o p.1 p.2 s
      | _, _ => s
    endRun r.run.cmd 5 1 (tier.getD 2) (event 1 "UNCORRECTABLE" r.cmd.q.access (r.stream k i) s)
  else
    let b := r.bind g.bind
    let rd := ps.map fun p => bindRead r b p.1 p.2 s
    let stale := match (r.object g).bind s.obj with
      | some o => ((piecePages ps).filter fun p => ((assocGet p o.pageInfo).map Page.stale).getD false).length
      | none => 0
    let s := countChan r.chan 28 stale s
    let s := if rd.any Prod.snd then countChan r.chan 12 1 s else s
    let s := cacheSlot r d g n (countStall r k s i)
    drive (setRing k i (fun g => { g with slots := g.slots ++ [(n, rd.flatMap Prod.fst)], back := 0 }) s)

/-- RING_SLOT_ARRIVAL: the next outstanding slot of an input ring. The response of a stream that is over frees its tags; one that a boundary has retired is a late
response (R270). A page that a plan has yet to place holds its slot back (R280). -/
def ringSlotArrived (k i gen : Nat) (err : Bool) (s : State) : State :=
  let c := s.cluster k
  let g := s.ring k i
  if gen < g.gen then
    match owedResponse k i gen false s with
    | some (late, t) => drive (if late then countChan (c.owner.getD 0) 25 1 t else t)
    | none => s
  else
    match s.running k with
    | none => s
    | some r =>
      let n := g.head + g.slots.length
      let d := r.ring i
      if gen ≠ g.gen ∨ d.output = true ∨ slotUnplaced r d g n s = true then s
      else if n < g.issued then slotArrives r k i err s
      else if g.back < g.granted then
        let t := regrant r k i (slotTags d g n) s
        if n < (t.ring k i).issued then slotArrives r k i err t else t
      else s

/-- WRITE_ACK: a slot's writes are acknowledged, and it is free again, unless a page of it waits for an expansion page (R295); a slot of more transfers than a mover has
tags goes on with those that come back. Writes of a stream that is over are older. Number 16 stands for the oldest atomic adds of a drain (R200, R269, R270, R274). -/
def writeAcked (k i : Nat) (s : State) : State :=
  if i = 16 then drive (s.setCluster k fun c => { c with adds := c.adds - 1 })
  else
    match owedResponse k i 0 true s with
    | some (_, t) => drive t
    | none =>
      let g := s.ring k i
      match s.running k with
      | none => s
      | some r =>
        let waits := match r.object g with
          | some o => (pieces (r.ring i) g ((r.ring i).slotBytes / 16 + 2) (g.acked * (r.ring i).slotBytes) (slotSize (r.ring i) g.acked)).any fun p =>
              s.expanding o p.1 p.2
          | none => false
        if waits then s
        else if g.acked < g.wrote then drive (setRing k i (fun g => { g with acked := g.acked + 1, back := 0 }) s)
        else if g.back < g.granted && (r.ring i).output then
          let t := regrant r k i (pieceTags (slotPieces (r.ring i) g g.wrote)) s
          drive (if g.wrote < (t.ring k i).wrote then setRing k i (fun g => { g with acked := g.acked + 1, back := 0 }) t else t)
        else s

/-- RING_LATE: a slot that a waiting operation needs has not arrived by its due cycle. The stream is named, and once a phase its event is written, with the slot, the
due cycle and the cycles late (R276; the event's layout is a DESIGN CHOICE, log entry 91). -/
def ringLate (k i : Nat) (s : State) : State :=
  match s.running k with
  | none => s
  | some r =>
    match lateSlot r k i s with
    | none => s
    | some (slot, _) =>
      let n := r.stream k i
      let due := r.due (s.ring k i) slot
      let s := { s with frame := { s.frame with cycle := max s.frame.cycle due } }
      let s := s.setCluster k fun c => { c with run := c.run.map fun p => { p with late := some (p.late.getD n) } }
      let s := s.setCmd r.cmd.id fun d => { d with lateStream := some (d.lateStream.getD n) }
      if r.run.named.contains n then s
      else logEvent 2 (Config.eventCode "STREAM_LATE" % 4096) r.cmd.q.access n (leBytes 8 slot ++ leBytes 8 due ++ leBytes 8 (s.frame.cycle - due))
        (countChan r.chan 23 1 (s.setCluster k fun c => { c with run := c.run.map fun p => { p with named := p.named ++ [n] } }))

/-- The kernel loaded on the channel that a handle names; none when that channel is gone (R74, R229). -/
def State.kernelOn (s : State) (h : Nat) : Option Kernel := (s.handleChan h).bind fun k => s.loaded k.slot

/-- Does a fallback kernel meet the interface of the run it replaces (R231)? -/
def fallbackMeets (im fb : Bytes) : Bool :=
  let a := kHead im
  let b := kHead fb
  b.phases == 1 && a.args == b.args && a.bindings == b.bindings && (List.range a.bindings).all fun i => kBind im i == kBind fb i
    && (slice im (a.bindAt + 4 * i) 4 == slice fb (b.bindAt + 4 * i) 4)

/-- Charges of a kernel's phase on its clusters and their movers (R209, R267). -/
def phaseCharge (kn : Kernel) (p : Nat) : List (Res × Nat) :=
  let im := kn.image
  let movers := dedupBy id ((List.range (kPhase im p).rings).map fun i => (phaseRing im p i).mover)
  kn.clusters.flatMap fun k => (.cycles k, kn.bounds.getD p 0) :: movers.map fun m => (.mover (4 * k + m), 1)

/-- The runs of command `id` with a late slot in a ring whose stream is already reported late in the phase, with that slot's due cycle: clusters
ascending, rings ascending (R231, R276). -/
def State.lateRuns (s : State) (id : Nat) : List (PhaseRun × Nat) :=
  (List.range s.clusters.length).flatMap fun k => match s.running k with
    | some r => if r.run.cmd = id then (List.range 16).filterMap fun i =>
        if r.run.named.contains (r.stream k i) then (lateSlot r k i s).map fun n => (r.run, r.due (s.ring k i) n.1) else none
      else []
    | none => []

/-- PHASE_DECLARED_LATE: a slot that a waiting operation needs is 8 µs, 16,800 cycles, past its due cycle; under DEGRADE the phase ends; its fallback is placed in this tick or a later one up to n + D,
or the run ends with DEADLINE_MISS naming the stream (R231, R276). -/
def declaredLate (id : Nat) (s : State) : State :=
  match s.cmd id with
  | none => s
  | some c =>
    match s.chan (handleSlot c.q.handle), (s.lateRuns id).head? with
    | some ch, some (r, due) =>
      if c.runSetting 0 ≠ 2 then s
      else
        let s := { s with frame := { s.frame with cycle := max s.frame.cycle (due + 16800) } }
        let miss := fun (s : State) => endRun id 4 3 (missDetail c.lateStream) s
        let fb := if c.fallback.isSome then none else s.kernelOn (c.runSetting 1)
        match fb, s.kernel r.kernel with
        | some f, some kn =>
          if !fallbackMeets kn.image f.image then miss (countChan ch.slot 15 1 s)
          else
            let need := phaseCharge f 0
            let s := dropPhases id s
            let now := !s.frame.tail && s.fitsTick s.tick need
            let later := findFrom (fun t => s.fitsTick t need) (c.admitTick + c.deadline - s.tick) (s.tick + 1)
            -- later phases of a run that falls back are not run (R231)
            let set := fun (t : Nat) (s : State) => s.setCmd id fun d => { d with
              stages := (d.stages.filter fun g => g.finished) ++ [{ kind := .phase 0, tick := t, charge := need }] ++ d.stages.filter fun g => g.kind == .walk
              fallback := some f.id }
            if now then queuePhase id f.id 0 (chargeNow need (set s.tick s))
            else match later with
              | some t => set t s
              | none => miss s
        | _, _ => miss s
    | _, _ => s

/-- SPLIT_PARTIAL_ARRIVAL: a member's partial of a tile reaches the home (R199). -/
def partialArrived (home src tile : Nat) (s : State) : State :=
  match (s.cluster home).partials.find? fun p => p.src == src && p.tile == tile && !p.arrived with
  | none => s
  | some p => drive (s.setCluster home fun c => { c with partials := c.partials.erase p ++ [{ p with arrived := true }] })

end Sys2Proof.Machine
end

