-- ==== Sys2Proof/Machine/KernelCmd.lean ====
section
/-! DEFINITION. Kernel commands (class 0x5): KERNEL_LOAD, KERNEL_RUN and KERNEL_UNLOAD, and the encoder of SEARCH_ENCODED
(R106, R208, R210, R211, R221, R227–R230). -/

namespace Sys2Proof.Machine

/-! ## KERNEL_LOAD (R227) -/

/-- Bundles of instruction store in use on a cluster; a leaving kernel holds its copy until its release (R208, R229). -/
def State.storeUsed (s : State) (k : Nat) : Nat :=
  ((s.kernels.filter fun x => x.clusters.contains k).map fun x => (kHead x.image).bundles).foldl (· + ·) 0
/-- The n clusters with the most free store, ties to the lower number, that can take `b` bundles (R208); in cluster order. -/
def State.pickClusters (s : State) (n b : Nat) : Option (List Nat) :=
  let room := s.units.clusters.filter fun k => !s.units.clustersLeaving.contains k && decide (s.storeUsed k + b ≤ 32768)
  let best := (sortBy (fun (x y : Nat) => decide (s.storeUsed x < s.storeUsed y)) (sortBy (fun (x y : Nat) => decide (x < y)) room)).take n
  if best.length < n then none else some (sortBy (fun (x y : Nat) => decide (x < y)) best)

/-- Decode check of KERNEL_LOAD: its report address. -/
def checkKernelLoad (q : Pkt) (s : State) : Option Final := addrCheck q 8 64 64 true s

/-- The load report (R227). The unit that set a bound is open (DESIGN CHOICE, log entry 17). -/
def loadReport (digest : Bytes) (err : Option LoadErr) (clusters : List Nat) (bounds : List Nat) (free : Nat) : Bytes :=
  let e := err.getD ⟨0xFF, 0xFFFF, 0xFF⟩
  slice digest 0 48 ++ leBytes 2 e.bundle ++ leBytes 1 e.slot ++ leBytes 1 e.reason ++ leBytes 1 ((clusters.map fun k => 2 ^ k).foldl (· + ·) 0)
    ++ leBytes 1 bounds.length ++ zeros 10 ++ bounds.zipIdx.flatMap fun b => leBytes 4 b.1 ++ leBytes 1 (Config.freeNat (free + b.2) % 6) ++ zeros 3

/-- The audit entry of a load or unload (R47, R382). -/
def auditKernel (q : Pkt) (digest : Bytes) (bundles : Nat) (clusters : List Nat) (s : State) : State :=
  auditFor 6 0 q (afield q.handle ++ slice digest 0 48 ++ afield bundles ++ afield ((clusters.map fun k => 2 ^ k).foldl (· + ·) 0)) s

/-- Why a load is refused, with the digest and the reason its report gives (R208, R227). -/
def loadRefused (q : Pkt) (s : State) : Option (Final × Bytes × Option LoadErr) :=
  let n := fld q.params 0 4
  if (s.loaded (handleSlot q.handle)).isSome then some (badParam 2 0, [], none)
  else match (s.ownObj q.access n).filter fun o => o.staged && o.tier == 1 with
    | none => some (badParam 3 0, [], some ⟨3, 0xFFFF, 15⟩)
    | some o =>
      let h := kHead (s.readObj n 0 64)
      if s.poisoned n 0 (max 64 h.bytes) then some ({ status := status 5 1, detail := 1 }, [], none)
      else if !s.quotaAllows q.access 5 (h.bundles * h.clusters) then some (badQuota 6 false, [], none)
      else if h.clusters = 0 ∨ 8 < h.clusters then some (badParam 0 0, [], some ⟨0, 0xFFFF, 15⟩)
      else if s.pickClusters h.clusters h.bundles = none then some (badQuota 6 true, [], none)
      else if h.bytes < 64 ∨ o.pages * pageBytes < h.bytes then some (badParam 3 0, [], some ⟨3, 0xFFFF, 15⟩)
      else
        let im := s.readObj n 0 h.bytes
        match loadImage im (s.window * 2100) with
        | .inr e => some (badParam e.reason 0, sha384 im, some e)
        | .inl _ => none

/-- The kernel that a load places: its image, digest, clusters and bounds (R208, R223, R227). -/
def loadedKernel (q : Pkt) (s : State) : Kernel :=
  let h := kHead (s.readObj (fld q.params 0 4) 0 64)
  let im := s.readObj (fld q.params 0 4) 0 h.bytes
  { id := s.nextId, slot := handleSlot q.handle, port := q.access, digest := sha384 im, image := im, clusters := (s.pickClusters h.clusters h.bundles).getD []
    bounds := match loadImage im (s.window * 2100) with
      | .inl bs => bs
      | .inr _ => [] }

/-- The report of a load, where its packet asks for one (R227). -/
def reportLoad (q : Pkt) (bs : Bytes) : List HostPost := if fld q.params 8 8 = 0 ∧ q.access ≠ 8 then [] else [⟨fld q.params 8 8, bs⟩]

def holdKernelLoad (c : Cmd) (s : State) : State :=
  match loadRefused c.q s with
  | some (f, digest, e) => finish c { f with data := reportLoad c.q (loadReport digest e [] [] 0) } s
  | none =>
    let k := loadedKernel c.q s
    let h := kHead k.image
    let s := auditKernel c.q k.digest h.bundles k.clusters (chargeQuota c.q.access 5 (h.bundles * h.clusters) s)
    let free := s.free
    finish c (okDone (k.bounds.foldl max 0) (reportLoad c.q (loadReport k.digest none k.clusters k.bounds free)))
      { s with kernels := s.kernels ++ [k], nextId := s.nextId + 1, free := free + k.bounds.length }

/-! ## KERNEL_UNLOAD (R229) -/

/-- Unload the kernel of a channel: runs decoded and not yet admitted are rejected, admitted ones go on (R229). -/
def unloadKernel (slot : Nat) (s : State) : State :=
  let waiting := s.cmds.filter fun d => d.op == 0x5002 && handleSlot d.q.handle == slot && d.state == .waiting
  let s := { s with kernels := modifyIf s.kernels (fun k => k.slot == slot && !k.leaving) fun k => { k with leaving := true, lastReply := s.tick } }
  waiting.foldl (fun s d => finish d (badParam0 3) s) s

def holdKernelUnload (c : Cmd) (s : State) : State :=
  match s.loaded (handleSlot c.q.handle) with
  | none => finish c (badParam0 3) s
  | some k => finish c (okDone 0) (unloadKernel k.slot (auditKernel c.q k.digest (kHead k.image).bundles k.clusters s))

/-- Is a kernel still run by an admitted command (R229)? -/
def State.kernelBusy (s : State) (id : Nat) : Bool :=
  s.cmds.any fun c => c.state == .running && ((c.op == 0x5002 || c.op == 0x2003) && (c.kernelId == id || c.fallback == some id))

/-- At a boundary: a leaving kernel's store and charge are released two ticks after the last reply (R7, R229). -/
def releaseKernels (s : State) : State :=
  let s := { s with kernels := s.kernels.map fun (k : Kernel) => if k.leaving && s.kernelBusy k.id then { k with lastReply := s.tick } else k }
  let due := s.kernels.filter fun (k : Kernel) => k.leaving && !s.kernelBusy k.id && decide (k.lastReply + 2 ≤ s.tick)
  due.foldl (fun (s : State) (k : Kernel) =>
    { (refundQuota k.port 5 ((kHead k.image).bundles * (kHead k.image).clusters) s) with kernels := s.kernels.filter fun x => x.id != k.id }) s

/-! ## KERNEL_RUN (R228) -/

/-- One binding entry of a run against its image's binding (R228). -/
def bindingBad (q : Pkt) (ch : Channel) (im : Bytes) (i : Nat) (s : State) : Option Final :=
  let n := fld q.params (80 + 16 * i) 4
  let off := fld q.params (88 + 16 * i) 8
  let b := kBind im i
  let sink := n == 0xFFFFFFFF
  let o := s.ownObj q.access n
  let t := s.tables.find? fun t => t.num == n && t.owner == q.access && !t.freed
  let size := if sink then ch.sinkBytes else match t with
    | some t => t.rowsHere * t.stride + t.spare * t.stride
    | none => (o.map fun o => o.pages * pageBytes).getD 0
  let tierBad := match o with
    | some o => decide (min 2 b.2 < o.tier) || (b.2 == 2 && o.tier == 2 && o.homes.any fun m => m / 32 != s.self / 32)
        || (bit b.1 2 && o.tier == 0)
    | none => t.isSome && (b.2 == 0 || (t.map Table.heap) == some 0)
  -- an object that is no table of a narrow atomic delivery's row format cannot serve it (R200, DEDUCED, log entry 17)
  let noTable := (List.range (kHead im).phases).any fun p => (narrowAtomics im p).any fun a => a.1 == i && (t.map Table.fmt) != some a.2
  firstBad
    [(!sink && o.isNone && t.isNone, badParam 3 (80 + 16 * i)), (decide (size ≤ off), badParam 0 (88 + 16 * i)),
     (sink != bit b.1 3 || tierBad || noTable, badParam 2 (80 + 16 * i))]

/-- Checks of KERNEL_RUN (R228, R229). -/
def checkKernelRun (q : Pkt) (ch : Channel) (s : State) : Option Final :=
  match s.loaded ch.slot with
  | none => some (badParam0 3)
  | some k =>
    let im := k.image
    let h := kHead im
    firstBad [(fld q.params 0 1 != h.args, badParam 2 0), (fld q.params 1 1 != h.bindings, badParam 2 1)]
    <|> (List.range h.args).findSome? (fun i => if kArgMax im i < fld q.params (16 + 4 * i) 4 then some (badParam 0 (16 + 4 * i)) else none)
    <|> (List.range h.bindings).findSome? fun i => bindingBad q ch im i s

/-- Settings that a kernel's phases run by, as they stand at admission (R70): TIER_LATE and FALLBACK of the command's own channel, then ROUND_MODE,
ROUND_SEED and SAT_THRESHOLD of its kernel's channel, then the same three of the fallback's. -/
def runSettings (own kernel : Channel) (s : State) : List Nat :=
  let three := fun (h : Option Channel) => [0x030B, 0x030C, 0x030D].map fun sid => (h.map fun x => x.setting sid).getD 0
  [own.setting 0x0303, own.setting 0x030A] ++ three (some kernel) ++ three (s.handleChan (own.setting 0x030A))

/-- Working values of a run: its sink, its kernel and its settings (R70, R229). -/
def runWork (ch : Channel) (k : Kernel) (s : State) : List Nat := [ch.sinkBase, ch.sinkBytes, k.id] ++ runSettings ch ch s
/-- Objects a run keeps in use (R72). -/
def runUses (q : Pkt) : List Nat := ((List.range (fld q.params 1 1)).map fun i => fld q.params (80 + 16 * i) 4).filter fun n => n != 0xFFFFFFFF
/-- Stages of a run: one for each phase (R207, R209). -/
def runCharges (k : Kernel) : List (StageKind × List (Res × Nat)) :=
  (List.range (kHead k.image).phases).map fun p => (.phase p, phaseCharge k p)

/-! ## The encoder of a SEARCH_ENCODED (R106, R230) -/

/-- The encoder kernel of a SEARCH channel. -/
def State.encoderOf (s : State) (ch : Channel) : Option Kernel := s.kernelOn ch.encoder

/-- Checks of SEARCH_ENCODED beyond SEARCH's (R106, R229, R230). -/
def checkEncoded (q : Pkt) (ch : Channel) (s : State) : Option Final :=
  match s.encoderOf ch with
  | none => some (badParam0 3)
  | some k =>
    let h := kHead k.image
    let n := fld q.params 80 4
    firstBad
      [(fld q.params 3 1 != 0, badParam 2 3), (n == 0 || decide (65408 < n), badParam 0 80), (q.params.length != 96 + roundUp n 16, badLen),
       (h.phases != 1 || decide (h.bindings < 2) || h.args == 0, badParam0 2), (decide (kArgMax k.image 0 < n), badParam 0 80)]

end Sys2Proof.Machine
end

