-- ==== Sys2Proof/Machine/Maintain.lean ====
section
/-! DEFINITION. The maintenance job of a shard: slices, sweep, boundaries; BULK_LOAD and INDEX_STAT (R147, R149–R161). -/

namespace Sys2Proof.Machine

/-! ## Slices (R150) -/

/-- The entry-point table a slice adds to: what it has staged, else the one in force (R153). -/
def State.stagedPoints (s : State) (x : Index) (sh : Shard) : List NRec :=
  match sh.entryStaged with
  | some l => l.map (parseRec x.sketchBytes)
  | none => s.entryPoints x sh

/-- Take the next side-list entry of a shard (R150) while the allowance and walk capacity last: skip it when it is deleted, else link it. `n` bounds
the entries looked at. -/
def sliceEntries (num : Nat) : (n : Nat) → State → State
  | 0, s => s
  | n + 1, s =>
    match s.index num with
    | none => s
    | some x => match x.shard with
      | none => s
      | some sh => match sh.slice with
        | none => s
        | some (ins, hops) =>
          let pos := sh.head + sh.taken.length
          if sh.tail ≤ pos ∨ ins = 0 ∨ hops < sh.hopCharge then s
          else
            let e := s.sideRec x sh pos
            let took := fun (h : Shard) => { h with taken := h.taken ++ [pos] }
            if s.sideDeleted x sh pos || s.tombed sh e.slot then sliceEntries num n (s.setShard num took)
            else
              let s := linkEntry x sh (s.entryPoints x sh) e sh.width sh.alpha sh.hopBudget s
              let pts := offerEntry x (s.stagedPoints x sh) e
              let s := s.setShard num fun h => { took h with
                slice := some (ins - 1, hops - h.hopCharge)
                entryStaged := if pts.length = (s.stagedPoints x sh).length then h.entryStaged else some (pts.map NRec.bytes)
                merged := (h.merged + 1) % 2 ^ 32
                waits := h.waits.map fun w => if pos < w.upTo then { w with merged := w.merged + 1 } else w }
              sliceEntries num n s

/-- Repair one position of a block: an edge to a deleted slot is replaced by the best of that slot's own neighbours (R155). -/
def sweepPos (x : Index) (sh : Shard) (slot : Nat) (s : State) (pos : Nat) : State :=
  let block := s.block x sh slot
  match block[pos]? with
  | none => s
  | some r =>
    if !r.valid || !s.tombed sh r.slot then s
    else
      let cands := (s.block x sh r.slot).filter fun q => q.valid && !s.tombed sh q.slot && q.slot != slot && !(block.any fun b => b.valid && b.slot == q.slot)
      let key := fun (q : NRec) => (ham r.sketch q.sketch, q.slot)
      match (sortBy (fun a b => decide ((key a).1 < (key b).1) || ((key a).1 == (key b).1 && decide ((key a).2 < (key b).2))) cands).head? with
      | some q => putRec x sh slot pos { q with valid := true, reverse := false } s
      | none => putNoRec x sh slot pos s

/-- Sweep one block (R155). -/
def sweepBlock (x : Index) (sh : Shard) (s : State) (slot : Nat) : State :=
  if s.tombed sh slot then s else (List.range x.degree).foldl (sweepPos x sh slot) s

/-- Sweep up to SWEEP_BLOCKS blocks, one insertion per 64 (R149, R155); at the end of a pass the reclaimable slots, those that the side list no longer
shows, are queued, stamped with this tick. -/
def sweepSlice (num : Nat) (s : State) : State :=
  match s.index num with
  | none => s
  | some x => match x.shard with
    | none => s
    | some sh => match sh.pass, sh.slice with
      | some (p, h, cur), some (ins, hops) =>
        let n := min (min sh.sweepBlocks (64 * ins)) (h + 1 - cur)
        let s := ((List.range n).map (· + cur)).foldl (sweepBlock x sh) s
        if h < cur + n then
          let out := sh.deleted.filter fun d => decide (d.2 ≤ p) && !(sh.positions.any fun q => (s.sideRec x sh q).slot == d.1)
          s.setShard num fun g => { g with
            pass := none, slice := some (ins - ceilDiv n 64, hops)
            deleted := g.deleted.filter fun d => !out.contains d
            reclaim := g.reclaim ++ out.map fun d => (d.1, s.tick, s.tick) }
        else s.setShard num fun g => { g with pass := some (p, h, cur + n), slice := some (ins - ceilDiv n 64, hops) }
      | _, _ => s

/-- A slice of a shard's maintenance job (R150): side-list entries, then the sweep. One runs in a tick, in the tick of its admission, and it starts no
insertion after the cut-off (R18, R26, R149). -/
def runSlice (num shard : Nat) (s : State) : State :=
  match (s.index num).bind Index.shard with
  | none => s
  | some sh =>
    if s.frame.tail || sh.number != shard || sh.slice.isNone || sh.ran then s
    else (sweepSlice num (sliceEntries num (sh.tail - sh.head + 1) s)).setShard num fun h => { h with ran := true }

/-! ## Boundaries (R147, R153, R155) -/

/-- At the start of a pass, each entry point whose slot is tombstoned is replaced from its block, or removed (R153). -/
def replacePoints (s : State) (x : Index) (sh : Shard) (es : List NRec) : List NRec :=
  es.foldl (fun out e =>
    if s.tombed sh e.slot then
      match (s.block x sh e.slot).find? fun r => r.valid && !s.tombed sh r.slot && !(es.any fun p => p.slot == r.slot) && !(out.any fun p => p.slot == r.slot) with
      | some r => out ++ [{ r with reverse := false }]
      | none => out
    else out ++ [e]) []

/-- Can a slice of the shard make progress: has it an allowance, and are the hops of one entry within what local admission may use in an empty tick
(R147, R149; what "no slice can make progress" means is DEDUCED, log entry 79)? -/
def State.canMerge (s : State) (sh : Shard) : Bool := decide (0 < sh.allowance) && decide (sh.hopCharge ≤ s.localCapacity .hops)

/-- What a boundary does to a shard: head passes what was merged or skipped, staged entry points take effect, the forced condition is
judged, a pass begins when deleted slots await (R147, R150, R153, R155). -/
def shardBoundary (x : Index) (s : State) : State :=
  match x.shard with
  | none => s
  | some sh =>
    let s := match sh.entryStaged with
      | some l => putEntryPoints x sh l s
      | none => s
    let fill := sh.tail - (sh.head + sh.taken.length)
    let forced := (decide (196608 ≤ fill) || (sh.forced && decide (131072 ≤ fill))) && s.canMerge sh
    let begins := sh.pass.isNone && !sh.deleted.isEmpty
    let pts := s.entryPoints x sh
    let pts' := replacePoints s x sh pts
    let s := if sh.taken.isEmpty then s
      else s.setFrame fun f => { f with freed := f.freed ++ [⟨.positions x.num (sh.head + sh.taken.length), f.tick - 1, f.tick - 1⟩] }
    s.setShard x.num fun h => { h with
      head := h.head + h.taken.length, taken := []
      rates := if h.slice.isSome then (h.taken.length :: h.rates).take 64 else h.rates
      slice := none, ran := false
      entryStaged := if begins && pts' != pts then some (pts'.map NRec.bytes) else none
      forced := forced
      forcedCount := if forced && !h.forced then min (h.forcedCount + 1) 0xFFFF else h.forcedCount
      pass := if begins then some (s.tick, h.issued - 1, 0) else h.pass }

/-- Passes of this tick read the side list as it stands at the boundary, after the commits; those that wait are ready anew when the admission pass
ends, and one that runs goes on (R116). -/
def shardScanBounds (x : Index) (s : State) : State := s.setShard x.num fun h => { h with scanHead := h.head, scanTail := h.tail, ready := none }

/-! ## BULK_LOAD (R158, R159) -/

/-- Offsets and counts of the staged object (R158). -/
structure LoadPlan where
  fmt : Nat
  contents : Nat
  count : Nat
  proj : Nat
  books : Nat
  route : Nat
  entries : Nat
  deriving DecidableEq, Repr

def loadPlan (bs : Bytes) : LoadPlan :=
  ⟨fld bs 2 1, fld bs 3 1, fld bs 8 5, fld bs 16 8, fld bs 24 8, fld bs 32 8, fld bs 40 8⟩

/-- Entry `i` of a staged object: key, attributes, tag, vector (R143, R158). -/
def State.loadEntryAt (s : State) (src : Nat) (p : LoadPlan) (dims i : Nat) : Nat × Nat × Nat × List Word :=
  let e := insertEntry p.fmt dims
  let bs := s.readObj src (p.entries + i * e) e
  (fld bs 0 8, fld bs 8 8, fld bs 16 2, hostVec p.fmt dims (slice bs 32 (vecBytes p.fmt dims)))

/-- The projection and routing table a load uses: the staged one where the object gives it (R159). -/
def State.loadProj (s : State) (src : Nat) (p : LoadPlan) (x : Index) : Bytes :=
  if bit p.contents 0 then s.readObj src p.proj x.projBytes else (x.shard.map fun sh => s.readObj sh.proj 0 x.projBytes).getD []
def State.loadBooks (s : State) (src : Nat) (p : LoadPlan) (x : Index) : Bytes :=
  if bit p.contents 1 then s.readObj src p.books x.bookBytes else (x.shard.map fun sh => s.readObj sh.books 0 x.bookBytes).getD []
def State.loadRoute (s : State) (src : Nat) (p : LoadPlan) (x : Index) : Bytes :=
  if bit p.contents 2 then s.readObj src p.route (x.count * x.routeEntry) else s.routeTable x

/-- Why a BULK_LOAD is refused when it takes hold (R158). What shards on other members hold, and the projection where none lies here, is open
(DESIGN CHOICE, log entry 9). -/
def loadBad (src : Nat) (x : Index) (q : Pkt) (s : State) : Option Final :=
  match s.ownObj q.access src with
  | none => some (badParam 3 0)
  | some o =>
    let hd := s.readObj src 0 64
    let p := loadPlan hd
    let size := o.pages * pageBytes
    let need := p.entries + p.count * insertEntry p.fmt x.dims
    let issued := (x.shard.any fun sh => decide (sh.reclaim.length < sh.issued)) || ((x.shard.isNone || x.count != 1) && Config.remoteSays s.free 0 x.num)
    let zero := match x.shard with
      | some sh => (s.readObj sh.proj 0 x.projBytes).all (· == 0)
      | none => Config.remoteSays s.free 2 x.num
    let bad := fld hd 0 2 != 1 || decide (1 < p.fmt) || decide (8 ≤ p.contents) || fld hd 4 4 != 0 || fld hd 13 3 != 0 || !zeroAt hd 48 16
      || [p.proj, p.books, p.route, p.entries].any (fun a => a % 16 != 0)
      || (!bit p.contents 0 && p.proj != 0) || (!bit p.contents 1 && p.books != 0) || (!bit p.contents 2 && p.route != 0)
      || decide (size < need) || (bit p.contents 0 && decide (size < p.proj + x.projBytes)) || (bit p.contents 1 && decide (size < p.books + x.bookBytes))
      || (bit p.contents 2 && decide (size < p.route + x.count * x.routeEntry)) || (bit p.contents 2 && x.mode != 2)
    firstBad [(!o.staged || o.tier != 1 || o.spread != 0, badParam 2 0), (x.loading || issued, badParam0 2), (bad, badParam 2 0),
      (!bit p.contents 0 && zero, badParam 2 0), (!bit p.contents 2 && x.mode == 2, badParam 2 0),
      (x.mode == 0 && decide (x.slots < p.count), badParam 2 0)]

/-- A shard would receive more entries than SLOTS (R158). -/
def loadOver (src : Nat) (x : Index) (s : State) : Option Final :=
  let p := loadPlan (s.readObj src 0 64)
  let to_ := (List.range p.count).map fun i => let e := s.loadEntryAt src p x.dims i; s.shardFor x (s.loadRoute src p x) e.1 e.2.2.2
  if (List.range x.count).any fun k => decide (x.slots < (to_.filter (· == k)).length) then some (badParam 2 0) else none

/-- BULK_LOAD takes hold (R158): any shard that would receive more entries than SLOTS refuses it. -/
def holdBulkLoad (c : Cmd) (s : State) : State :=
  match s.ingest c with
  | none => finish c badHandle s
  | some (ch, x) =>
    let ps := c.q.params
    let src := fld ps 0 4
    match loadBad src x c.q s <|> loadOver src x s with
    | some f => finish c f { s with free := s.free + 1 + x.count }
    | none =>
        let s := { s with free := s.free + 1 + x.count }
        let p := loadPlan (s.readObj src 0 64)
        let table := s.loadRoute src p x
        let r := startJob c (.bulkLoad x.num) [src, pickVal (fld ps 4 2) 4096, pickVal (fld ps 6 1) 2, pickVal (fld ps 7 1) 20, chargeFor ch ch.hopBudget, ch.hopBudget] s
        (r.1.setCmd c.id fun d => { d with uses := [ch.primary, src], binding := ch.binding }).setIndex x.num fun y => { y with
          loading := true, loadRecs := [], loadEntry := []
          staged := [s.loadProj src p x, s.loadBooks src p x, table] }

/-- Convert one staged entry for a command and the channel in slot `chan`: an entry of this member's shard takes the next slot (R159, R185). -/
def loadConvert (cmd : Option Nat) (chan : Nat) (x : Index) (src : Nat) (p : LoadPlan) (i : Nat) (s : State) : State :=
  let e := s.loadEntryAt src p x.dims i
  let k := s.free
  let s := { s with free := k + 8 * x.sketchBytes + x.count + 1 }
  match (s.index x.num).bind Index.shard with
  | none => s
  | some sh =>
    if s.shardFor x (x.staged.getD 2 []) e.1 e.2.2.2 != sh.number then s
    else
      let d := derive_ x (x.staged.getD 0 []) (x.staged.getD 1 []) k e.2.2.2
      let slot := sh.issued
      let s := countConv chan d.counts s
      let s := writeBy cmd 2 sh.exact (slot * x.exactStride) d.exact s
      let s := writeBy cmd 2 sh.outl (slot * x.outDims.length) d.outl s
      let s := s.writeObj sh.codes (slot * (x.subspaces / 2)) d.code
      let s := s.writeObj sh.keys (16 * slot) (leBytes 8 e.1 ++ d.key)
      let s := setBitOf sh.tomb 0 slot false (putBlock x sh slot [] s)
      s.setIndex x.num fun y => { y with
        loadRecs := y.loadRecs ++ [NRec.bytes { slot := slot, valid := true, tag := e.2.2.1, attr := e.2.1, sketch := d.sketch }]
        shard := y.shard.map fun h => { h with issued := h.issued + 1 } }

/-- Link one loaded slot, seeding from the points chosen so far (R153, R159; DEDUCED, log entry 14). -/
def loadLink (num i width alpha budget : Nat) (s : State) : State :=
  match s.index num with
  | none => s
  | some x => match x.shard, x.loadRecs[i]? with
    | some sh, some bs =>
      let e := parseRec x.sketchBytes bs
      let pts := x.loadEntry.map (parseRec x.sketchBytes)
      let s := linkEntry x sh pts e width alpha budget s
      s.setIndex num fun y => { y with loadEntry := (offerEntry x pts e).map NRec.bytes }
    | _, _ => s

/-- The end of a load (R159): staged tables and entry points take effect together; slots written and not linked are tombstoned. -/
def loadEnd (num linked : Nat) (s : State) : State :=
  match s.index num with
  | none => s
  | some x =>
    let s := s.writeObj x.route 0 (x.staged.getD 2 [])
    let s := match x.shard with
      | some sh =>
        let s := s.writeObj sh.proj 0 (x.staged.getD 0 [])
        let s := s.writeObj sh.books 0 (x.staged.getD 1 [])
        let s := putEntryPoints x sh x.loadEntry s
        let left := (List.range (x.loadRecs.length - linked)).map (· + linked)
        let s := left.foldl (fun s k => setBitOf sh.tomb 0 k true (s.writeObj sh.keys (16 * k) (leBytes 8 noKey))) s
        s.setShard num fun h => { h with deleted := h.deleted ++ left.map fun k => (k, s.tick) }
      | none => s
    s.setIndex num fun y => { y with loading := false, staged := [], loadRecs := [], loadEntry := [], routeSince := if x.mode = 2 then s.tick else y.routeSince }

/-- Slots are issued from 0 (R159): a shard whose slots have all been reclaimed starts again once the grace of each has passed (R7, R156). -/
def loadReady (x : Index) (s : State) : Bool := (x.shard.map fun sh => sh.reclaim.all fun r => decide (r.2.2 + 2 ≤ s.tick)).getD true
def loadStart (x : Index) (s : State) : State := s.setShard x.num fun h => { h with issued := 0, reclaim := [] }

/-- One slice of a BULK_LOAD job (R159): phase 0 converts, phase 1 links; in phase 2 it waits for the boundary after the last slice. -/
def loadSlice (j : Job) (hops : Nat) (s : State) : State :=
  match j.kind with
  | .bulkLoad num => match s.index num with
    | none => { s with jobs := s.jobs.filter fun k => k.id != j.id }
    | some x =>
      let src := j.args.getD 0 0
      let allow := j.args.getD 1 0
      let p := loadPlan (s.readObj src 0 64)
      if j.phase = 0 then
        if !loadReady x s then s else
        let s := if j.cursor = 0 then loadStart x s else s
        let n := min allow (p.count - j.cursor)
        let chan := ((j.cmd.bind s.cmd).map fun c => handleSlot c.q.handle).getD 65535
        let s := ((List.range n).map (· + j.cursor)).foldl (fun s i => loadConvert j.cmd chan x src p i s) s
        s.setJob j.id fun k => if p.count ≤ j.cursor + n then { k with phase := 1, cursor := 0, progressed := true } else { k with cursor := j.cursor + n, progressed := true }
      else if j.phase = 1 then
        let n := min (min allow (x.loadRecs.length - j.cursor)) (hops / max 1 (j.args.getD 4 1))
        let s := ((List.range n).map (· + j.cursor)).foldl (fun s i => loadLink num i (j.args.getD 2 2) (j.args.getD 3 20) (j.args.getD 5 256) s) s
        s.setJob j.id fun k => { k with
          phase := if x.loadRecs.length ≤ j.cursor + n then 2 else 1
          cursor := j.cursor + n, progressed := decide (0 < n) || decide (x.loadRecs.length ≤ j.cursor + n) }
      else s
  | _ => s

/-- Loads whose last slice ran in the tick before: what they staged takes effect at this boundary, and they reply in this tick (R159). -/
def endLoads (s : State) : State :=
  s.jobs.foldl (fun s j => match j.kind with
    | .bulkLoad num =>
      if j.phase = 2 then
        let s := loadEnd num j.cursor { s with jobs := s.jobs.filter fun k => k.id != j.id }
        match j.cmd.bind s.cmd with
        | some c => finish c (okDone (loadPlan (s.readObj (j.args.getD 0 0) 0 64)).count) s
        | none => s
      else s
    | _ => s) s

/-! ## INDEX_STAT (R161) -/

/-- One statistics record of this member's shard (R161). -/
def statRecord (x : Index) (sh : Shard) (s : State) : Bytes :=
  leBytes 4 (sh.tail - sh.head) ++ leBytes 4 sh.reserved ++ leBytes 5 (sh.issued - sh.reclaim.length) ++ leBytes 5 sh.deleted.length ++ leBytes 5 sh.reclaim.length
    ++ leBytes 1 (fld (s.readObj sh.entry 0 1) 0 1) ++ leBytes 6 ((sh.pass.map fun p => p.1).getD 0) ++ leBytes 5 ((sh.pass.map fun p => p.2.2).getD 0)
    ++ leBytes 6 x.routeSince ++ leBytes 4 sh.merged ++ leBytes 2 sh.forcedCount ++ leBytes 1 (flag x.loading 0 + flag sh.pass.isSome 1) ++ zeros 16

/-- INDEX_STAT (R161): the records of other members' shards are open (DESIGN CHOICE, log entry 9). -/
def holdIndexStat (c : Cmd) (s : State) : State :=
  match s.handleChan c.q.handle with
  | none => finish c badHandle s
  | some ch => match s.index ch.primary with
    | none => finish c badHandle s
    | some x =>
      let n := fld c.q.params 0 2
      let shards := if n = 0xFFFF then List.range x.count else [n]
      let recs := shards.zipIdx.map fun p => match x.shard with
        | some sh => if sh.number = p.1 then statRecord x sh s else (List.range 48).map (fun i => Config.freeByte (s.free + 64 * p.2 + i)) ++ zeros 16
        | none => (List.range 48).map (fun i => Config.freeByte (s.free + 64 * p.2 + i)) ++ zeros 16
      finish c (okDone shards.length (reportAt c recs.flatten)) { s with free := s.free + 64 * shards.length }

end Sys2Proof.Machine
end

