-- ==== Sys2Proof/Machine/Prefetch.lean ====
section
/-! DEFINITION. PREFETCH_PLAN (0x6004) on a STREAM channel: its checks, its pages, and the end of its KEEP hold (R279, R280). -/

namespace Sys2Proof.Machine

/-- One entry of a plan (R279). Pages are page numbers within the objects. -/
structure PlanEntry where
  src : Nat
  dst : Nat
  srcOff : Nat
  dstOff : Nat
  pages : Nat
  start : Nat
  hold : Nat
  deriving Inhabited

def planCount (ps : Bytes) : Nat := fld ps 0 2
def planEntry (ps : Bytes) (i : Nat) : PlanEntry :=
  let o := 16 + 32 * i
  ⟨fld ps o 4, fld ps (o + 4) 4, fld ps (o + 8) 8, fld ps (o + 16) 8, fld ps (o + 24) 4, fld ps (o + 28) 1, fld ps (o + 29) 1⟩

/-- Do two page ranges share a page? -/
def rangesMeet (a an b bn : Nat) : Bool := decide (a < b + bn) && decide (b < a + an)

/-- D of a command as its channel stands (R20). -/
def planD (q : Pkt) (s : State) : Nat :=
  if q.deadline = 0 then ((s.handleChan q.handle).map fun c => c.setting 0x0301).getD 1 else q.deadline

/-- Why one entry of a plan is refused (R279). -/
def entryBad (q : Pkt) (e : PlanEntry) (off : Nat) (s : State) : Option Final :=
  let pagesOf := fun n => ((s.obj n).map Obj.pages).getD 0
  let tierOf := fun n => ((s.obj n).map Obj.tier).getD 3
  firstBad
    [(e.srcOff % pageBytes != 0, badParam 0 (off + 8)), (e.dstOff % pageBytes != 0, badParam 0 (off + 16)),
     (e.pages == 0 || decide (65535 < e.pages), badParam 0 (off + 24)),
     ((s.ownObj q.access e.src).isNone, badParam 3 off), (e.dst != 0 && (s.ownObj q.access e.dst).isNone, badParam 3 (off + 4)),
     (tierOf e.src == 0, badParam 2 off), (e.dst != 0 && tierOf e.dst != 0, badParam 2 (off + 4)),
     (e.dst == 0 && e.dstOff != 0, badParam 2 (off + 16)),
     (decide (pagesOf e.src < e.srcOff / pageBytes + e.pages), badParam 2 (off + 8)),
     (e.dst != 0 && decide (pagesOf e.dst < e.dstOff / pageBytes + e.pages), badParam 2 (off + 16)),
     (e.src == e.dst && rangesMeet (e.srcOff / pageBytes) e.pages (e.dstOff / pageBytes) e.pages, badParam 2 (off + 16))]

/-- Checks of PREFETCH_PLAN (R279): its entries, its carve-out use, and START against D (R20). -/
def checkPrefetch (q : Pkt) (s : State) : Option Final :=
  let ps := q.params
  let n := planCount ps
  if n = 0 ∨ 1024 < n then some (badParam 0 0)
  else
    let es := (List.range n).map (planEntry ps)
    let cached := (es.filterMap fun e => if e.dst = 0 then some e.pages else none).foldl (· + ·) 0
    addrCheck q 8 1 (2 * n) true s
    <|> ((List.range n).findSome? fun i => entryBad q (planEntry ps i) (16 + 32 * i) s)
    <|> firstBad [(decide (s.carveout (s.setting 0x0401) < cached * pageBytes), badParam0 2), (es.any fun e => decide (planD q s < e.start), badParam0 4)]

/-- Pages of one object marked by a function. -/
def markPages (num first count : Nat) (f : Page → Page) (s : State) : State :=
  s.setObj num fun o => (List.range count).foldl (fun o i => o.setPage (first + i) f) o

/-- PREFETCH_PLAN is admitted: destination pages are unplaced, and its job starts (R26, R280). -/
def holdPrefetch (c : Cmd) (s : State) : State :=
  match checkPrefetch c.q s with
  | some f => finish c f s
  | none =>
    let ps := c.q.params
    let n := planCount ps
    let es := (List.range n).map (planEntry ps)
    let d := planD c.q s
    let r := startJob c .prefetch (es.map fun _ => 0) s
    let s := r.1.setCmd c.id fun x => { x with
      deadline := d, uses := dedupBy id (es.flatMap fun e => if e.dst = 0 then [e.src] else [e.src, e.dst]) }
    let s := es.foldl (fun s e => if e.dst = 0 then s else markPages e.dst (e.dstOff / pageBytes) e.pages (fun p => { p with unplaced := true, stale := false }) s) s
    let holds := es.filterMap fun e => if e.dst = 0 then some (c.id, s.tick + d + e.hold, e.src, e.srcOff / 256, 256 * e.pages) else none
    s.setMem fun m => { m with holds := m.holds ++ holds }

/-- Bytes of a plan's REPORT: pages placed per entry (R280). -/
def planReport (c : Cmd) (j : Job) : List HostPost :=
  let a := fld c.q.params 8 8
  let bs := j.args.flatMap (leBytes 2)
  if a = 0 ∧ c.q.access ≠ 8 then [] else [⟨a, bs⟩]

/-- The page a plan places next: the entry, its number and the page within it. -/
def planNext (c : Cmd) (j : Job) : Option (PlanEntry × Nat × Nat) :=
  if j.cursor < planCount c.q.params then some (planEntry c.q.params j.cursor, j.cursor, j.args.getD j.cursor 0) else none

/-- A plan's next page lands: in its object, or as keep lines of the carve-out; poisoned granules stay poisoned (R280, R290, R305). When its
last page has landed the plan replies. -/
def placePage (c : Cmd) (j : Job) (e : PlanEntry) (i k : Nat) (bad : List Nat) (s : State) : State :=
  let sp := e.srcOff / pageBytes + k
  let s := (bad.filter fun g => decide (g < 256)).foldl (fun s g => uncorrectable e.src (sp * pageBytes + 256 * g) 256 s) s
  let keep := fun (l : Nat) (s : State) =>
    let r := cacheRead e.src l 1 s
    (countChan (handleSlot c.q.handle) 27 r.2 r.1).setMem fun m => { m with cache := m.cache.map fun x => if x.1 = e.src ∧ x.2.1 = l then (x.1, x.2.1, true) else x }
  let s := if e.dst = 0 then (List.range 256).foldl (fun s l => keep (256 * sp + l) s) s
    else
      let dp := e.dstOff / pageBytes + k
      let hurt := (List.range 256).filter fun g => s.poisoned e.src (sp * pageBytes + 256 * g) 256
      (s.writeObj e.dst (dp * pageBytes) (s.readObj e.src (sp * pageBytes) pageBytes)).setObj e.dst fun o =>
        (o.setPage dp fun p => { p with unplaced := false }) |> fun o => { o with poison := o.poison ++ hurt.map fun g => dp * 256 + g }
  let s := countChan (handleSlot c.q.handle) 29 1 s
  let j' := { j with args := modifyAt j.args i (· + 1), count := j.count + 1, phase := j.phase - 1, progressed := true,
                     cursor := if k + 1 < e.pages then j.cursor else j.cursor + 1 }
  if j'.cursor < planCount c.q.params then s.setJob j.id fun _ => j'
  else finish c (okDone j'.count (planReport c j')) { s with jobs := s.jobs.filter fun x => x.id != j.id }

/-- The plan, if any, whose next page this is, with pages left in its slice (R26, R280). -/
def State.planFor (s : State) (num page : Nat) : Option (Cmd × Job × PlanEntry × Nat × Nat) :=
  s.jobs.findSome? fun j =>
    if j.kind != .prefetch || j.phase == 0 then none
    else match j.cmd.bind s.cmd with
      | none => none
      | some c => match planNext c j with
        | none => none
        | some (e, i, k) =>
          let dst := if e.dst = 0 then (e.src, e.srcOff / pageBytes + k) else (e.dst, e.dstOff / pageBytes + k)
          if dst = (num, page) then some (c, j, e, i, k) else none

/-- Pages a plan may place in its next slice: entries in order, none before its START (R280). -/
def planReady (c : Cmd) (j : Job) (tick : Nat) : Nat :=
  let rest := (List.range (planCount c.q.params - j.cursor)).map fun i => (planEntry c.q.params (j.cursor + i), j.args.getD (j.cursor + i) 0)
  ((rest.takeWhile fun p => decide (c.admitTick + p.1.start ≤ tick)).map fun p => p.1.pages - p.2).foldl (· + ·) 0

/-- A plan that an ABORT or DESTROY ends: placed pages stay, the others read as before the plan and are stale (R64, R280). Answers the pages placed. -/
def cancelPlan (id : Nat) (s : State) : State × Nat :=
  match s.jobs.find? fun j => j.kind == .prefetch && j.cmd == some id, s.cmd id with
  | some j, some c =>
    let es := (List.range (planCount c.q.params)).map fun i => (planEntry c.q.params i, j.args.getD i 0)
    let s := es.foldl (fun s p => if p.1.dst = 0 then s
      else markPages p.1.dst (p.1.dstOff / pageBytes + p.2) (p.1.pages - p.2) (fun g => { g with unplaced := false, stale := true }) s) s
    ({ s with jobs := s.jobs.filter fun x => x.id != j.id }, j.count)
  | _, _ => (s, 0)

/-- KEEP_HOLD_EXPIRY: at the end of tick n + D + HOLD the keep lines of a plan lose their mark (R280). -/
def keepExpired (id : Nat) (s : State) : State :=
  let due := s.mem.holds.filter fun h => h.1 == id && decide (h.2.1 ≤ s.tick)
  let mine := fun (e : Nat × Nat × Bool) => due.any fun h => e.1 == h.2.2.1 && decide (h.2.2.2.1 ≤ e.2.1) && decide (e.2.1 < h.2.2.2.1 + h.2.2.2.2)
  s.setMem fun m => { m with
    holds := m.holds.filter fun h => !due.contains h
    cache := m.cache.map fun e => if mine e then (e.1, e.2.1, false) else e }

end Sys2Proof.Machine
end

