-- ==== Sys2Proof/Machine/Telemetry.lean ====
section
/-! DEFINITION. Telemetry commands (class 0x9): LOG_READ, COUNTERS_READ and ALARM_ACK, with the boot ledger and repair record as
they lie in flash (R357, R364, R385, R388–R390). -/

namespace Sys2Proof.Machine

/-- An event record's 64 bytes (R385). -/
def EventRec.bytes (r : EventRec) : Bytes :=
  leBytes 2 r.code ++ leBytes 1 r.flags ++ leBytes 1 r.port ++ leBytes 4 r.count ++ leBytes 8 r.seq ++ leBytes 6 r.first ++ leBytes 6 r.last
    ++ leBytes 4 r.subject ++ slice r.detail 0 32

/-- A byte string followed by the CRC-32 over it (R313's polynomial). -/
def withCrc (bs : Bytes) : Bytes := bs ++ leBytes 4 (crc32 bs).toNat

/-- The persistent block (R357). -/
def Ledger.bytes (l : Ledger) : Bytes :=
  let nib := (List.range 12).foldl (fun a i => a + l.stackRate.getD i 0 % 16 * 16 ^ i) 0
  let b8 := fun (xs : List Nat) => xs.flatMap (leBytes 1)
  withCrc (leBytes 4 l.seq ++ leBytes 4 l.startCount ++ leBytes 1 l.activeSlot ++ leBytes 1 l.lastState ++ b8 l.failRun
    ++ leBytes 1 (flag l.minimumHeld 0 + flag l.s8Skipped 1) ++ leBytes 2 l.member ++ leBytes 8 l.hallId ++ leBytes 1 l.tileHold
    ++ leBytes 1 l.clusterHold ++ leBytes 2 l.stackHold ++ leBytes 5 l.linkHold ++ leBytes 6 nib ++ zeros 1 ++ leBytes 4 l.repairPolicy
    ++ leBytes 1 l.agingMargin ++ leBytes 1 l.agingWarn ++ zeros 10 ++ b8 l.stackRun ++ b8 l.linkRun ++ b8 l.tileRun ++ b8 l.clusterRun
    ++ b8 l.throttle ++ zeros 120 ++ slice (Config.deviceBytes "training" 12288) 0 12288 ++ zeros 3836)

/-- A step entry (R357). -/
def StepEntry.bytes (e : StepEntry) (k : Nat) : Bytes :=
  withCrc (leBytes 1 k ++ leBytes 1 e.attempts ++ leBytes 1 e.outcome ++ leBytes 1 e.variant ++ leBytes 4 e.duration ++ leBytes 8 e.unitsOut
    ++ leBytes 4 e.detail ++ zeros 40)

/-- A start record's sector (R357). -/
def StartRecord.bytes (r : StartRecord) : Bytes :=
  slice (withCrc (leBytes 4 r.start ++ leBytes 1 r.cause ++ leBytes 1 r.slot ++ leBytes 1 r.state ++ zeros 1 ++ leBytes 4 r.duration ++ zeros 48)
    ++ (List.range 11).flatMap fun k => (r.steps.getD k {}).bytes k) 0 4096

/-- Sector `n` of the boot ledger: two copies of the block, then the ring of start records (R356). -/
def Mgmt.ledgerSector (m : Mgmt) (n : Nat) : Bytes :=
  if n < 8 then
    let even := if m.ledger.seq % 2 = 0 then m.ledger else m.ledgerOld
    let odd := if m.ledger.seq % 2 = 0 then m.ledgerOld else m.ledger
    slice ((if n < 4 then even else odd).bytes) (n % 4 * 4096) 4096
  else match m.starts.find? fun r => r.start % 248 == n - 8 with
    | some r => r.bytes
    | none => zeros 4096

/-- A repair record entry (R364). -/
def RepairEntry.bytes (r : RepairEntry) : Bytes :=
  withCrc (leBytes 4 r.seq ++ leBytes 6 r.tick ++ leBytes 4 r.start ++ leBytes 1 r.kind ++ leBytes 1 r.cause ++ leBytes 4 r.unit ++ leBytes 4 r.spare
    ++ leBytes 4 r.detail)

/-- Is an entry obsolete: a later one names the same unit, or the same row or page (R365)? -/
def RepairEntry.replaced (r : RepairEntry) (later : List RepairEntry) : Bool :=
  let own := [3, 5, 6].contains r.kind
  later.any fun e => e.unit == r.unit && (if own then e.kind == r.kind && e.detail == r.detail else !([3, 5, 6].contains e.kind))

/-- The repair record compacted: nothing older than the last KIND 12, nothing obsolete (R365). -/
def compact (rs : List RepairEntry) : List RepairEntry :=
  let last := (rs.reverse.find? fun r => r.kind == 12).toList
  let rs := last ++ (rs.reverse.takeWhile fun r => r.kind != 12).reverse
  (List.range rs.length).filterMap fun i => match rs[i]? with
    | some r => if r.replaced (rs.drop (i + 1)) then none else some r
    | none => none

/-- The record compacted: REPAIR_RECORD_FULL clears when that frees entries (R365, R388). -/
def compactRepairs (s : State) : State :=
  let t := s.setMgmt fun m => { m with repairs := compact m.repairs }
  if t.mgmt.repairs.length < s.mgmt.repairs.length then clearAlarm 0x00C 0 t else t

/-- Record a repair. A full record is compacted first; one that stays full raises REPAIR_RECORD_FULL and keeps nothing (R364, R365; DEDUCED, log entry 102). -/
def recordRepair (kind cause unit spare detail : Nat) (s : State) : State :=
  let s := if s.mgmt.repairs.length < 4096 then s else compactRepairs s
  if s.mgmt.repairs.length < 4096 then s.setMgmt fun m => { m with
    repairs := m.repairs ++ [⟨m.repairSeq, if s.power.inStart then 0 else s.tick, m.ledger.startCount, kind, cause, unit, spare, detail⟩]
    repairSeq := (m.repairSeq + 1) % 2 ^ 32 }
  else raiseAlarm 0x00C 0 s

/-! ## LOG_READ (R389) -/

/-- Records of a ring from a sequence number, a GAP record first when older ones are lost; an operator receives its own records
and the GAP records (R386, R389). That GAP record, which no ring holds, carries class 0, the number asked for, the ticks of the read and no subject, and
counts toward the most that are asked for (DESIGN CHOICE, log entry 101). -/
def ringRead (ring : List EventRec) (next from_ limit access : Nat) (all : Bool) (tick : Nat) : List EventRec :=
  let oldest := match ring with
    | [] => next
    | r :: _ => r.seq
  let lost := oldest - max from_ 1
  let gap : List EventRec := if 0 < lost then [⟨from_, 0, 0xA, 0xFF, lost, tick, tick, 0, []⟩] else []
  (gap ++ ring.filter fun r => decide (from_ ≤ r.seq) && (all || r.port == access || bit r.flags 1)).take limit

def holdLogRead (c : Cmd) (s : State) : State :=
  let ps := c.q.params
  let from_ := fld ps 8 8
  let n := fld ps 4 4
  let all := decide (1 ≤ s.role c.q.access)
  let m := s.mgmt
  let bs := match fld ps 0 1 with
    | 0 => (ringRead m.general m.generalSeq from_ n c.q.access all s.tick).flatMap EventRec.bytes
    | 1 => (ringRead m.alarms m.alarmSeq from_ n c.q.access all s.tick).flatMap EventRec.bytes
    | 2 => (List.range (min n (256 - from_))).flatMap fun i => m.ledgerSector (from_ + i)
    | _ => ((m.repairs.drop from_).take n).flatMap RepairEntry.bytes
  let k := freeCount s
  finish c (okDone k.1 [⟨fld ps 16 8, bs⟩]) k.2

/-! ## COUNTERS_READ (R390) -/

/-- Memory counters (R311), free capacity only for an operator. -/
def memCounters (all : Bool) (s : State) : List Nat :=
  let m := s.mem
  let rest := [m.fullSaved / 16, m.fullSkipped, m.expansionWait, m.backingDropped] ++ m.ceCorrected
    ++ [m.uePoisoned, m.pagesRetired, m.rowsRepaired, m.throttleUs, m.refresh2Us, m.refresh4Us]
  [s.t0Free, s.t1Free, if all then m.lent else 0, s.reserveFree] ++ (if all then rest else rest.map fun _ => 0)

/-- Fabric counters (R335). -/
def Fabric.counters (f : Fabric) : List Nat :=
  [f.flitReplay, f.laneSwap, f.linkRetrain, f.pktResend, f.pktUnreachable, f.detourRoutes, f.redirects, f.mergeMismatch, f.badType]

/-- Commands in the Control Bar queue (R55): queued or waiting for their audit entry, ABORTs apart. -/
def State.cbQueue (s : State) : List Cmd :=
  s.cmds.filter fun c => (c.state == .queued || c.state == .auditing) && c.op != 0xC001 && c.q.access != 8

/-- Management counters (R390). -/
def mgmtCounters (s : State) : List Nat :=
  let m := s.mgmt
  [m.cbLoad, s.cbQueue.length, m.cbBusy, m.mgmtLoad, m.badMsg, m.telemetryHalved, m.auditEntries, m.alarmDrop, m.gapRecords, m.coalesced]

/-- Counters in a scope (R185, R206, R234, R266, R281, R311, R335, R390). -/
def scopeSize (scope : Nat) : Nat := [35, 13, 17, 9, 10, 6].getD scope 19

/-- The counters of a scope (R390). -/
def scopeCounters (scope : Nat) (c : Cmd) (all : Bool) (s : State) : List Nat :=
  let x := s.port c.q.access
  match scope with
  | 0 => match s.handleChan c.q.handle with
    | some ch => ch.counters ++ [ch.overrun, ch.escalations, ch.escRefused, ch.stalls, ch.lateLists]
    | none => []
  | 1 => [s.pendingCount c.q.access] ++ x.counters ++ [x.parkLost]
  | 2 => memCounters all s
  | 3 => s.fabric.counters
  | 4 => mgmtCounters s
  | 5 => s.mgmt.drops.drop 1
  | _ => s.mgmt.dieTemps.take 4 ++ s.stackList.map (fun k => 10 * k.temp) ++ (s.mgmt.dieTemps.drop 4).take 1 ++ [s.mgmt.vinMv, s.mgmt.vinMw]

def holdCountersRead (c : Cmd) (s : State) : State :=
  let cs := scopeCounters (fld c.q.params 0 1) c (decide (1 ≤ s.role c.q.access)) s
  let bs := leBytes 6 s.tick ++ leBytes 2 cs.length ++ zeros 8 ++ cs.flatMap (leBytes 8)
  let k := freeCount s
  finish c (okDone k.1 (reportAt c bs)) k.2

/-! ## ALARM_ACK (R388) -/

/-- Mark the named alarms acknowledged; those also CLEARED are freed; AUDIT_OVERWRITE and FW_FALLBACK clear on acknowledgement. -/
def ackAlarms (code subject : Nat) (s : State) : State :=
  let hit := fun (e : AlarmEntry) => (code == 0xFFFF || e.code == code) && (subject == 0xFFFFFFFF || e.subject == subject)
  let s := s.setMgmt fun m => { m with
    alarmTable := (m.alarmTable.filter fun e => !(hit e && !e.active)).map fun e => if hit e then { e with acked := true } else e }
  [0x00D, 0x00E].foldl (fun t k => (t.mgmt.alarmTable.filter fun e => e.code == k && hit e && e.active).foldl (fun u e => clearAlarm e.code e.subject u) t) s

def holdAlarmAck (c : Cmd) (s : State) : State :=
  finish c (okDone 0) (ackAlarms (fld c.q.params 0 2) (fld c.q.params 4 4) s)

def checkTelemetry (op : Nat) (q : Pkt) (s : State) : Option Final :=
  let ps := q.params
  match op with
  | 0x9001 => firstBad [(decide (3 < fld ps 0 1), badParam 0 0)]
      <|> addrCheck q 16 1 (fld ps 4 4 * (if fld ps 0 1 = 2 then 4096 else if fld ps 0 1 = 3 then 32 else 64)) false s
  | 0x9002 => firstBad [(decide (6 < fld ps 0 1), badParam 0 0)] <|> addrCheck q 8 1 (16 + 8 * scopeSize (fld ps 0 1)) false s
  | _ => none

end Sys2Proof.Machine
end

