-- ==== Sys2Proof/Machine/Pages.lean ====
section
/-! DEFINITION. The page mover and the stacks: page copies and their switch at a boundary, fulling and expansion, backing pages, heat, patrol
scrub, retirement and row repair (R289–R308). -/

namespace Sys2Proof.Machine

/-! ## Fulled form (R293–R296) -/

/-- The bytes of a page. -/
def State.pageData (s : State) (num page : Nat) : Bytes := s.readObj num (page * pageBytes) pageBytes

/-- Sectors of a page's fulled form: 1 when all its bytes are zero, else what the compression gives (R293, DESIGN CHOICE, log entry 8). -/
def fulledSize (bs : Bytes) : Nat := if bs.all (· == 0) then 1 else max 1 (Config.fulledSectors bs)

/-- Page info of a page moved to T1: fulled when the object asks for it and it takes at most 12 sectors (R290, R293). -/
def fullPage (s : State) (o : Obj) (page : Nat) (p : Page) : Page :=
  let n := fulledSize (s.pageData o.num page)
  if !o.fulled then { p with fulled := none } else if n ≤ 12 then { p with fulled := some n, skipped := false } else { p with fulled := none, skipped := true }

/-- May the page mover full this page (R293)? -/
def Obj.canFull (o : Obj) (page : Nat) : Bool :=
  let p := o.page page
  o.fulled && !o.freed && decide (page < o.pages) && o.pageTier page == 1 && p.fulled.isNone && !p.skipped && p.switching.isNone && !p.unplaced

/-- Is the page among those to be taken first: pages direct longest, and expanded pages ahead of all others while a write waits for an
expansion page (R293, R295)? -/
def State.fullFirst (s : State) (o : Obj) (page : Nat) : Bool :=
  let since := (o.page page).directSince
  let short := s.objs.any fun x => x.pageInfo.any fun p => p.2.expandWait
  let eligible := s.objs.flatMap fun x => (x.pageInfo.filter fun p => x.canFull p.1).map fun p => p.2.directSince
  let untouched := s.objs.any fun x => x.fulled && x.tier == 1 && !x.freed && decide (x.pageInfo.length < x.pages)
  if short && eligible.any (fun t => t != 0) then since != 0 && eligible.all fun t => t == 0 || decide (since ≤ t)
  else (since == 0 || !untouched) && eligible.all fun t => decide (since ≤ t)

/-- PAGE_FULL: with migration capacity no slice has claimed, one page is compressed, or left direct and skipped (R293). -/
def pageFulled (num page : Nat) (s : State) : State :=
  match s.obj num with
  | none => s
  | some o =>
    if s.frame.tail || !o.canFull page || !s.fullFirst o page || s.uncharged s.tick .pages == 0 then s
    else
      let s := chargeNow [(.pages, 1)] s
      let n := fulledSize (s.pageData num page)
      if n ≤ 12 then
        (freeSpace (.sectors 16 ((o.stackOf page).getD 12)) (s.setObj num fun o => o.setPage page fun p => { p with fulled := some n })).setMem fun m =>
          { m with fullSaved := satAdd m.fullSaved (16 - n) }
      else (s.setObj num fun o => o.setPage page fun p => { p with skipped := true }).setMem fun m => { m with fullSkipped := satAdd m.fullSkipped 1 }

/-- Put a fulled page into a new direct page; its sectors are freed (R295). -/
def expandPage (num page : Nat) (s : State) : State :=
  match s.obj num with
  | none => s
  | some o =>
    let n := ((o.page page).fulled).getD 0
    let s := (if n = 0 then s else freeSpace (.sectors n ((o.stackOf page).getD 12)) s).setObj num fun o => o.setPage page fun p =>
      { p with fulled := none, expandWait := false, directSince := s.tick }
    if s.objs.any fun x => x.pageInfo.any fun p => p.2.expandWait then s else clearAlarm 0x005 0 s

/-- PAGE_EXPANSION: for a read the page passes through the expansion buffer, which changes no state the manual names (R294); for a write it
becomes direct, or the write waits (R295). -/
def pageExpanded (num page : Nat) (write : Bool) (s : State) : State :=
  match s.obj num with
  | none => s
  | some o =>
    if !write || (o.page page).fulled.isNone then s
    else if 0 < s.t1Free then expandPage num page s
    else if (o.page page).expandWait then s
    else raiseAlarm 0x005 0 ((s.setObj num fun o => o.setPage page fun p => { p with expandWait := true }).setMem fun m =>
      { m with expansionWait := satAdd m.expansionWait 1 })

/-- EXPANSION_WAIT: the waiting write proceeds once a page can be had (R295). -/
def expansionDone (num page : Nat) (s : State) : State :=
  match s.obj num with
  | none => s
  | some o => if (o.page page).expandWait && decide (0 < s.t1Free) then expandPage num page s else s

/-! ## Migration (R289–R291) -/

/-- The migration job of an object. -/
def State.migrateJob (s : State) (num : Nat) : Option Job := s.jobs.find? fun j => j.kind == .migrate num

/-- PAGE_COPY: the page mover copies a page within its job's slice; it switches at the next boundary (R290). Granules of `bad` are
uncorrectable and go over poisoned. -/
def pageCopied (num page : Nat) (bad : List Nat) (s : State) : State :=
  if s.frame.tail then s
  else match s.obj num, s.migrateJob num, s.planFor num page with
    | some o, some j, p =>
      match o.migration with
      | some m =>
        if m.left.contains page && (o.page page).switching.isNone && j.phase != 0 then
          let s := (bad.filter fun g => decide (g < 256)).foldl (fun s g => uncorrectable num (page * pageBytes + 256 * g) 256 s) s
          (s.setObj num fun o => o.setPage page fun x => { x with switching := some m.tier }).setJob j.id fun j =>
            { j with phase := j.phase - 1, progressed := true }
        else match p with
          | some (c, j, e, i, k) => placePage c j e i k bad s
          | none => s
      | none => s
    | _, none, some (c, j, e, i, k) => placePage c j e i k bad s
    | _, _, _ => s

/-- One page entry switches to its destination; the source is freed in this tick, or kept as a backing page (R290, R291). -/
def switchPage (num : Nat) (s : State) (page : Nat) : State :=
  match s.obj num with
  | none => s
  | some o => match (o.page page).switching, o.migration with
    | some t, some m =>
      let src := o.pageTier page
      let was := o.page page
      let keep := m.keep && t == 0 && src != 0
      let same := was.backing.any fun b => b.1 == t
      let p := { was with
        switching := none
        tier := if o.tier = t then none else some t
        directSince := s.tick
        backing := if keep then some (src, s.tick, was.sectors) else if same then none else was.backing
        dirty := [] }
      let p := if t = 1 then fullPage s o page p else { p with fulled := none }
      let s := match was.backing with
        | some (1, _, n) => if keep || same then s else freeSpace (.sectors n ((o.stackOf page).getD 12)) s
        | _ => s
      let s := if keep then s
        else if src = 0 then freeSpace (.pages 0 1) s
        else if src = 1 then freeSpace (.sectors was.sectors ((o.stackOf page).getD 12)) s else freeSpace (.pages 2 1) s
      s.setObj num fun o => { (o.setPage page fun _ => p) with
        migration := some { m with left := m.left.erase page, waiters := m.waiters.map fun w => (w.1, w.2 + 1) } }
    | _, _ => s

/-- The boundary for one object's migration: pages copied in the tick just closed switch; when the last has switched the job ends, and a WAIT 1
placement replies with the pages moved (R289, R290). -/
def switchObject (s : State) (num : Nat) : State :=
  match s.obj num with
  | none => s
  | some o =>
    let s := ((o.pageInfo.filter fun p => p.2.switching.isSome).map Prod.fst).foldl (switchPage num) s
    match (s.obj num).bind Obj.migration with
    | some m =>
      if m.left.isEmpty then
        let s := { (s.setObj num fun o => { o with migration := none }) with jobs := s.jobs.filter fun j => j.kind != .migrate num }
        m.waiters.foldl placeDone s
      else s
    | none => s

def switchPages (s : State) : State := (s.objs.map Obj.num).foldl switchObject s

/-- Backing pages, oldest first: tick, object, page, sectors. -/
def State.backings (s : State) : List (Nat × Nat × Nat × Nat) :=
  sortBy (fun a b => decide (a.1 < b.1)) (s.objs.flatMap fun o => o.pageInfo.filterMap fun p => match p.2.backing with
    | some (1, t, n) => some (t, o.num, p.1, n)
    | _ => none)

/-- Discard one backing page: every page of its object that it stood for is written whole from now on (R291). -/
def dropBacking (b : Nat × Nat × Nat × Nat) (s : State) : State :=
  let k := ((s.obj b.2.1).bind fun o => o.stackOf b.2.2.1).getD 12
  (freeSpace (.sectors b.2.2.2 k) (s.setObj b.2.1 fun o => o.setPage b.2.2.1 fun p => { p with backing := none, dirty := [] })).setMem fun m =>
    { m with backingDropped := satAdd m.backingDropped 1 }

/-- Backing pages go, oldest first, until free T1, with what is already freed, covers EXPANSION_RESERVE (R291). -/
def trimBackings (s : State) : State :=
  let need := s.setting 0x0404 - (s.t1Free + s.freedSectors 1 / 16)
  (s.backings.foldl (fun (a : Nat × State) b => if a.1 = 0 then a else (a.1 - (b.2.2.2 + 15) / 16, dropBacking b a.2)) (need, s)).2

/-! ## Heat (R302, R303) -/

/-- Refresh rate after a report: up at the first report above a threshold, down after one 3 °C below it (R302). -/
def refreshFor (now temp : Nat) : Nat :=
  if 95 < temp then 4
  else if now = 4 ∧ 92 < temp then 4
  else if 85 < temp then 2
  else if 2 ≤ now ∧ 82 < temp then 2
  else 1

/-- ALERT_N, low while any warning condition holds (R402). -/
def alertPin (s : State) : State :=
  let stackList := s.stackList.any fun k => k.inService && (k.sensorLost || decide (k.throttleAt < k.temp))
  let low := s.mgmt.dieHot.any id || s.mgmt.vinLow || s.mgmt.vinHigh || stackList
  s.setPower fun p => { p with alertN := !low }

/-- STACK_TEMP_REPORT (R302, R303): refresh rate, throttling above the stack's own threshold until 5 °C below it, and the alarms. -/
def stackTemp (k temp : Nat) (s : State) : State :=
  let st := s.stackList.getD k {}
  if s.stackList.length ≤ k || !st.inService then s
  else
    let hot := decide (st.throttleAt < temp) || (st.throttled && decide (st.throttleAt < temp + 5))
    let s := s.setStack k fun st => { st with temp := temp, refresh := refreshFor st.refresh temp, throttled := hot, sensorLost := false }
    let s := if st.sensorLost then clearAlarm 0x006 k s else s
    if hot && !st.throttled then raiseAlarm 0x007 k s else if st.throttled && !hot then clearAlarm 0x007 k s else s

/-- STACK_SENSOR_TIMEOUT: a stack silent for 10 ms counts as above 95 °C and above its threshold (R302). -/
def stackSilent (k : Nat) (s : State) : State :=
  let st := s.stackList.getD k {}
  if s.stackList.length ≤ k || !st.inService then s
  else raiseAlarm 0x007 k (raiseAlarm 0x006 k (s.setStack k fun st => { st with refresh := 4, throttled := true, sensorLost := true }))

/-- What a closed tick of `us` microseconds adds to THROTTLE_US, REFRESH_2X_US and REFRESH_4X_US (R311). -/
def heatTime (us : Nat) (s : State) : State :=
  let any := fun (f : Stack → Bool) => if s.stackList.any fun k => k.inService && f k then us else 0
  s.setMem fun m => { m with
    throttleUs := satAdd m.throttleUs (any Stack.throttled)
    refresh2Us := satAdd m.refresh2Us (any fun k => k.refresh == 2)
    refresh4Us := satAdd m.refresh4Us (any fun k => k.refresh == 4) }

/-! ## Scrub, retirement, row repair (R305–R308) -/

/-- UNIT of a stack in repair records (R364): stack in bits 7:4. -/
def stackUnit (k : Nat) : Nat := 16 * k

/-- Retired pages of a stack that saw corrected errors in one row at four or more distinct granules mark the row; a marked row is mapped to a
spare row once every page it holds is retired, which pages those are being open beyond the ones with errors (R308, DESIGN CHOICE, log entry 4). -/
def repairRow (k row : Nat) (s : State) : State :=
  let st := s.stackList.getD k {}
  let errs := dedupBy (fun (e : Nat × Nat × Nat) => e.2.1 * 2 ^ 40 + e.2.2) (st.retiredErrors.filter fun e => e.1 == row)
  let marked := st.markedRows.contains row || decide (4 ≤ errs.length)
  if !marked || st.repairRows.contains row then s
  else
    let s := s.setStack k fun st => { st with markedRows := dedupBy id (st.markedRows ++ [row]) }
    let clear := !st.rowErrors.any (fun e => e.1 == row) && Config.freeBool s.free
    let s := { s with free := s.free + 1 }
    if clear then
      recordRepair 5 3 (stackUnit k) row row ((s.setStack k fun st => { st with repairRows := st.repairRows ++ [row] }).setMem fun m =>
        { m with rowsRepaired := satAdd m.rowsRepaired 1 })
    else s

/-- Retire a T1 page (R307): onto a spare page of its stack, else onto a free usable page; with neither it stays in use and
PAGE_RETIRE_STALLED is raised. Cause 3 corrected errors, 4 uncorrectable (R364). -/
def retirePage (k num page cause : Nat) (s : State) : State :=
  let st := s.stackList.getD k {}
  if st.spares = 0 ∧ s.t1Free = 0 then
    raiseAlarm 0x008 k (s.setObj num fun o => o.setPage page fun p => { p with retireWait := some (k, cause) })
  else
    let s := if st.spares ≠ 0 then s.setStack k fun st => { st with spares := st.spares - 1 }
      else
        let s := (s.setStack k fun st => { st with lost := st.lost + 1 }).setMem fun m => { m with lostPages := m.lostPages + 1 }
        -- the usable page lies on its own stack while that has one (DESIGN CHOICE, log entry 92)
        let at_ := if 0 < s.stackFree k then k else s.mostFree
        s.setObj num fun o => o.setPage page fun p => { p with stack := some at_ }
    let mine := fun (e : Nat × Nat × Nat) => e.2.1 == num && e.2.2 / 256 == page
    let s := s.setStack k fun st => { st with
      retiredErrors := st.retiredErrors ++ st.rowErrors.filter mine, rowErrors := st.rowErrors.filter fun e => !mine e }
    let s := s.setObj num fun o => o.setPage page fun p => { p with errors := 0, retireWait := none }
    let s := recordRepair 6 cause (stackUnit k) 0xFFFFFFFF page (s.setMem fun m => { m with pagesRetired := satAdd m.pagesRetired 1 })
    let s := event 3 "PAGE_RETIRED" 0xFF (stackUnit k) s
    (dedupBy id ((s.stackList.getD k {}).retiredErrors.map Prod.fst)).foldl (fun s r => repairRow k r s) s

/-- A corrected error of a T1 granule: counted per page and per row, and the page is retired at RETIRE_THRESHOLD (R305, R307). Which row a granule lies in
is open (DESIGN CHOICE, log entry 4). -/
def correctedError (k num page granule : Nat) (s : State) : State :=
  let g := page * 256 + granule
  let row := Config.pick (num * 2 ^ 4 + k) g
  let s := s.setMem fun m => { m with ceCorrected := bump 1 1 m.ceCorrected }
  let s := s.setStack k fun st => { st with rowErrors := if st.rowErrors.contains (row, num, g) then st.rowErrors else st.rowErrors ++ [(row, num, g)] }
  let s := s.setObj num fun o => o.setPage page fun p => { p with errors := p.errors + 1 }
  if ((s.obj num).map fun o => decide (s.setting 0x0407 ≤ (o.page page).errors)).getD false then retirePage k num page 3 s else s

/-- PATROL_SCRUB of one granule by the stack its page lies on (R283, R306): outcome 0 good, 1 corrected, 2 uncorrectable. Poison already there raises no further event. -/
def patrolScrubbed (k num page granule outcome : Nat) (s : State) : State :=
  match s.obj num with
  | none => s
  | some o =>
    if s.stackList.length ≤ k || !(s.stackList.getD k {}).inService || 256 ≤ granule || o.pages ≤ page || o.pageTier page != 1
      || o.stackOf page != some k then s
    else if s.poisoned num (page * pageBytes + 256 * granule) 256 then s
    else match outcome with
      | 1 => correctedError k num page granule s
      | 2 => retirePage k num page 4 (uncorrectable num (page * pageBytes + 256 * granule) 256 s)
      | _ => s

/-- A scrub period ends: the pages' counts start again; retirements that found no page are tried again at every boundary (R307). -/
def scrubBoundary (before after : Nat) (s : State) : State :=
  let len := s.setting 0x0406 * 3600000000
  let s := if before / len < after / len then { s with objs := s.objs.map fun o => { o with pageInfo := o.pageInfo.map fun p => (p.1, { p.2 with errors := 0 }) } } else s
  let waiting := s.objs.flatMap fun o => o.pageInfo.filterMap fun p => p.2.retireWait.map fun k => (o.num, p.1, k)
  waiting.foldl (fun s w => if (s.stackList.getD w.2.2.1 {}).spares = 0 ∧ s.t1Free = 0 then s
    else clearAlarm 0x008 w.2.2.1 (retirePage w.2.2.1 w.1 w.2.1 w.2.2.2 s)) s

/-! ## The commands -/

def execPageCopy (object page : Nat) (bad : List Nat) (s : State) : Host.Outcome State Fault Refusal := act (whenUp (pageCopied object page bad)) s
def execPageFull (object page : Nat) (s : State) : Host.Outcome State Fault Refusal := act (whenUp (pageFulled object page)) s
def execPageExpansion (object page : Nat) (write : Bool) (s : State) : Host.Outcome State Fault Refusal := act (whenUp (pageExpanded object page write)) s
def execExpansionWait (object page : Nat) (s : State) : Host.Outcome State Fault Refusal := act (whenUp (expansionDone object page)) s
def execKeepHoldExpiry (cmd : Nat) (s : State) : Host.Outcome State Fault Refusal := act (whenUp (keepExpired cmd)) s
def execStackTempReport (stack temp : Nat) (s : State) : Host.Outcome State Fault Refusal := act (whenUp fun s => alertPin (stackTemp stack temp s)) s
def execStackSensorTimeout (stack : Nat) (s : State) : Host.Outcome State Fault Refusal := act (whenUp fun s => alertPin (stackSilent stack s)) s
def execPatrolScrub (stack object page granule outcome : Nat) (s : State) : Host.Outcome State Fault Refusal :=
  act (whenUp (patrolScrubbed stack object page granule outcome)) s

end Sys2Proof.Machine
end

