-- ==== Sys2Proof/Machine/Update.lean ====
section
/-! DEFINITION. Row updates: REPLACE_ROWS, ADD_ROWS and OPTIMISE_ROWS, their slots, combining, packets to other members, swaps and
reports (R258–R265). -/

namespace Sys2Proof.Machine

/-! ## The packet (R258) -/

/-- The fields of a row update. -/
structure UpdPkt where
  op : Nat
  count : Nat
  dfmt : Nat
  fromObj : Bool
  allowance : Nat
  src : Nat
  srcOff : Nat
  report : Nat

def updPkt (op : Nat) (ps : Bytes) : UpdPkt :=
  ⟨op, fld ps 0 4, fld ps 4 1, fld ps 5 1 == 1, pickVal (fld ps 6 2) 4096, fld ps 8 4, fld ps 16 8, fld ps 24 8⟩

/-- Bytes of one entry's data, and of an entry (R258). -/
def UpdPkt.dataBytes (u : UpdPkt) (t : Table) : Nat :=
  match u.dfmt with
  | 0 => if u.op = 0x4005 then t.elems / 2 + t.elems / 32 else t.rowBytes
  | 1 => 2 * t.elems
  | _ => 4 * t.elems
def UpdPkt.entryBytes (u : UpdPkt) (t : Table) : Nat := roundUp (8 + u.dataBytes t) 16
/-- Parameter byte of the first inline entry. -/
def UpdPkt.base (u : UpdPkt) : Nat := if u.op = 0x4005 then 64 else 32

/-- Bytes of entry `i`. -/
def updEntry (q : Pkt) (u : UpdPkt) (t : Table) (s : State) (i : Nat) : Bytes :=
  let n := u.entryBytes t
  if u.fromObj then s.readObj u.src (u.srcOff + i * n) n else slice q.params (u.base + i * n) n
/-- Row an entry names. -/
def entryRow (e : Bytes) : Nat := fld e 0 5

/-- Is an FP32 field a number in [0, 1)? -/
def unitFactor (n : Nat) : Bool := fmtF32.isFinite n && Fr.le Fr.zero (fmtF32.val n) && Fr.lt (fmtF32.val n) (Fr.int 1)

/-- Decode checks of a row update on a table (R258). -/
def checkUpdate (op : Nat) (q : Pkt) (t : Table) (s : State) : Option Final :=
  let ps := q.params
  let u := updPkt op ps
  let size := ((s.ownObj q.access u.src).map fun o => o.pages * pageBytes).getD 0
  firstBad
    [(decide (2 < u.dfmt), badParam 0 4), (decide (1 < fld ps 5 1), badParam 0 5),
     (u.count == 0 || decide ((if u.fromObj then 16777216 else 65536) < u.count), badParam 0 0),
     (ps.length != u.base + (if u.fromObj then 0 else u.count * u.entryBytes t), badLen),
     (!u.fromObj && u.src != 0, badParam 2 8), (u.srcOff % 16 != 0, badParam 0 16),
     (u.fromObj && (s.ownObj q.access u.src).isNone, badParam 3 8),
     (u.fromObj && decide (size < u.srcOff + u.count * u.entryBytes t), badParam 2 16),
     (op == 0x4005 && !unitFactor (fld ps 32 4), badParam 0 32), (op == 0x4005 && !unitFactor (fld ps 36 4), badParam 0 36),
     (op == 0x4005 && !(fmtF32.isFinite (fld ps 48 4) && Fr.lt Fr.zero (fmtF32.val (fld ps 48 4))), badParam 0 48),
     (op == 0x4005 && !t.opt, badParam0 2), (op == 0x4003 && t.spare == 0, badParam0 2)]
  <|> addrCheck q 24 1 u.count true s

/-! ## Charge and slots (R259, R260) -/

/-- Entries of a range that name a row of the table. -/
def updRows (q : Pkt) (u : UpdPkt) (t : Table) (lo n : Nat) (s : State) : List (Nat × Nat) :=
  ((List.range n).map fun i => (lo + i, entryRow (updEntry q u t s (lo + i)))).filter fun p => decide (p.2 < t.rows)

/-- Charges of a range of entries, one row each at 1 here and 6 elsewhere, in windows as a gather's (R255, R259). -/
def updCosts (q : Pkt) (u : UpdPkt) (t : Table) (lo n : Nat) (s : State) : List Nat :=
  (chunks windowSize ((List.range n).map (· + lo))).map fun w =>
    t.rowCost * (w.map fun i => if t.holds s.self (entryRow (updEntry q u t s i)) then 1 else 6).foldl (· + ·) 0

/-- Free slots here (R260). -/
def Table.slotsFree (t : Table) : Nat := (t.freeRuns.map fun r => r.2).foldl (· + ·) 0

/-- Are there slots for these replacements: here, and on every other member, which alone knows (R260, DESIGN CHOICE, log entry 9)? -/
def slotsFit (q : Pkt) (u : UpdPkt) (t : Table) (lo n : Nat) (s : State) : Bool :=
  let homes := (updRows q u t lo n s).flatMap fun p => t.homes s.self p.2
  let mine := (homes.filter fun m => m == s.self).length
  decide (mine ≤ t.slotsFree)
    && (dedupBy id (homes.filter fun m => m != s.self)).all fun m => Config.remoteTakes s.free m (homes.filter fun x => x == m).length

/-- Take the k-th free slot. -/
def takeSlot : (k : Nat) → List (Nat × Nat) → Option (Nat × List (Nat × Nat))
  | _, [] => none
  | k, (lo, n) :: rest =>
    if k < n then
      let left := (if k = 0 then [] else [(lo, k)]) ++ (if k + 1 < n then [(lo + k + 1, n - k - 1)] else [])
      some (lo + k, left ++ rest)
    else (takeSlot (k - n) rest).map fun r => (r.1, (lo, n) :: r.2)

/-! ## Running a range of entries (R260–R264) -/

def State.update (s : State) (id : Nat) : Option Update := s.updates.find? fun u => u.cmd == id
def State.setUpdate (id : Nat) (f : Update → Update) (s : State) : State := { s with updates := modifyIf s.updates (fun u => u.cmd == id) f }
def setOutcome (id i o : Nat) (s : State) : State :=
  s.setUpdate id fun u => { u with entries := modifyAt u.entries i fun e => { e with outcome := some o } }

/-- Delta or gradient of entry data, in FP32 (R258, R262). -/
def decodeDelta (u : UpdPkt) (t : Table) (data : Bytes) : List Word × ConvCount :=
  match u.dfmt with
  | 1 => (wideElems .bf16 data t.elems, {})
  | 2 => (wideElems .fp32 data t.elems, {})
  | _ => if u.op = 0x4005 then decodeBlocks .mxfp4 data (data.drop (t.elems / 2)) t.elems else decodeRow t.format t.elems data

/-- A packet of an update to another member: its PAIR_SEQ is kept until acknowledged; to a member that cannot be reached none goes out, and
its entries stay unacknowledged (R265, R320). -/
def sendUpd (c : Cmd) (dst typ : Nat) (spec payload : Bytes) (entries : List Nat) (s : State) : State :=
  if !s.canReach dst then s.setUpdate c.id fun u => { u with sent := u.sent ++ [⟨dst, 65536, entries⟩] }
  else
    let seq := (assocGet dst s.fabric.txSeq).getD 0
    let s := sendFab { typ := typ, cls := 1, mcast := false, dst := dst, pairSeq := 0, coord := s.self, query := c.id, admitTick := c.admitTick
                       deadline := c.deadline, spec := spec, payload := payload } s
    s.setUpdate c.id fun u => { u with sent := u.sent ++ [⟨dst, seq, entries⟩] }

/-- Swap a row's directory entry to a new slot by one atomic: VERSION advances, and the slot displaced is freed in this tick (R251, R260). -/
def swapRow (t : Table) (j slot : Nat) (s : State) : State :=
  let old := s.dirEntry t j
  let s := s.writeObj t.dir (8 * j) (dirBytes (slot * t.stride / 8) ((old.2 + 1) % 65536))
  freeSpace (.rowSlot t.num 0 (8 * old.1 / t.stride)) s

/-- Working values of an update: table, ROUND_MODE, ROUND_SEED. -/
def updWork (ch : Channel) : List Nat := [ch.primary, ch.setting 0x030B, ch.setting 0x030C]

/-- The generator that the gather engine's conversions of a REPLACE_ROWS draw from: R172 gives none to that engine (DESIGN CHOICE, log entry 93). -/
def startGen (seed tick : Nat) (s : State) : BitVec 64 × State := (genInit seed (Config.freeNat s.free % 2 ^ 16) tick, { s with free := s.free + 1 })

/-- One REPLACE_ROWS entry (R260, R261): convert, write into a free slot, swap; on a replicated table the swap waits for the next boundary. -/
def replaceEntry (c : Cmd) (u : UpdPkt) (num : Nat) (acc : BitVec 64 × State) (p : Nat × Nat) : BitVec 64 × State :=
  let s := acc.2
  match s.table num with
  | none => acc
  | some t =>
    let e := updEntry c.q u t s p.1
    let data := slice e 8 (u.dataBytes t)
    let d := drawsFor (c.work.getD 1 0 == 0 && u.dfmt != 0) s.free t.elems acc.1
    let raw := if t.format = .uint4z then slice data 0 (t.elems / 2) ++ leBytes 1 (p.2 % 256) ++ slice data (t.elems / 2 + 1) 7 else data
    let r := if u.dfmt = 0 then (raw, {}) else encodeRow t.format p.2 (decodeDelta u t data).1 d.2
    let body := r.1 ++ zeros (t.slotBytes - t.rowBytes)
    let s := countConv (handleSlot c.q.handle) r.2 { s with free := s.free + 2 }
    let here := t.holds s.self p.2
    let s := ((t.homes s.self p.2).filter fun m => m != s.self).foldl (fun s m =>
      let a := draw s
      let s := sendUpd c m 0x03 (leBytes 1 0 ++ leBytes 8 a.1 ++ leBytes 2 (ceilDiv t.slotBytes 256)) body [p.1] a.2
      -- the directory swap of that copy or shard follows in order (R319, R324 code 5)
      let b := draw s
      sendUpd c m 0x04 (leBytes 1 5 ++ leBytes 8 b.1 ++ leBytes 2 8) (leBytes 8 (Config.freeNat (b.2.free))) [p.1] { b.2 with free := b.2.free + 1 }) s
    if !here then (d.1, s)
    else match takeSlot (Config.freeNat s.free % max t.slotsFree 1) t.freeRuns with
      | none => (d.1, s)
      | some (slot, runs) =>
        let s := { s with free := s.free + 1, tables := modifyIf s.tables (fun x => x.num == num) fun x => { x with freeRuns := runs } }
        let s := s.writeObj t.heap (slot * t.stride) body
        if t.place = 1 then (d.1, s.setUpdate c.id fun x => { x with swaps := x.swaps ++ [(p.1, t.localRow p.2, slot)] })
        else (d.1, swapRow t (t.localRow p.2) slot s)

/-- One row's delta or gradient (R262, R263): entries for the row are summed in entry order, and one goes to its stack controller. -/
def applyGroup (c : Cmd) (u : UpdPkt) (t : Table) (s : State) (g : Nat × List Nat) : State :=
  let datas : List Bytes := g.2.map fun i => slice (updEntry c.q u t s i) 8 (u.dataBytes t)
  let decs := datas.map (decodeDelta u t)
  let clean := decs.map fun d => cleanDelta d.1
  let one := decide (g.2.length ≤ 1)
  let sum := (clean.drop 1).foldl (fun (a : List Word) d => (a.zip d.1).map fun p => f32Add p.1 p.2) ((clean.headD ([], {})).1)
  let opt := if u.op = 0x4005 then some (optBlock (slice c.q.params 32 24)) else none
  -- counts of what is decoded here; a single delta is decoded by the unit that applies it
  let s := if one && !t.holds s.self g.1 then s else countConv (handleSlot c.q.handle) (sumCounts (decs.map Prod.snd ++ clean.map Prod.snd)) s
  let away := (t.homes s.self g.1).filter fun m => m != s.self
  let payload := (if u.op = 0x4005 then slice c.q.params 32 32 else []) ++ (if one then datas.headD [] else sum.flatMap fun w => leBytes 4 w.toNat)
  let s := away.foldl (fun s m =>
    let a := draw s
    sendUpd c m 0x04 (leBytes 1 (if u.op = 0x4005 then 8 else 7) ++ leBytes 8 a.1 ++ leBytes 2 payload.length) payload g.2 a.2) s
  if !t.holds s.self g.1 then s
  else
    let seed := ((s.update c.id).map Update.seed).getD 0
    let r := rowUpdate t g.1 { step := opt, stochastic := c.work.getD 1 0 == 0 } sum { member := s.self, cmd := c.id, seed := seed, tick := c.admitTick } s
    countConv (handleSlot c.q.handle) r.2 r.1

/-- Run entries lo to lo + n − 1 of an update: a slice, or the whole of an inline command (R259, R262). -/
def runEntries (c : Cmd) (lo n : Nat) (s : State) : State :=
  match s.table (c.work.getD 0 0) with
  | none => s
  | some t =>
    let u := updPkt c.op c.q.params
    let rows := updRows c.q u t lo n s
    let out := ((List.range n).map (· + lo)).filter fun i => !rows.any fun p => p.1 == i
    let s := out.foldl (fun s i => setOutcome c.id i 1 s) (countChan (handleSlot c.q.handle) 20 out.length s)
    let s := if c.op = 0x4003 then (rows.foldl (replaceEntry c u t.num) (startGen (((s.update c.id).map Update.seed).getD 0) c.admitTick s)).2
      else
        let groups := (dedupBy (fun p => p.2) rows).map fun p => (p.2, (rows.filter fun x => x.2 == p.2).map fun x => x.1)
        groups.foldl (applyGroup c u t) s
    s.setUpdate c.id fun x => { x with entries := x.entries.zipIdx.map fun p =>
      if lo ≤ p.2 ∧ p.2 < lo + n ∧ p.1.outcome = none then { p.1 with outcome := some 0 } else p.1 }

/-! ## Ending (R265) -/

/-- The report byte of each entry: 2 for one still unacknowledged, 3 for one not run (R265). -/
def Update.reportBytes (u : Update) : List Nat :=
  let open_ := u.sent.flatMap UpdSent.entries
  u.entries.zipIdx.map fun p => match p.1.outcome with
    | none => 3
    | some o => if o = 0 ∧ open_.contains p.2 then 2 else o

/-- Close an update with a status: report, count of entries applied, counter of those unacknowledged (R265, R266). -/
def endUpdate (c : Cmd) (st detail : Nat) (s : State) : State :=
  match s.update c.id with
  | none => finish c { status := st, detail := detail } s
  | some u =>
    let rep := u.reportBytes
    let a := fld c.q.params 24 8
    -- swaps still waiting are made now, so that what is reported applied is applied
    let s := match s.table u.table with
      | some t => u.swaps.foldl (fun s w => swapRow t w.2.1 w.2.2 s) s
      | none => s
    let s := countChan (handleSlot c.q.handle) 22 (rep.filter fun b => b == 2).length s
    let data : List HostPost := if a = 0 then [] else [⟨a, rep.map (BitVec.ofNat 8)⟩]
    let f : Final := { status := st, detail := detail, count := (rep.filter fun b => b == 0).length, data := data }
    finish c f
      { s with updates := s.updates.filter fun x => x.cmd != c.id
               jobs := s.jobs.filter fun j => !(j.kind == .rowUpdate && j.cmd == some c.id) }

/-- An update that has run all its entries, with nothing unacknowledged and no swap waiting, is done (R261, R265). -/
def settleUpdate (s : State) (id : Nat) : State :=
  match s.update id, s.cmd id with
  | some u, some c =>
    if u.sent.isEmpty && u.swaps.isEmpty && u.entries.all fun e => e.outcome.isSome then
      match c.faultTier with
      | some t => endUpdate c (status 5 1) t s
      | none => endUpdate c (status 0 0) 0 s
    else s
  | _, _ => s

/-- An update begins: its batch's seed is the channel's, or drawn afresh when that is 0 (R172). -/
def newUpdate (c : Cmd) (s : State) : State :=
  let seed := if c.work.getD 2 0 = 0 then (Config.seed s.free).toNat else c.work.getD 2 0
  let up : Update := { cmd := c.id, table := c.work.getD 0 0, entries := List.replicate (fld c.q.params 0 4) {}, seed := seed }
  { s with updates := s.updates ++ [up], free := s.free + 1 }

/-- An inline update's stage begins in its tick (R259). -/
def startUpdate (c : Cmd) (s : State) : State :=
  let n := fld c.q.params 0 4
  let s := newUpdate c s
  settleUpdate (runEntries c 0 n s) c.id

/-- An update from an object becomes a job (R259). -/
def startUpdateJob (c : Cmd) (s : State) : State :=
  let s := newUpdate c s
  { s with jobs := s.jobs ++ [({ id := s.freshJob, kind := .rowUpdate, cmd := some c.id, port := c.q.access } : Job)], nextJob := s.freshJob + 1 }

/-- Most entries from a cursor that fit a tick's uncharged rows and the free slots, up to `n` (R26, R260). -/
def updFits (c : Cmd) (u : UpdPkt) (t : Table) (lo : Nat) (s : State) : (n : Nat) → Option (Nat × List (Res × Nat))
  | 0 => none
  | n + 1 =>
    let costs := updCosts c.q u t lo (n + 1) s
    match dealRows s s.tick false costs [] with
    | some es => if u.op != 0x4003 || slotsFit c.q u t lo (n + 1) s then some (n + 1, dealt es costs) else updFits c u t lo s n
    | none => updFits c u t lo s n

/-- One slice of a row-update job (R26, R259): the entries run, and what they used is charged. -/
def updSlice (j : Job) (s : State) : State :=
  match j.cmd.bind s.cmd with
  | none => { s with jobs := s.jobs.filter fun k => k.id != j.id }
  | some c => match s.table (c.work.getD 0 0), s.update c.id with
    | some t, some up =>
      let u := updPkt c.op c.q.params
      if !up.sent.isEmpty || !up.swaps.isEmpty then s
      else match updFits c u t j.cursor s (min u.allowance (u.count - j.cursor)) with
        | none => if u.op = 0x4003 ∧ slotsFit c.q u t j.cursor 1 s = false then countChan (handleSlot c.q.handle) 21 1 s else s
        | some (n, ch) =>
          let s := runEntries c j.cursor n (chargeNow ch s)
          let s := s.setJob j.id fun x => { x with cursor := j.cursor + n, progressed := true }
          settleUpdate s c.id
    | _, _ => s

/-- At a boundary, the copies of a replicated table swap in admission order and entry order (R261). -/
def updBoundary (s : State) : State :=
  s.updates.foldl (fun s u => match s.table u.table with
    | some t =>
      let s := u.swaps.foldl (fun s w => swapRow t w.2.1 w.2.2 s) s
      settleUpdate (s.setUpdate u.cmd fun x => { x with swaps := [] }) u.cmd
    | none => s) s

/-- Acknowledgements move updates on (R265, R320). -/
def updAcked (s : State) : State :=
  let live := fun (x : UpdSent) => x.pairSeq == 65536 || s.fabric.unacked.any fun p => p.1.dst == x.member && p.1.pairSeq == x.pairSeq
  let s : State := { s with updates := s.updates.map fun u => { u with sent := u.sent.filter live } }
  (s.updates.map Update.cmd).foldl settleUpdate s

/-- A packet given up after three resends stays unacknowledged for its update (R320). -/
def updLost (dst seq : Nat) (s : State) : State :=
  let mark := fun (x : UpdSent) => if x.member = dst ∧ x.pairSeq = seq then { x with pairSeq := 65536 } else x
  { s with updates := s.updates.map fun u => { u with sent := u.sent.map mark } }

/-- The cut-off of an update's tick: in STRICT an unacknowledged entry ends the command (R265). The boundary swaps of a replicated table
are still to come, so only acknowledgements count. -/
def updCutOff (s : State) (id : Nat) : State :=
  match s.update id, s.cmd id with
  | some u, some c => if c.strict && !u.sent.isEmpty then endUpdate c (status 4 3) 0 s else s
  | _, _ => s

end Sys2Proof.Machine
end

