-- ==== Sys2Proof/Machine/Control.lean ====
section
/-! DEFINITION. Ending commands before they are decided: ABORT (R64), CHANNEL_DESTROY (R69, R73, R74), and the end of all work in a
maker mode (R44). -/

namespace Sys2Proof.Machine

/-- Cancel the queries of a search (R64): a CANCEL goes to every member that was asked, local walks end at this boundary, and lists that
still come are discarded. -/
def cancelQueries (id : Nat) (s : State) : State :=
  let mine := s.queries.filter fun q => q.cmd == id
  let s := mine.foldl (fun s q => match s.index q.index with
    | none => s
    | some x =>
      let away := (q.shards.filter fun p => p.2 == .waiting && (x.shard.map Shard.number) != some p.1).map fun p => x.memberOf p.1
      let s := if q.result.isNone then refundQuota q.port 3 q.slots s else s
      if away.isEmpty then s
      else sendMulti { typ := 0x11, cls := 0, mcast := true, dst := 0x7FF, pairSeq := 0, coord := s.self, query := q.number, admitTick := q.admitTick
                       deadline := q.deadline, spec := leBytes 4 q.index, payload := [] } away s) s
  { s with queries := s.queries.filter fun q => q.cmd != id
           walks := modifyIf s.walks (fun w => w.cmd == some id && w.phase != .sent) fun w => { w with cancelled := true } }

/-- Drop the jobs of a command; a migration goes on without it (R289). Answers what its jobs had completed. -/
def dropJobs (id : Nat) (s : State) : State × Nat :=
  let mine := s.jobs.filter fun j => j.cmd == some id
  let moved := s.objs.findSome? fun o => o.migration.bind fun m => assocGet id m.waiters
  let s := { s with
    jobs := (s.jobs.map fun j => match j.kind with
      | .migrate _ => if j.cmd = some id then { j with cmd := none } else j
      | _ => j).filter fun j => j.cmd != some id
    objs := s.objs.map fun o => { o with migration := o.migration.map fun m => { m with waiters := m.waiters.filter fun w => w.1 != id } } }
  (s, moved.getD ((mine.map fun j => match j.kind with
    | .copy => j.cursor
    | _ => j.count).foldl (· + ·) 0))

/-- The table a TABLE_DEFINE was filling is freed when the command ends early (DEDUCED, log entry 19). -/
def dropFill (id : Nat) (s : State) : State :=
  match s.jobs.findSome? fun j => match j.kind with
    | .fillTable t => if j.cmd = some id then some t else none
    | _ => none with
  | some n => (s.family n).foldl (fun s m => freeObj m s) { s with tables := modifyIf s.tables (fun t => t.num == n) fun t => { t with freed := true } }
  | none => s

/-- End a BULK_LOAD: linked slots stay (R159). Answers the slots linked. -/
def dropLoad (id : Nat) (s : State) : State × Nat :=
  match s.jobs.find? fun j => j.cmd == some id && (match j.kind with
    | .bulkLoad _ => true
    | _ => false) with
  | some j => match j.kind with
    | .bulkLoad n => let k := if j.phase = 0 then 0 else j.cursor; (loadEnd n k { s with jobs := s.jobs.filter fun x => x.id != j.id }, k)
    | _ => (s, 0)
  | none => (s, 0)

/-- Tier of an uncorrectable error that already applies to a command: met by itself, by a walk of its own here, or in a list that has come (R61, R120,
R132). -/
def State.faultOf (s : State) (c : Cmd) : Option Nat :=
  let lists := fun (q : Query) => q.shards.findSome? fun p => match p.2 with
    | .list l => if l.cause = 6 then some (l.tier % 4) else none
    | _ => none
  c.faultTier <|> ((s.walks.filter fun w => w.cmd == some c.id).findSome? Walk.faultTier)
    <|> ((s.queries.filter fun q => q.cmd == c.id).findSome? lists)

/-- End a command that is not decided with a status of class ABORTED (R64, R73): what it completed stays and is counted. A search or GATHER that an
uncorrectable error already applies to ends with class FAULT, the higher (R61). -/
def endCmd (code detail : Nat) (s : State) (id : Nat) : State :=
  match s.cmd id with
  | none => s
  | some c =>
    let f := fun (n : Nat) => ({ status := status 4 code, detail := detail, count := n } : Final)
    let g : Final := match s.faultOf c with
      | some t => { status := status 5 1, detail := t }
      | none => f 0
    if c.state != .running then finish c (f 0) (unreserve c s)
    else match c.op with
      | 0x2001 | 0x2002 | 0x2003 => finish c g (dropPhases id (cancelQueries id (refundEncoded c s)))
      | 0x4002 => finish c g (dropGather id s)
      | 0x4003 | 0x4004 | 0x4005 => endUpdate c (status 4 code) detail s
      | 0x5002 => endRun id 4 code detail s
      | 0x3002 | 0x3003 => finish c (f 0) (releaseStaged id s)
      | 0x3004 =>
        let n := s.indexes.findSome? fun x => x.shard.bind fun sh => (sh.waits.find? fun w => w.cmd == id).map MergeWait.merged
        finish c (f (n.getD 0)) { s with indexes := s.indexes.map fun x => { x with
          shard := x.shard.map fun sh => { sh with waits := sh.waits.filter fun w => w.cmd != id } } }
      | 0x3005 => let r := dropLoad id s; finish c (f r.2) r.1
      | 0x6004 => let r := cancelPlan id s; finish c (f r.2) r.1
      | 0x4001 => finish c (f 0) (dropJobs id (dropFill id s)).1
      | 0x7002 => finish c (f 0) (s.setFabric fun g => { g with joining := none })
      | _ => let r := dropJobs id s; finish c (f r.2) r.1

/-! ## ABORT (R64) -/

/-- Decode checks of ABORT (R64). -/
def checkAbort (q : Pkt) : Option Final := firstBad [(decide (8 < fld q.params 0 1), badParam 0 0), (decide (3 < fld q.params 1 1) && fld q.params 0 1 != 8, badParam 0 1)]

/-- Does an ABORT name this command by port, stream and SEQ (R64)? -/
def Cmd.named (c : Cmd) (q : Pkt) (s : State) : Bool :=
  let ps := q.params
  c.q.access == fld ps 0 1 && c.q.stream == fld ps 1 1 && c.q.seq == fld ps 4 4 && c.epoch == (s.port (fld ps 0 1)).epoch

/-- The command an ABORT names. -/
def State.abortTarget (s : State) (q : Pkt) : Option Cmd := s.cmds.find? fun c => c.named q s

/-- Where the enders of class ABORTED meet at one boundary, the first that applies gives the code (R61). -/
def enderRank (code : Nat) : Nat :=
  match code with
  | 4 => 0
  | 2 => 1
  | 1 => 2
  | _ => 3

/-- Is a decided command one that an ender of this code overtakes (R61, R74)? -/
def Decided.overtaken (code : Nat) (p : Cmd → Bool) (d : Decided) : Bool :=
  p d.cmd && d.final.status / 0x1000 == 4 && decide (enderRank code < enderRank (d.final.status % 0x1000))

/-- Commands ended at this boundary that another ender overtakes take its code (R61, R74). -/
def reEnd (code detail : Nat) (p : Cmd → Bool) (s : State) : State :=
  let again := fun (d : Decided) => if d.overtaken code p then { d with final := { d.final with status := status 4 code, detail := detail } } else d
  s.setFrame fun f => { f with decided := f.decided.map again }

/-- Opcode and TAG of the packet an ABORT names, where it is over and still tracked, and whether another cause ended it at this boundary; a PAD is over
as soon as it is fetched (R64). -/
def State.abortOver (s : State) (q : Pkt) : Option (Nat × Nat × Bool) :=
  let ps := q.params
  match s.frame.decided.find? fun d => d.cmd.named q s with
  | some d => some (d.cmd.op, d.cmd.q.tag, d.final.status / 0x1000 == 4 && d.final.status != status 4 1)
  | none => (s.frame.tracked.find? fun x => x.access == fld ps 0 1 && x.stream == fld ps 1 1 && x.seq == fld ps 4 4
      && x.epoch == (s.port (fld ps 0 1)).epoch).map fun x => (x.op, x.tag, false)

/-- What an ABORT answers for a packet that is over (R64). -/
def abortLate (q : Pkt) (op tag : Nat) (ended : Bool) : Final :=
  if op = 0xC001 ∨ op = 0 then badParam 2 4
  else if tag ≠ fld q.params 8 4 then badParam 3 8
  else if ended then okDone 0
  else { status := status 0 1 }

/-- Is a SEQ ahead of the last one fetched from its stream (R64)? Numbers are compared modulo 2^32. -/
def State.notFetched (s : State) (q : Pkt) : Bool :=
  let ps := q.params
  let ep := ((s.mgmt.endpoints.find? fun e => e.eid == fld ps 1 1).map Endpoint.nextSeq).getD 0
  let st : CmdStream := (s.port (fld ps 0 1)).cmds.getD (fld ps 1 1) {}
  let next : Nat := if fld ps 0 1 = 8 then ep else st.nextSeq
  let ahead : Nat := (fld ps 4 4 + 4294967296 - next) % 4294967296
  decide (ahead < 2147483648)

/-- ABORT takes hold (R64's ABORT outcomes table). The target's reply precedes the ABORT's. -/
def holdAbort (c : Cmd) (s : State) : State :=
  match s.abortTarget c.q with
  | none => match s.abortOver c.q with
    | some (op, tag, ended) =>
      let met := fun (d : Cmd) => d.named c.q s && d.q.tag == fld c.q.params 8 4
      finish c (abortLate c.q op tag ended) (reEnd 1 (c.q.seq % 65536) met s)
    | none => if s.notFetched c.q then finish c (badParam 3 4) s else finish c { status := status 0 1 } s
  | some t =>
    if t.op = 0xC001 then finish c (badParam 2 4) s
    else if t.q.tag ≠ fld c.q.params 8 4 then finish c (badParam 3 8) s
    else
      let s := if t.q.access ≠ c.q.access then auditFor 9 0 c.q (afield t.q.access ++ afield t.q.tag) s else s
      finish c (okDone 0) (endCmd 1 (c.q.seq % 65536) s t.id)

/-! ## CHANNEL_DESTROY (R69, R73, R74) -/

/-- Commands of the channel that a DESTROY ends: all but SETs, REBINDs and other DESTROYs that would take hold at this boundary, which find the handle
gone (R73, R74). -/
def State.destroyed (s : State) (c : Cmd) : List Nat :=
  (s.cmds.filter fun d => d.id != c.id && d.q.handle == c.q.handle && !(d.state == .ready && !s.fenced d && [0x8001, 0x1004, 0x1002].contains d.op)).map Cmd.id

def holdChannelDestroy (c : Cmd) (s : State) : State :=
  match s.handleChan c.q.handle with
  | none => finish c badHandle s
  | some ch =>
    let ids := s.destroyed c
    let again := fun (d : Cmd) => d.id != c.id && d.q.handle == c.q.handle
    let n := (s.frame.decided.filter (Decided.overtaken 2 again)).length
    let s := ids.foldl (endCmd 2 0) (reEnd 2 0 again s)
    let s := unloadKernel ch.slot s
    let s := s.setChan ch.slot fun h => { h with state := .destroying, freeAt := s.tick + 2 }
    finish c { okDone (ids.length + n) with refund := some ch.port } s

/-- CHANNEL_FREE: two boundaries after the DESTROY took hold its slot is FREE, and its generation advances, 255 being followed by 1 (R66, R69). -/
def freeChannel (slot : Nat) (s : State) : State :=
  s.setChan slot fun h =>
    if h.state == .destroying && decide (h.freeAt ≤ s.tick) then { slot := h.slot, gen := h.gen % 255 + 1 } else h

/-! ## Maker modes (R44) -/

/-- End all work in flight with ABORTED/MAKER_MODE but for one command (R44). -/
def endAll (keep : Nat) (s : State) : State := ((s.cmds.filter fun d => d.id != keep).map Cmd.id).foldl (endCmd 4 0) (reEnd 4 0 (fun d => d.id != keep) s)

end Sys2Proof.Machine
end

