-- ==== Sys2Proof/Machine/Events.lean ====
section
/-! DEFINITION. Events of walks, rescoring, gathers, kernel phases and rings, as commands (files 07, 08, 12, 14, 15). -/

namespace Sys2Proof.Machine

/-! ## Walks, the side-list scan, rescoring (R109–R132) -/

def execAdjacencyBlockReturn (engine reg err : Nat) (s : State) : Host.Outcome State Fault Refusal := act (whenUp (blockReturned engine reg err)) s
def execWalkSeed (walk : Nat) (s : State) : Host.Outcome State Fault Refusal := act (whenUp (walkSeeded walk)) s
def execTombstoneReadReturn (walk slot target err : Nat) (s : State) : Host.Outcome State Fault Refusal :=
  act (whenUp (tombReturned walk slot target err)) s
def execSideListScanPass (index shard : Nat) (s : State) : Host.Outcome State Fault Refusal := act (whenUp (scanBegin index shard)) s
def execSideListPassComplete (index shard : Nat) (bad : List Nat) (s : State) : Host.Outcome State Fault Refusal :=
  act (whenUp (scanComplete index shard bad)) s
def execRescoring (walk : Nat) (bad : List Nat) (s : State) : Host.Outcome State Fault Refusal := act (whenUp (rescore walk bad)) s
def execExactReadReturn (walk cand err : Nat) (s : State) : Host.Outcome State Fault Refusal := act (whenUp (exactReturned walk cand err)) s
def execExactReadsLate (walk : Nat) (s : State) : Host.Outcome State Fault Refusal := act (whenUp (exactLate walk)) s

/-! ## Gathers (R253–R257) -/

def execGatherRowReturn (cmd read : Nat) (err : Bool) (s : State) : Host.Outcome State Fault Refusal := act (whenUp (gatherReturned cmd read err)) s
def execGatherRowLate (cmd read : Nat) (s : State) : Host.Outcome State Fault Refusal := act (whenUp (gatherLate cmd read)) s

/-! ## Kernel phases and rings (R199, R209, R231, R274–R277) -/

def execKernelPhaseStart (cluster : Nat) (s : State) : Host.Outcome State Fault Refusal := act (whenUp (phaseStart cluster)) s
def execRingSlotArrival (cluster ring gen : Nat) (err : Bool) (s : State) : Host.Outcome State Fault Refusal := act (whenUp (ringSlotArrived cluster ring gen err)) s
def execWriteAck (cluster ring : Nat) (s : State) : Host.Outcome State Fault Refusal := act (whenUp (writeAcked cluster ring)) s
def execRingLate (cluster ring : Nat) (s : State) : Host.Outcome State Fault Refusal := act (whenUp (ringLate cluster ring)) s
def execPhaseDeclaredLate (cmd : Nat) (s : State) : Host.Outcome State Fault Refusal := act (whenUp (declaredLate cmd)) s
def execSplitPartialArrival (home src tile : Nat) (s : State) : Host.Outcome State Fault Refusal := act (whenUp (partialArrived home src tile)) s

end Sys2Proof.Machine
end

