-- ==== Sys2Proof/Machine/Admission.lean ====
section
/-! DEFINITION. The admission of one pending command at a boundary: its charges and stages, FENCE, the checks of that boundary, and placement
(R19–R22, R46, R57, R139, R209, R255, R259, R327). -/

namespace Sys2Proof.Machine

/-! ## What a command's channel fixes at admission (R20, R70, R103) -/

/-- D of a command at this boundary (R20, R53): an opcode without a channel takes 1, and ABORT ignores its DEADLINE (R64). -/
def State.dOf (s : State) (c : Cmd) : Nat :=
  if c.op = 0xC001 then 1
  else if c.q.deadline ≠ 0 then c.q.deadline else ((s.handleChan c.q.handle).map fun ch => ch.setting 0x0301).getD 1

/-- Does the packet run by the STRICT rules (R24, R25, R53)? -/
def State.strictOf (s : State) (c : Cmd) : Bool := bit c.q.flags 2 || ((s.handleChan c.q.handle).map fun ch => ch.setting 0x0302 == 0).getD true

/-- Full check of a search's parameters against its channel and index (R102–R104, R106, R111, R112). -/
def checkSearch (op : Nat) (q : Pkt) (ch : Channel) (x : Index) (s : State) : Option Final :=
  let ps := q.params
  let fmt := fld ps 3 1
  let n := if op = 0x2002 then fld ps 12 2 else 1
  let qb := vecQ fmt x.dims
  let items := (List.range n).map fun i => if op = 0x2002 then 16 + i * (64 + qb) else 16
  let len := if op = 0x2002 then 16 + n * (64 + qb) else 80 + qb
  let vecs := if op = 0x2003 then [] else items.map (· + 64)
  firstBad [(op != 0x2003 && decide (1 < fmt), badParam 0 3), (op == 0x2002 && (n == 0 || decide (64 < n)), badParam 0 12), (op != 0x2003 && ps.length != len, badLen)]
  <|> (if op = 0x2003 then checkEncoded q ch s else none)
  <|> (items.findSome? fun o => predicateBad ps o)
  <|> ((vecs.find? fun o => vectorBad fmt x.dims (slice ps o (vecBytes fmt x.dims))).map fun o => badParam 0 o)
  <|> searchCheck q ch x n s

/-- What a command asks for at admission: its stages with their charges, first to last, and whether it needs more than capacity: walk slots
(R45, R46, R100) or row slots (R260) that are free now. -/
structure Ask where
  stages : List (StageKind × List (Res × Nat))
  work : List Nat := []
  uses : List Nat := []
  free : Bool := true
  /-- The routing table by which a search chooses its partitions (R99). -/
  routes : Bytes := []
  /-- Walk slots charged (R45). -/
  slots : Nat := 0
  /-- Ticks after the first in which the reply is issued at the earliest (R261). -/
  extra : Nat := 0

/-- Are there engines for the walks of `n` queries of width `w` (R100)? -/
def State.walksFit (s : State) (w : Nat) : (n : Nat) → Bool
  | 0 => true
  | n + 1 => match s.slotsFor w with
    | none => false
    | some slots =>
      let v : Walk := { id := 0, coord := 0, query := 0, index := 0, shard := 0, k := 0, width := w, budget := 0, strict := true, degrade := true
                        escalation := 0, exactCount := 0, charge := 0, sketch := [], predicate := [], tagSet := [], vector := [], admitTick := 0
                        deadline := 0, tick := 0, slots := slots }
      State.walksFit { s with walks := v :: s.walks } w n

/-- A search's needs (R21, R45, R103, R139). -/
def askSearch (c : Cmd) (ch : Channel) (x : Index) (s : State) : Ask :=
  let wk := searchWork c.q ch x
  let n := searchCount c.op c.q.params
  let w := wk.getD 1 1
  -- which partitions an encoded query visits is known only after its encoder phase: its walk here is charged
  let hops := if c.op = 0x2003 then (if x.shard.isSome then wk.getD 3 0 else 0) else searchHops c x wk s
  let walkStage := (StageKind.walk, [(Res.hops, hops), (Res.merge, searchMerge c wk)])
  let quota := s.quotaAllows c.q.access 3 (n * w)
  let routes := if x.mode = 2 then s.routeTable x else []
  let fits := quota && (hops == 0 || (!s.systemClusters.isEmpty && s.walksFit w n))
  match c.op, s.encoderOf ch with
  | 0x2003, some k =>
    { stages := [(.phase 0, phaseCharge k 0), walkStage], work := wk ++ [k.id] ++ runSettings ch ((s.handleChan ch.encoder).getD ch) s
      uses := [ch.primary], free := fits, routes := routes, slots := n * w }
  | _, _ => { stages := [walkStage], work := wk, uses := [ch.primary], free := fits, routes := routes, slots := n * w }

/-- A gather's needs in tick `t`; none when its windows do not fit their engines then (R253, R255). -/
def askGather (c : Cmd) (ch : Channel) (tb : Table) (t : Nat) (empty : Bool) (s : State) : Option Ask :=
  let costs := gatherCosts c.q tb s
  let p := gatherPkt c.q.params
  (dealRows s t empty costs []).map fun es =>
    { stages := [(.gather, dealt es costs)], work := [flag (ch.setting 0x0303 == 2) 0, ch.sinkBase, tb.num] ++ es
      uses := tb.num :: [p.src, p.dst].filter fun n => n != 0 && n != 0xFFFFFFFF }

/-- An inline update's needs in tick `t` (R259–R261). -/
def askUpdate (c : Cmd) (ch : Channel) (tb : Table) (t : Nat) (empty : Bool) (s : State) : Option Ask :=
  let u := updPkt c.op c.q.params
  let costs := updCosts c.q u tb 0 u.count s
  (dealRows s t empty costs []).map fun es =>
    { stages := [(.update, dealt es costs)], work := updWork ch, uses := [tb.num]
      free := u.op != 0x4003 || slotsFit c.q u tb 0 u.count s, extra := if u.op = 0x4003 ∧ tb.place = 1 then 1 else 0 }

/-- The parameter check that a command's channel takes part in, made at decode and again at its boundary (R54 check 5, R61, R70). -/
def checkOnChannel (op : Nat) (q : Pkt) (s : State) : Option Final :=
  match s.handleChan q.handle with
  | none => none
  | some ch =>
    let onIndex := fun (f : Index → Option Final) => match s.index ch.primary with
      | some x => f x
      | none => none
    let onTable := fun (f : Table → Option Final) => match s.table ch.primary with
      | some t => f t
      | none => none
    match op with
    | 0x2001 | 0x2002 | 0x2003 => onIndex fun x => checkSearch op q ch x s
    | 0x3002 | 0x3003 | 0x3004 | 0x3005 | 0x3006 => onIndex fun x => checkIngest op q x s
    | 0x4002 => onTable fun t => checkGather q ch t s
    | 0x4003 | 0x4004 | 0x4005 => onTable fun t => checkUpdate op q t s
    | 0x5001 => checkKernelLoad q s
    | 0x5002 => checkKernelRun q ch s
    | 0x6004 => checkPrefetch q s
    | 0x6007 => checkCopy q s <|> copyRefused q s
    | _ => none

/-- Is the update a job: its entries come from an object (R259)? -/
def isUpdateJob (c : Cmd) : Bool := [0x4003, 0x4004, 0x4005].contains c.op && fld c.q.params 5 1 == 1

/-- What a command asks for in tick `t`; none when it does not fit there as a whole. `empty` asks of an empty tick (R20). -/
def askAt (c : Cmd) (t : Nat) (empty : Bool) (s : State) : Option Ask :=
  match s.handleChan c.q.handle with
  | none => if c.op = 0x6008 then some { stages := [(.slow, [])] } else none
  | some ch => match c.op with
    | 0x2001 | 0x2002 | 0x2003 => (s.index ch.primary).map fun x => askSearch c ch x s
    | 0x4002 => (s.table ch.primary).bind fun tb => askGather c ch tb t empty s
    | 0x4003 | 0x4004 | 0x4005 => (s.table ch.primary).bind fun tb =>
        if isUpdateJob c then some { stages := [], work := updWork ch, uses := [tb.num, (updPkt c.op c.q.params).src] } else askUpdate c ch tb t empty s
    | 0x5002 => (s.loaded ch.slot).map fun k => { stages := runCharges k, work := runWork ch k s, uses := runUses c.q }
    | _ => none

/-- An inline REPLACE_ROWS for which the free slots do not do (R260, R266 SLOT_WAIT). -/
def slotsShort (c : Cmd) (s : State) : Bool :=
  c.op == 0x4003 && !isUpdateJob c && match (s.handleChan c.q.handle).bind fun ch => s.table ch.primary with
    | some tb => let u := updPkt c.op c.q.params; !slotsFit c.q u tb 0 u.count s
    | none => false

/-- Place stages from tick `t` on: the first in `t`, each later one in the earliest tick after the one before that has capacity, none after `last`
(R22). -/
def placeStages (s : State) (last : Nat) : (first : Bool) → (t : Nat) → List (StageKind × List (Res × Nat)) → Option (List Stage)
  | _, _, [] => some []
  | first, t, g :: rest =>
    let at_ := if first then (if s.fitsTick t g.2 then some t else none) else findFrom (fun u => s.fitsTick u g.2) (last + 1 - t) t
    match at_ with
    | none => none
    | some u => if last < u then none else (placeStages s last false (u + 1) rest).map fun l => { kind := g.1, tick := u, charge := g.2 } :: l

/-- Can the command ever fit: at most D + 1 ticks, each stage within an empty tick (R20)? -/
def neverFits (c : Cmd) (s : State) : Bool :=
  match askAt c s.tick true s with
  | none => [0x4002, 0x4003, 0x4004, 0x4005].contains c.op
  | some a => decide (s.dOf c + 1 < a.stages.length + a.extra) || a.stages.any fun g => !s.fitsEmpty g.2

/-- Merge room a LIST_MERGE takes in tick n + AT (R139, R327). -/
def listMergeRoom (q : Pkt) : Nat := fld q.params 16 2 * fld q.params 28 2 * fld q.params 24 4

/-- A command's stages as they would place from tick `t` on, and what it asks for (R22). -/
def stagesFrom (c : Cmd) (t : Nat) (s : State) : Option (List Stage × Ask) :=
  if c.op = 0x6008 then
    let u := t + fld c.q.params 30 1
    if s.chargedAt u .merge + listMergeRoom c.q ≤ s.capacity .merge then some ([{ kind := .slow, tick := u, charge := [] }], { stages := [] }) else none
  else match askAt c t false s with
    | none => none
    | some a => (placeStages s (t + s.dOf c) true t a.stages).map fun l => (l, a)

/-- A command with room in tick `t` as boundary `t` would see it: its stages and what it asked for, of which the slots it needs are free (R19, R45, R260). -/
def placedFrom (c : Cmd) (t : Nat) (s : State) : Option (List Stage × Ask) := (stagesFrom c t s).filter fun r => r.2.free

/-- Retry-after of BUSY/ADMISSION (R19): ticks to the first tick into which every stage of the command would place, at most 257. -/
def retryAfter (c : Cmd) (s : State) : Nat :=
  match findFrom (fun t => (stagesFrom c t s).isSome) 256 (s.tick + 1) with
  | some f => f - s.tick
  | none => 257

/-! ## Admission (R19) -/

/-- A stage whose tick has come begins. -/
def beginStage (id : Nat) (s : State) : State :=
  match s.cmd id with
  | none => s
  | some c => match c.stages.find? fun g => !g.finished with
    | some g =>
      if s.tick < g.tick then s
      else match g.kind with
        | .gather => startGather c s
        | .update => startUpdate c s
        | _ => startNext id s
    | none => s

/-- The command is admitted at boundary n: defaults and bindings are taken, its stages placed, and what begins in tick n begins (R19, R22, R70). -/
def placeCmd (c : Cmd) (l : List Stage) (a : Ask) (s : State) : State :=
  let s := countDeparture c.q.access s
  let ch := s.handleChan c.q.handle
  let d := s.dOf c
  let strict := s.strictOf c
  let s := s.setCmd c.id fun x => { x with
    state := .running, admitTick := s.tick, deadline := d, strict := strict, stages := l, work := a.work, uses := a.uses, routes := a.routes
    binding := (ch.map Channel.binding).getD 0 }
  let s := chargeNow ((l.filter fun g => g.tick == s.tick).flatMap Stage.charge) (chargeQuota c.q.access 3 a.slots s)
  if c.op = 0x6008 then match s.cmd c.id with
    | some c => holdListMerge c s
    | none => s
  else if isUpdateJob c then match s.cmd c.id with
    | some c => startUpdateJob c s
    | none => s
  else beginStage c.id s

/-- Would the boundary reject the command: its handle, its parameters as bindings now stand, a run with no kernel, or stages that cannot fit
(R20, R61, R74, R229)? -/
def boundaryBad (c : Cmd) (s : State) : Option Final :=
  (if c.q.handle != 0 && (s.handleChan c.q.handle).isNone then some badHandle else none)
  <|> (if c.op = 0x6008 then checkListMerge c.q s else none)
  <|> checkOnChannel c.op c.q s
  <|> (if neverFits c s then some (badParam0 4) else none)

/-- One turn of the admission pass for a pending command (R19): behind a FENCE it is passed over, and the boundary is not counted as one it waited
(DESIGN CHOICE, log entry 73); else it is rejected, admitted, answered BUSY after ADMISSION_WAIT boundaries, or kept. -/
def admitOne (s : State) (id : Nat) : State :=
  match s.cmd id with
  | none => s
  | some c =>
    if c.state != .waiting || s.fenced c then s
    else match boundaryBad c s with
      | some f => finish c f s
      | none => match placedFrom c s.tick s with
        | some (l, a) => placeCmd c l a s
        | none =>
          let s := if slotsShort c s then countChan (handleSlot c.q.handle) 21 1 s else s
          if s.setting 0x0105 ≤ c.waited then finish c { status := status 3 1, detail := max 1 (retryAfter c s) } s
          else s.setCmd id fun d => { d with waited := d.waited + 1 }

/-- Admission order (R19): REALTIME, which an ABORT ignores (R64), smaller D, port in rotation, arrival. -/
def State.admissionOrder (s : State) : List Nat :=
  let key := fun (c : Cmd) => (if bit c.q.flags 2 && c.op != 0xC001 then 0 else 1, s.dOf c, (c.q.access + 9 - s.frame.rotation % 9) % 9, c.id)
  let lt := fun (a b : Cmd) =>
    let x := key a
    let y := key b
    decide (x.1 < y.1) || (x.1 == y.1 && (decide (x.2.1 < y.2.1) || (x.2.1 == y.2.1 && (decide (x.2.2.1 < y.2.2.1)
      || (x.2.2.1 == y.2.2.1 && decide (x.2.2.2 < y.2.2.2))))))
  (sortBy lt (s.cmds.filter fun c => c.state == .waiting || c.state == .ready)).map Cmd.id

end Sys2Proof.Machine
end

