-- ==== Sys2Proof/Machine/Security.lean ====
section
/-! DEFINITION. Security and firmware commands (classes 0xA and 0xB): roles and their challenges, ATTEST, AUDIT_READ, FW_STAGE,
FW_ACTIVATE and FW_STATUS (R41–R44, R371–R379, R384). -/

namespace Sys2Proof.Machine

/-! ## Roles (R38, R41–R44) -/

/-- Digest of a key pair (R372, R378). -/
def keyDigest (rsa slh : Bytes) : Bytes := sha384 (rsa ++ slh)

/-- Both signatures must verify (R371). -/
def dualVerifies (key msg rsaSig slhSig : Bytes) : Bool := Config.rsaVerifies key msg rsaSig && Config.slhVerifies key msg slhSig

/-- Device identity digest; zero bytes while no identity exists. -/
def State.identityDigest (s : State) : Bytes := s.mgmt.identity.getD (zeros 48)

/-- The 128-byte challenge (R43). -/
def challengeBytes (p role k : Nat) (s : State) : Bytes :=
  leBytes 48 (Config.nonce k).toNat ++ slice s.identityDigest 0 48 ++ leBytes 1 p ++ leBytes 1 role ++ leBytes 6 s.tick ++ slice s.mgmt.auditHead 0 24

/-- Change an access point's role; ROLE_CHANGED on a port (R36). -/
def setRole (p role slot : Nat) (s : State) : State :=
  let s := s.setPort p fun x => { x with role := role, roleSlot := slot, roleLoss := none }
  if p < 8 then setEvents p 1 s else s

/-- A role is lost: audited, and the access point returns to operator (R44, R47). -/
def loseRole (p cause : Nat) (s : State) : State :=
  if s.role p = 0 then s.setPort p fun x => { x with roleLoss := none }
  else
    let s := auditWrite 2 0 p (s.role p) 0 0 (afield (s.role p) ++ afield cause) s
    setRole p 0 0 s

/-- ROLE_ASSUME STEP 0 (R42, R43). -/
def holdChallenge (c : Cmd) (s : State) : State :=
  let p := c.q.access
  let role := fld c.q.params 1 1
  let bs := challengeBytes p role s.free s
  let s := { s with free := s.free + 1 }
  let s := s.setPort p fun x => { x with challenge := some ⟨role, bs, s.frame.elapsed⟩ }
  finish c (okDone 128 (reportAt c bs)) s

/-- A refused second packet: audited; when it counts, the fourth in a row locks ROLE_ASSUME out for 600 s (R42). The manual numbers no causes of a
refusal (R47): 0 refused at decode or in a lockout, 1 the management port holds the role, 2 the answer failed (DESIGN CHOICE, log entry 68). -/
def refuseRole (c : Cmd) (detail cause : Nat) (counts : Bool) (s : State) : State :=
  let p := c.q.access
  let s := s.setPort p fun x => { x with challenge := none }
  let s := auditFor 1 1 c.q (afield (fld c.q.params 1 1) ++ afield (fld c.q.params 2 1) ++ afield cause) s
  let s := if counts then
      let n := s.mgmt.failedAnswers + 1
      if n = 4 then
        let s := s.setMgmt fun m => { m with failedAnswers := 0, lockout := some (s.frame.elapsed + 600000000) }
        raiseAlarm 0x001 0 (auditFor 3 0 c.q (afield 4) s)
      else s.setMgmt fun m => { m with failedAnswers := n }
    else s
  finish c (badRole detail) s

/-- Key digest that must have signed the answer: a credential slot's, or the maker's (R41, R44). -/
def answerKey (role slot : Nat) (s : State) : Option Bytes :=
  if role = 2 then some s.mgmt.makerKey else (s.mgmt.credentials.getD slot none).map fun k => keyDigest k.1 k.2

/-- Is the answer to a challenge good: the port's latest, of this role, at most 60 s old, signed with the named pair (R42)? -/
def answerGood (q : Pkt) (s : State) : Bool :=
  let role := fld q.params 1 1
  match (s.port q.access).challenge, answerKey role (fld q.params 2 1) s with
  | some ch, some key => ch.role == role && decide (s.frame.elapsed - ch.issuedAt ≤ 60000000)
      && dualVerifies key ch.bytes (slice q.params 16 384) (slice q.params 400 16224)
  | _, _ => false

/-- Does the management port's role keep port 0 from installer (R38)? -/
def roleTaken (q : Pkt) (s : State) : Bool := q.access == 0 && decide (1 ≤ s.role 8)

/-- ROLE_ASSUME STEP 1 (R38, R42, R43): installer on the management port takes it from port 0 at this same boundary. -/
def holdAnswer (c : Cmd) (s : State) : State :=
  let p := c.q.access
  let role := fld c.q.params 1 1
  let slot := fld c.q.params 2 1
  if roleTaken c.q s then refuseRole c 1 1 false s
  else if answerGood c.q s then
    let s := s.setPort p fun x => { x with challenge := none }
    let s := s.setMgmt fun m => { m with failedAnswers := 0 }
    let s := auditFor 1 0 c.q (afield role ++ afield slot ++ afield 0) s
    let s := if p = 8 ∧ role = 1 ∧ s.role 0 = 1 then loseRole 0 2 s else s
    finish c (okDone 0) (setRole p role slot s)
  else refuseRole c 0 2 true s

/-- ROLE_ASSUME takes hold (R42, R43). In a lockout both steps are refused here too, which is no failed answer (R42; DESIGN CHOICE, log entry 67). -/
def holdRoleAssume (c : Cmd) (s : State) : State :=
  if s.mgmt.lockout.isSome then
    (if fld c.q.params 0 1 = 0 then
      finish c (badRole 0) (auditFor 1 1 c.q (afield (fld c.q.params 1 1) ++ afield (fld c.q.params 2 1) ++ afield 0) s)
    else refuseRole c 0 0 false s)
  else if fld c.q.params 0 1 = 0 then holdChallenge c s else holdAnswer c s

/-- ROLE_DROP (R43): a maker test mode in progress ends. -/
def holdRoleDrop (c : Cmd) (s : State) : State :=
  let p := c.q.access
  let r := s.role p
  let s := if r = 2 then s.setMgmt fun m => { m with testMode := false } else s
  finish c (okDone r) (loseRole p 1 s)

/-- The roles an access point may never hold, and the lockout (R42, R43). -/
def roleRefused (q : Pkt) (s : State) : Option Final :=
  let role := fld q.params 1 1
  if (role == 2 && q.access != 8) || (role == 1 && decide (1 ≤ q.access) && decide (q.access ≤ 7)) || s.mgmt.lockout.isSome
  then some (badRole 0) else none

/-! ## ATTEST, AUDIT_READ (R379, R384) -/

/-- SHA-384 over every member-wide setting in force, in ID order (R379). -/
def settingsDigest (s : State) : Bytes :=
  let mine := sortBy (fun a b => decide (a.1 < b.1)) (s.settings.filter fun p => !(decide (0x0200 ≤ p.1) && decide (p.1 < 0x0280)))
  sha384 (mine.flatMap fun p => leBytes 2 p.1 ++ leBytes 8 p.2.value)

/-- SHA-384 over the live repair entries (R379). -/
def repairDigest (s : State) : Bytes := sha384 (s.mgmt.repairs.flatMap RepairEntry.bytes)

/-- SHA-384 over the loaded kernels' digests in ascending order (R379). -/
def kernelsDigest (s : State) : Bytes :=
  let ds := sortBy (fun a b => decide (leVal a.reverse < leVal b.reverse)) ((s.kernels.filter fun k => !k.leaving).map Kernel.digest)
  sha384 (ds.flatMap id)

/-- The six digests of R379 that SPDM serves as measurements 1 to 6 (R380). -/
def measurements (s : State) : List Bytes :=
  [slice (Config.deviceBytes "ROM digest" 48) 0 48, slice (s.mgmt.slot s.mgmt.running).digest 0 48, settingsDigest s, repairDigest s,
   slice s.mgmt.auditHead 0 48, kernelsDigest s]

/-- The 512-byte evidence body (R379). -/
def evidence (nonce : Bytes) (s : State) : Bytes :=
  leBytes 4 0x4B553445 ++ leBytes 2 1 ++ leBytes 1 s.mgmt.moduleState.code ++ leBytes 1 s.mgmt.running ++ slice s.identityDigest 0 48 ++ nonce
    ++ leBytes 6 s.tick ++ leBytes 2 (s.self + flag s.fabric.joined 15) ++ (measurements s).flatMap id
    ++ leBytes 1 s.mgmt.rollback ++ leBytes 1 (flag s.mgmt.key2.isSome 0 + flag s.mgmt.decommissioned 1) ++ zeros 126

def holdAttest (c : Cmd) (s : State) : State :=
  let body := evidence (slice c.q.params 0 32) s
  let bs := body ++ slice (Config.rsaSign s.identityDigest body) 0 384 ++ slice (Config.slhSign s.identityDigest body) 0 16224
  finish c (okDone 17120 [⟨fld c.q.params 32 8, bs⟩]) s

/-- Whole entries that fit, oldest first. -/
def takeEntries : List AuditEntry → (room : Nat) → List AuditEntry
  | [], _ => []
  | e :: es, room => if e.bytes.length ≤ room then e :: takeEntries es (room - e.bytes.length) else []

def holdAuditRead (c : Cmd) (s : State) : State :=
  let m := s.mgmt
  let oldest := ((m.audit.head?).map AuditEntry.seq).getD 0
  let es := takeEntries (m.audit.filter fun e => decide (max (fld c.q.params 0 4) oldest ≤ e.seq)) (fld c.q.params 4 4 - 64)
  let head := ((m.audit.getLast?).map AuditEntry.seq).getD 0
  let bs := leBytes 4 oldest ++ leBytes 4 head ++ slice m.auditHead 0 48 ++ zeros 8 ++ es.flatMap AuditEntry.bytes
  let upto := match es.getLast? with
    | some e => max m.auditReturned (e.seq + 1)
    | none => m.auditReturned
  finish c (okDone es.length (reportAt c bs)) (s.setMgmt fun m => { m with auditReturned := upto })

def checkSecurity (op : Nat) (q : Pkt) (s : State) : Option Final :=
  let ps := q.params
  match op with
  | 0xA001 => firstBad [(decide (1 < fld ps 0 1), badParam 0 0), (fld ps 1 1 == 0 || decide (2 < fld ps 1 1), badParam 0 1),
      (decide (3 < fld ps 2 1), badParam 0 2), ((fld ps 0 1 == 0 || fld ps 1 1 == 2) && fld ps 2 1 != 0, badParam 2 2),
      (fld ps 0 1 == 1 && fld ps 8 8 != 0, badParam 2 8)]
      <|> (if fld ps 0 1 = 0 then addrCheck q 8 64 128 false s else none)
  | 0xA003 => addrCheck q 32 1 17120 false s
  | 0xA004 => firstBad [(decide (fld ps 4 4 < 4096) || decide (16777216 < fld ps 4 4), badParam 0 4)] <|> addrCheck q 8 1 (fld ps 4 4) false s
  | _ => none

/-! ## Firmware (R371–R376) -/

/-- Size of a firmware slot (R370). -/
abbrev slotBytes : Nat := 100663296

/-- Header fields of an image (R372). -/
def FwSlot.field (f : FwSlot) (off n : Nat) : Nat := f.image.num off n

/-- Does the image pass R371 to R373? -/
def FwSlot.genuine (f : FwSlot) (m : Mgmt) : Bool :=
  let body := f.field 12 4
  let hdr := f.image.read 0 512
  let key := keyDigest (slice hdr 64 384) (slice hdr 448 48)
  f.field 0 4 == 0x4B553446 && f.field 4 2 == 1 && decide (1 ≤ body) && decide (body ≤ 100646176)
    && sha384 (f.image.read 512 body) == slice hdr 16 48
    && (key == m.key1 || some key == m.key2)
    && dualVerifies key hdr (f.image.read (512 + body) 384) (f.image.read (896 + body) 16224)
    && decide (m.rollback ≤ f.field 6 1)

/-- Bytes programmed into a slot. -/
def FwSlot.programmed (f : FwSlot) : Nat := (f.ranges.map fun r => r.2).foldl (· + ·) 0

/-- Audit of a firmware act: slot, image digest, outcome (R47). -/
def auditFw (q : Pkt) (slot outcome : Nat) (s : State) : State :=
  auditFor 7 (min outcome 1) q (afield slot ++ slice (s.mgmt.slot slot).digest 0 48 ++ afield outcome) s

/-- Why FW_STAGE would be refused as it takes hold: BEGIN while FW_ACTIVATE drains, DATA on a slot that is not STAGING, beyond the slot or over a range that is programmed (R374, R375). -/
def fwStageRefused (q : Pkt) (s : State) : Option Final :=
  let f := s.mgmt.slot (1 - s.mgmt.running)
  let len := fld q.params 4 4
  let off := fld q.params 8 8
  match fld q.params 0 1 with
  | 0 => if s.mgmt.draining.isSome then some (badParam 2 0) else none
  | 1 => firstBad [(f.state != 1, badParam 2 0),
      (decide (slotBytes < off + len) || (f.ranges.any fun r => decide (r.1 < off + len) && decide (off < r.1 + r.2)), badParam 2 8)]
  | _ => none

/-- FW_STAGE: BEGIN, DATA, FINISH, CANCEL on the slot that is not running (R374). -/
def holdFwStage (c : Cmd) (s : State) : State :=
  let ps := c.q.params
  let slot := 1 - s.mgmt.running
  let len := fld ps 4 4
  let off := fld ps 8 8
  match fwStageRefused c.q s with
  | some f => finish c f (auditFw c.q slot 1 s)
  | none => match fld ps 0 1 with
    | 0 =>
      let s := if s.mgmt.ledger.activeSlot = slot then writeLedger (fun l => { l with activeSlot := s.mgmt.running }) s else s
      let s := s.setMgmt fun m => { m.setSlot slot fun _ => { state := 1 } with eraseSlot := some (slot, c.id) }
      (auditFw c.q slot 0 s).setCmd c.id fun d => { d with state := .running, admitTick := s.tick }
    | 1 =>
      let src := fld ps 16 8
      let data := if src = 0 then slice ps 32 len else s.hostView.read src len
      let s := s.setMgmt fun m => m.setSlot slot fun f => { f with ranges := f.ranges ++ [(off, len)], image := f.image.write off data }
      finish c (okDone 0) (auditFw c.q slot 0 s)
    | 2 => (s.setMgmt fun m => { m with verifySlot := some (slot, c.id) }).setCmd c.id fun d => { d with state := .running, admitTick := s.tick }
    | _ => finish c (okDone 0) (auditFw c.q slot 0 (s.setMgmt fun m => m.setSlot slot fun _ => {}))

/-- The verification of a FINISH ends: the slot, whatever it held, is VALID or REJECTED by the checks, and the command replies (R374). -/
def fwVerified (slot id : Nat) (s : State) : State :=
  let s := s.setMgmt fun m => { m with verifySlot := none }
  let f := s.mgmt.slot slot
  let good := f.genuine s.mgmt
  let total := 512 + f.field 12 4 + 16608
  let s := s.setMgmt fun m => m.setSlot slot fun f => { f with
    state := if good then 2 else 4, svn := f.field 6 1, version := f.field 8 4, imageBytes := total
    digest := if good then sha384 (f.image.read 0 total) else f.digest }
  match s.cmd id with
  | none => s
  | some c => if good then finish c (okDone 0) (auditFw c.q slot 0 s) else finish c (badParam 2 0) (auditFw c.q slot 1 s)

/-- The erase of a BEGIN, or else the verification of a FINISH, ends (R374). -/
def flashEnded (s : State) : State :=
  match s.mgmt.eraseSlot, s.mgmt.verifySlot with
  | some (_, id), _ =>
    let s := s.setMgmt fun m => { m with eraseSlot := none }
    match s.cmd id with
    | some c => finish c (okDone 0) s
    | none => s
  | none, some (slot, id) => fwVerified slot id s
  | none, none => s

/-- PORT_RIGHTS.ENABLE cleared on every port (R39, R44, R375). -/
def disablePorts (s : State) : State :=
  (List.range 8).foldl (fun t p => let r := t.rights p; if bit r 0 then setEvents p 2 (putSetting (0x0200 + 0x10 * p) (r - 1) t) else t) s

/-- Would FW_ACTIVATE be refused: its slot holds no valid image, or an activation drains already (R375)? -/
def fwActivateRefused (q : Pkt) (s : State) : Bool :=
  let slot := fld q.params 0 1
  ((s.mgmt.slot slot).state != 2 && slot != s.mgmt.running) || s.mgmt.draining.isSome

/-- FW_ACTIVATE (R375): at the next start, or now, when it begins to drain. -/
def holdFwActivate (c : Cmd) (s : State) : State :=
  let slot := fld c.q.params 0 1
  if fwActivateRefused c.q s then finish c (badParam 2 0) (auditFw c.q slot 1 s)
  else
    let s := auditFw c.q slot 0 s
    let s := writeLedger (fun l => { l with activeSlot := slot }) s
    if fld c.q.params 1 1 = 0 then finish c (okDone 0) s
    else
      let s := leaveFabric (disablePorts s)
      (s.setMgmt fun m => { m with draining := some (slot, c.id, 256) }).setCmd c.id fun d => { d with state := .running, admitTick := s.tick }

/-- A slot's 64-byte status entry (R376). -/
def FwSlot.entry (f : FwSlot) (running : Bool) : Bytes :=
  leBytes 1 (if running then 3 else f.state) ++ leBytes 1 f.svn ++ zeros 2 ++ leBytes 4 f.version ++ leBytes 4 f.programmed ++ zeros 4 ++ slice f.digest 0 48

def holdFwStatus (c : Cmd) (s : State) : State :=
  let m := s.mgmt
  let pend := if m.draining.isSome then 2 else if m.ledger.activeSlot ≠ m.running then 1 else 0
  let bs := leBytes 1 m.running ++ leBytes 1 m.ledger.activeSlot ++ leBytes 1 m.rollback ++ leBytes 1 pend ++ zeros 60
    ++ m.slotA.entry (m.running == 0) ++ m.slotB.entry (m.running == 1)
  let k := freeCount s
  finish c (okDone k.1 (reportAt c bs)) k.2

def checkFirmware (op : Nat) (q : Pkt) (s : State) : Option Final :=
  let ps := q.params
  match op with
  | 0xB001 =>
    let data := fld ps 0 1 == 1
    firstBad [(decide (3 < fld ps 0 1), badParam 0 0), (decide (65536 < fld ps 4 4), badParam 0 4), (decide (ps.length < 32), badLen),
      (data && fld ps 16 8 == 0 && decide (ps.length < 32 + fld ps 4 4), badLen)]
    <|> (if data then addrCheck q 16 1 (fld ps 4 4) true s else none)
  | 0xB002 => firstBad [(decide (1 < fld ps 0 1), badParam 0 0), (decide (1 < fld ps 1 1), badParam 0 1)]
  | 0xB003 => addrCheck q 8 1 192 false s
  | _ => none

end Sys2Proof.Machine
end

