-- ==== Sys2Proof/Machine/Maker.lean ====
section
/-! DEFINITION. Maker commands (class 0xE): TEST_MODE, FUSE_PROGRAM, IDENTITY_PROVISION, IDENTITY_ROTATE and DECOMMISSION (R44, R378, R381).
The layout of their parameters is not given; what they name is open (PRESUMED, log entry 10). -/

namespace Sys2Proof.Machine

/-- The audit entry of a maker opcode: opcode, digest of its parameters, outcome (R47, R382). -/
def auditMaker (c : Cmd) (outcome : Nat) (s : State) : State :=
  auditFor 10 outcome c.q (afield c.op ++ slice (sha384 c.q.params) 0 48 ++ afield outcome) s

/-- Scrub T0, walk context and T1, its system part with the event journal and the park store among it (R44, R351, R385): every byte there reads
zero afterwards. The entry names the three regions; its duration is open. -/
def scrubAll (c : Cmd) (s : State) : State :=
  let d := draw s
  let s := auditFor 11 0 c.q (afield 7 ++ afield d.1) d.2
  let s := (s.walks.filter fun w => w.freedIn.isNone).foldl (fun s w => refundSlots w s) s
  { s with
    objs := s.objs.map Obj.scrubbed, walks := [], mem := { s.mem with cache := [], held := [], heldPoison := [] }
    ports := s.ports.map fun p => { p with park := [] }, mgmt := { s.mgmt with general := [], alarms := [] } }

/-- The steps before any maker test mode (R44): ports disabled, work in flight ended, fabric left, memories scrubbed. -/
def enterMaker (c : Cmd) (s : State) : State := scrubAll c (leaveFabric (endAll c.id (disablePorts s)))

/-- TEST_MODE (R381). -/
def holdTestMode (c : Cmd) (s : State) : State :=
  finish c (okDone 0) ((enterMaker c (auditMaker c 0 s)).setMgmt fun m => { m with testMode := true })

/-- FUSE_PROGRAM: repair fuses, the second firmware key digest, or the rollback count, which never falls (R373, R381). -/
def holdFuseProgram (c : Cmd) (s : State) : State :=
  let v := Config.fuseValue c.q.params
  finish c (okDone 0) ((auditMaker c 0 s).setMgmt fun m => match Config.fuseTarget c.q.params % 3 with
    | 0 => { m with repairFuses := v }
    | 1 => { m with key2 := some (slice v 0 48) }
    | _ => { m with rollback := max m.rollback (leVal v) })

/-- A fresh identity: key pair number k and its certificates (R378). -/
def newIdentity (c : Cmd) (m : Mgmt) : Mgmt :=
  let certs := Config.certificates c.q.params
  { m with identity := some (leBytes 48 (Config.identityKey m.identities).toNat), identities := m.identities + 1, certificate := certs.1, chain := certs.2 }

/-- IDENTITY_PROVISION: rejected when an identity exists (R381). -/
def holdIdentityProvision (c : Cmd) (s : State) : State :=
  if s.mgmt.identity.isSome then finish c (badParam0 2) (auditMaker c 1 s)
  else finish c (okDone 0) ((auditMaker c 0 s).setMgmt (newIdentity c))

/-- IDENTITY_ROTATE: the old keys are destroyed (R381). -/
def holdIdentityRotate (c : Cmd) (s : State) : State := finish c (okDone 0) ((auditMaker c 0 s).setMgmt (newIdentity c))

/-- DECOMMISSION: scrubs, erases credential slots 1 to 3 and the identity area, and sets the fuse (R41, R381). -/
def holdDecommission (c : Cmd) (s : State) : State :=
  finish c (okDone 0) ((enterMaker c (auditMaker c 0 s)).setMgmt fun m => { m with
    credentials := m.credentials.take 1 ++ [none, none, none], identity := none, certificate := [], chain := [], decommissioned := true })

end Sys2Proof.Machine
end

