-- ==== Sys2Proof/Machine/Packets.lean ====
section
/-! DEFINITION. Command packets at the packet front end: the decode checks in R54's order, roles and rights, BUSY, the queue they enter, what a slow-path
command does when it takes hold, and the meaning of each packet row (R53–R57, R369). -/

namespace Sys2Proof.Machine

/-! ## Level checks (R54 checks 2 and 3, R62) -/

def levelBad (op : Nat) (q : Pkt) (s : State) : Option Final :=
  let agreed := (s.agreed q).getD 0x10
  firstBad
    [((s.agreed q).isNone && op != 0x0001 && op != 0x0000, badLevel q 1 s), (q.archLevel != (if op = 0x0001 then 0x10 else agreed), badLevel q 2 s),
     (q.flags / 8 != 0 || q.growth != 0, badLevel q 3 s), (!opcodes.contains op, badLevel q 4 s)]

/-! ## Parameters (check 5) -/

/-- Parameter checks that do not ask which channel the packet names. -/
def checkParams (op : Nat) (q : Pkt) (s : State) : Option Final :=
  match op / 0x1000 with
  | 0x0 => checkSession op q s
  | 0x1 => match op with
    | 0x1001 => checkCreate q s
    | 0x1003 => addrCheck q 8 64 64 false s
    | 0x1004 => checkRebind q
    | _ => none
  | 0x3 => if op = 0x3001 then checkDefine q else none
  | 0x4 => if op = 0x4001 then checkTable q else none
  | 0x6 => match op with
    | 0x6001 => checkAlloc q s
    | 0x6005 => checkRegister q s
    | 0x6006 => checkRelease q
    | 0x6008 => checkListMerge q s
    | _ => none
  | 0x7 => checkFabric op q s
  | 0x8 => checkSetGet op q s
  | 0x9 => checkTelemetry op q s
  | 0xA => checkSecurity op q s
  | 0xB => checkFirmware op q s
  | 0xC => checkAbort q
  | _ => none

/-- Does the packet's HANDLE serve the opcode (R65, R66, R40)? -/
def handleBad (op : Nat) (q : Pkt) (s : State) : Option Final :=
  match chanTypes op q.params with
  | none => none
  | some types => match s.handleChan q.handle with
    | none => some badHandle
    | some ch =>
      let any := decide (1 ≤ s.role q.access) && [0x1, 0x8, 0x9].contains (op / 0x1000)
      if types.contains ch.type && (ch.port == q.access || any) then none else some badHandle

/-- Reply stream that a packet's command stream names (R36). -/
def State.replyOf (s : State) (q : Pkt) : Nat := ((s.port q.access).cmds.getD q.stream {}).reply

/-- Does the channel answer in another reply stream than the one its packet's command stream names (R68)? The management port has none. -/
def replyBad (op : Nat) (q : Pkt) (s : State) : Option Final :=
  if q.access = 8 ∨ (chanTypes op q.params).isNone = true then none
  else match s.handleChan q.handle with
    | some ch => if s.replyOf q = ch.reply then none else some badHandle
    | none => none

/-- Is a failing status one of check 8 rather than of check 5? -/
def isQuota (f : Final) : Bool := f.status == status 2 2

/-- The check of R20 at decode: a command whose channel serves it needs more ticks than D + 1, or more than an empty tick. -/
def cannotFit (op : Nat) (q : Pkt) (s : State) : Option Final :=
  let c : Cmd := { id := s.freshId, op := op, q := q, epoch := 0, rstream := 0, reserved := false, state := .waiting, decoded := s.tick }
  if (handleBad op q s).isNone && neverFits c s then some (badParam0 4) else none

/-- Check 5 of R54: DEADLINE, length, parameters, HANDLE 0 where no channel is named. -/
def paramsBad (op : Nat) (q : Pkt) (s : State) : Option Final :=
  firstBad
    [(decide (255 < q.deadline), { status := status 2 1, detail := 1 }), ((fixedLen op q.params).any fun n => n != q.params.length, badLen),
     ((chanTypes op q.params).isNone && q.handle != 0, { status := status 2 1, detail := 0x2000 })]
  <|> checkParams op q s
  <|> (if (handleBad op q s).isNone then (checkOnChannel op q s).filter fun f => !isQuota f else none)
  <|> cannotFit op q s

/-! ## Roles and rights (check 6, R38–R43, R369, R377) -/

/-- Classes the management port takes (R369). -/
def mgmtClasses : List Nat := [0x0, 0x7, 0x8, 0x9, 0xA, 0xB, 0xC, 0xE]
/-- Opcodes of a module in SAFE (R359, R377), NEGOTIATE with them (DEDUCED, log entry 20). -/
def safeOps (op : Nat) : Bool := [0x0001, 0x0002, 0xB001, 0xB002, 0xB003, 0x9001].contains op || op / 0x1000 == 0xE

/-- Does the role suffice (R40, R389, R390)? Whose channel a HANDLE names is check 7's (R34, R66). -/
def roleAllows (op : Nat) (q : Pkt) (s : State) : Bool :=
  let role := s.role q.access
  let inst := decide (1 ≤ role)
  match op / 0x1000 with
  | 0x5 => inst || bit (s.rights q.access) 1
  | 0x6 => op != 0x6005 || fld q.params 0 1 != 1 || bit (s.rights q.access) 2
  | 0x7 => op == 0x7001 || inst
  | 0x8 => op == 0x8002 || inst || chanSetting (fld q.params 0 2)
  | 0x9 => inst || (op == 0x9001 && decide (fld q.params 0 1 ≤ 1)) || (op == 0x9002 && decide (fld q.params 0 1 ≤ 2))
  | 0xA => op != 0xA004 || inst
  | 0xB => op == 0xB003 || inst
  | 0xC => fld q.params 0 1 == q.access || inst
  | 0xE => q.access == 8 && role == 2
  | _ => true

def roleBad (op : Nat) (q : Pkt) (s : State) : Option Final :=
  if s.mgmt.moduleState == .safe then
    (if safeOps op && (op / 0x1000 != 0xE || s.role 8 == 2) then none else some (badRole 0))
  else if q.access = 8 ∧ !mgmtClasses.contains (op / 0x1000) then some (badRole 0)
  else if !bit (s.rights q.access) 0 || !roleAllows op q s then some (badRole 0)
  else if op = 0xA001 then roleRefused q s else none

/-! ## Handle and quota (checks 7 and 8) -/

/-- Port limits that a packet would break by itself (R46): a search's width, a new channel, a new object, index or table. What the device lacks, and a
kernel's bundles, are checked where the command takes hold. -/
def quotaBad (op : Nat) (q : Pkt) (s : State) : Option Final :=
  match op with
  | 0x1001 => if s.quotaAllows q.access 4 1 then none else some (badQuota 5 false)
  | 0x6001 =>
    let ps := q.params
    let o : Obj := { num := s.objNumber 0, owner := q.access, pages := ceilDiv (fld ps 0 8) pageBytes, base := 0, tier := fld ps 8 1 % 4 }
    if fld ps 9 1 % 4 = 0 then (quotaBreak q.access (o.charges s.self) s).map fun t => badQuota (t + 1) false else none
  | 0x3001 =>
    (quotaBreak q.access (((defineHere q s).filterMap id ++ (defineRoute q s).toList ++ [defineWhole q s]).flatMap fun o => o.charges s.self) s).map
      fun t => badQuota (t + 1) false
  | 0x4001 =>
    (quotaBreak q.access (((tableHere q s).filterMap id ++ [tableWhole q s]).flatMap fun o => o.charges s.self) s).map fun t => badQuota (t + 1) false
  | _ => (checkOnChannel op q s).filter isQuota

/-! ## BUSY (checks 9 and 10) -/

/-- Retry-after of BUSY/PENDING_FULL from the port's departures of the last 64 ticks (R20). -/
def State.pendingRetry (s : State) (p : Nat) : Nat :=
  let sum := ((s.port p).departures.take 64).foldl (· + ·) 0
  if sum = 0 then s.setting 0x0105 else max 1 (min 65535 (ceilDiv 64 sum))

/-- Retry-after of BUSY/CONTROL_BAR: the queue's depth, or for a port at its share the port's own count, times the mean service time, in periods
(R56). That time, in ns, is open (DESIGN CHOICE, log entry 4). -/
def State.barRetry (s : State) (p : Nat) : Nat :=
  let mine := (s.cbQueue.filter fun c => c.q.access == p).length
  max 1 (min 65535 (ceilDiv ((if 128 ≤ mine then mine else s.cbQueue.length) * Config.freeNat s.free) (1000 * s.period)))

/-- BUSY, if any (R20, R55, R56, R369). -/
def busy (op : Nat) (q : Pkt) (s : State) : Option Final :=
  let limit := if q.access = 8 then 16 else 1024
  if op ≠ 0xC001 ∧ limit ≤ s.pendingCount q.access then some { status := status 3 2, detail := s.pendingRetry q.access }
  else if op ≠ 0xC001 ∧ q.access ≠ 8 ∧ fastPath op = false ∧ (512 ≤ s.cbQueue.length ∨ 128 ≤ (s.cbQueue.filter fun c => c.q.access == q.access).length)
    then some { status := status 3 3, detail := s.barRetry q.access }
  else none

/-! ## The decode checks in order (R54) -/

/-- Index whose vectors an INGEST or SEARCH packet carries, for the reserved bytes behind them (R102). -/
def State.dimsOf (s : State) (q : Pkt) : Nat := (((s.handleChan q.handle).bind fun c => s.index c.primary).map Index.dims).getD 0

/-- Data bytes of a row that an update of the table carries; 0 where DFMT is none of the formats (R258). -/
def State.rowOf (s : State) (op : Nat) (q : Pkt) : Nat :=
  let u := updPkt op q.params
  if 2 < u.dfmt then 0 else (((s.handleChan q.handle).bind fun c => s.table c.primary).map u.dataBytes).getD 0

def decodeBad (op : Nat) (q : Pkt) (s : State) : Option Final :=
  levelBad op q s <|> rsvCheck op q (s.dimsOf q) (s.rowOf op q) <|> paramsBad op q s <|> roleBad op q s <|> handleBad op q s <|> replyBad op q s <|> quotaBad op q s

/-- A refusal that the journal records: of ROLE_ASSUME, SET, firmware and maker opcodes (R47). -/
def auditRefusal (op : Nat) (q : Pkt) (f : Final) (s : State) : State :=
  if f.status / 0x1000 ≠ 2 then s
  else match op with
    | 0x8001 => auditSet q (s.settingOf q) true s
    | 0xA001 => if f.status = status 2 3 then auditFor 1 1 q (afield (fld q.params 1 1) ++ afield (fld q.params 2 1) ++ afield 0) s else s
    | 0xB001 | 0xB002 => if f.status = status 2 3 then s else auditFw q (fld q.params (if op = 0xB001 then 1 else 0) 1 % 2) 1 s
    | _ => if op / 0x1000 = 0xE then auditFor 10 1 q (afield op ++ slice (sha384 q.params) 0 48 ++ afield 1) s else s

/-- Answer a packet that is not admitted; its record comes even under NO_REPLY_ON_OK (R54). -/
def refusePkt (op : Nat) (q : Pkt) (reserved : Bool) (f : Final) (s : State) : State :=
  let s := if f.status = status 3 3 then { (s.setMgmt fun m => { m with cbBusy := satAdd m.cbBusy 1 }) with free := s.free + 1 } else s
  reply q (s.port q.access).epoch (s.replyOf q) reserved f (track op q (s.port q.access).epoch (auditRefusal op q f s))

/-! ## Taking hold (R56, R61) -/

/-- What each slow-path opcode does at the boundary at which it takes hold. -/
def holdOp (c : Cmd) (s : State) : State :=
  match c.op with
  | 0x0001 => holdNegotiate c s | 0x0002 => holdIdentify c s | 0x0003 => holdNopEcho c s | 0x0004 => holdGetTick c s | 0x0005 => holdRedeliver c s
  | 0x1001 => holdChannelCreate c s | 0x1002 => holdChannelDestroy c s | 0x1003 => holdChannelStatus c s | 0x1004 => holdChannelRebind c s
  | 0x3001 => holdIndexDefine c s | 0x3002 => holdInsert c s | 0x3003 => holdDelete c s | 0x3004 => holdMerge c s | 0x3005 => holdBulkLoad c s
  | 0x3006 => holdIndexStat c s | 0x4001 => holdTableDefine c s | 0x5001 => holdKernelLoad c s | 0x5003 => holdKernelUnload c s
  | 0x6001 => holdObjAlloc c s | 0x6002 => holdObjFree c s | 0x6003 => holdObjPlace c s | 0x6004 => holdPrefetch c s
  | 0x6005 => holdRegionRegister c s | 0x6006 => holdRegionRelease c s | 0x6007 => holdObjCopy c s
  | 0x7001 => holdFabricStatus c s | 0x7002 => holdFabricJoin c s | 0x7003 => holdFabricLeave c s | 0x7004 => holdLinkControl c s
  | 0x8001 => holdSet c s | 0x8002 => holdGet c s | 0x9001 => holdLogRead c s | 0x9002 => holdCountersRead c s | 0x9003 => holdAlarmAck c s
  | 0xA001 => holdRoleAssume c s | 0xA002 => holdRoleDrop c s | 0xA003 => holdAttest c s | 0xA004 => holdAuditRead c s
  | 0xB001 => holdFwStage c s | 0xB002 => holdFwActivate c s | 0xB003 => holdFwStatus c s | 0xC001 => holdAbort c s
  | 0xE001 => holdTestMode c s | 0xE002 => holdFuseProgram c s | 0xE003 => holdIdentityProvision c s | 0xE004 => holdIdentityRotate c s
  | 0xE005 => holdDecommission c s
  | _ => s

/-- A command that has taken hold is pending no longer (R20); an INSERT that cannot take hold yet stays pending (R145), and an ABORT never was (R64). -/
def departed (c : Cmd) (t : State) : State :=
  if c.op = 0xC001 ∨ ((t.cmd c.id).any fun d => d.state == .ready) = true then t else countDeparture c.q.access t

/-- A command that has reached its boundary takes hold, unless FENCE keeps it back: checks that depend on the state are made again, and it acts
(R56, R57, R61). -/
def takeHold (s : State) (id : Nat) : State :=
  match s.cmd id with
  | none => s
  | some c =>
    if c.state != .ready || s.fenced c then s
    else match handleBad c.op c.q s <|> paramsBad c.op c.q s with
      | some f => finish c f (auditRefusal c.op c.q f (unreserve c s))
      | none =>
        if needsCapacity c.op then s.setCmd id fun d => { d with state := .waiting }
        else
          let ch := s.handleChan c.q.handle
          -- a REBIND and a DESTROY themselves keep nothing in use (R72)
          let uses := if c.op = 0x1002 ∨ c.op = 0x1004 then [] else (ch.map Channel.primary).toList
          let c := { c with state := CmdState.running, admitTick := s.tick, deadline := s.dOf c, strict := s.strictOf c
                            binding := (ch.map Channel.binding).getD 0, uses := uses }
          departed c (holdOp c (s.setCmd id fun _ => c))

/-! ## A packet arrives (R53–R55, R369) -/

/-- The next SEQ of the packet's stream or endpoint (R50, R369). -/
def noteSeq (q : Pkt) (s : State) : State :=
  let next := (q.seq + 1) % 2 ^ 32
  if q.access = 8 then s.setMgmt fun m =>
    if m.endpoints.any fun e => e.eid == q.stream then { m with endpoints := modifyIf m.endpoints (fun e => e.eid == q.stream) fun e => { e with nextSeq := next } }
    else { m with endpoints := m.endpoints ++ [{ eid := q.stream, nextSeq := next }] }
  else s.setPort q.access fun x => { x with cmds := modifyAt x.cmds q.stream fun c => { c with nextSeq := next } }

/-- Reserve a record for a packet, if there is one (R52). -/
def reserveRecord (q : Pkt) (s : State) : State × Bool :=
  let t := s.replyOf q
  if q.access = 8 ∨ s.recordFree q.access t = false then (s, false)
  else (s.setPort q.access fun x => { x with replies := modifyAt x.replies t fun r => { r with reserved := r.reserved + 1 } }, true)

/-- A decoded packet becomes a command of the device. -/
def newCmd (op : Nat) (q : Pkt) (reserved : Bool) (st : CmdState) (s : State) : State :=
  let c : Cmd := { id := s.freshId, op := op, q := q, epoch := (s.port q.access).epoch, rstream := s.replyOf q, reserved := reserved, state := st, decoded := s.tick }
  let t := { s with cmds := s.cmds ++ [c], nextId := s.freshId + 1 }
  if st == .queued then t.takeNext else t

/-- Decode one packet: refused, or a command in state `slow` or, on the fast path, waiting for admission. -/
def decodePkt (op : Nat) (q : Pkt) (reserved : Bool) (slow : CmdState) (s : State) : State :=
  match decodeBad op q s <|> busy op q s with
  | some f => refusePkt op q reserved f s
  | none => newCmd op q reserved (if fastPath op then .waiting else slow) s

/-- A packet row: the packet reaches the packet front end at a boundary; it is refused, or it takes hold or is considered for admission at once
(DESIGN CHOICE, log entry 1). PAD only takes its SEQ (R48). -/
def packetStep (op : Nat) (q : Pkt) (s : State) : State :=
  if 8 < q.access ∨ (s.mgmt.moduleState = .safe ∧ q.access ≠ 8) then s
  else
    let epoch := (s.port q.access).epoch
    let s := noteSeq q s
    if op = 0 then track 0 q epoch s
    else
      let r := reserveRecord q s
      match decodeBad op q r.1 <|> busy op q r.1 with
      | some f => refusePkt op q r.2 f r.1
      | none =>
        let id := r.1.freshId
        let s := newCmd op q r.2 (if fastPath op then .waiting else .ready) r.1
        if fastPath op then admitOne s id else if needsCapacity op then admitOne (takeHold s id) id else takeHold s id

/-- A management-port packet before tick 1: it is checked and answered as ever, and one that is accepted waits for a boundary, but for GET_TICK, which
waits for none (R56, R367, R407; DEDUCED, log entry 105). -/
def packetEarly (op : Nat) (q : Pkt) (s : State) : State :=
  let epoch := (s.port q.access).epoch
  let s := noteSeq q s
  if op = 0 then track 0 q epoch s
  else
    let r := reserveRecord q s
    match decodeBad op q r.1 <|> busy op q r.1 with
    | some f => refusePkt op q r.2 f r.1
    | none =>
      let id := r.1.freshId
      let s := newCmd op q r.2 .ready r.1
      if op = 4 then takeHold s id else s

/-- What a packet row does: on a running module the packet's step; during a start the management port alone takes packets, from the end of S2
(R354, R367). -/
def packetRow (op : Nat) (q : Pkt) (s : State) : State :=
  if s.up then packetStep op q s else if q.access == 8 && s.mgmtUp then packetEarly op q s else s

/-! ## The packet rows -/

def execPad (q : Pkt) (s : State) : Host.Outcome State Fault Refusal := act (packetRow 0x0000 q) s
def execNegotiate (q : Pkt) (s : State) : Host.Outcome State Fault Refusal := act (packetRow 0x0001 q) s
def execIdentify (q : Pkt) (s : State) : Host.Outcome State Fault Refusal := act (packetRow 0x0002 q) s
def execNopEcho (q : Pkt) (s : State) : Host.Outcome State Fault Refusal := act (packetRow 0x0003 q) s
def execGetTick (q : Pkt) (s : State) : Host.Outcome State Fault Refusal := act (packetRow 0x0004 q) s
def execRedeliver (q : Pkt) (s : State) : Host.Outcome State Fault Refusal := act (packetRow 0x0005 q) s
def execChannelCreate (q : Pkt) (s : State) : Host.Outcome State Fault Refusal := act (packetRow 0x1001 q) s
def execChannelDestroy (q : Pkt) (s : State) : Host.Outcome State Fault Refusal := act (packetRow 0x1002 q) s
def execChannelStatus (q : Pkt) (s : State) : Host.Outcome State Fault Refusal := act (packetRow 0x1003 q) s
def execChannelRebind (q : Pkt) (s : State) : Host.Outcome State Fault Refusal := act (packetRow 0x1004 q) s
def execSearch (q : Pkt) (s : State) : Host.Outcome State Fault Refusal := act (packetRow 0x2001 q) s
def execSearchBatch (q : Pkt) (s : State) : Host.Outcome State Fault Refusal := act (packetRow 0x2002 q) s
def execSearchEncoded (q : Pkt) (s : State) : Host.Outcome State Fault Refusal := act (packetRow 0x2003 q) s
def execIndexDefine (q : Pkt) (s : State) : Host.Outcome State Fault Refusal := act (packetRow 0x3001 q) s
def execInsert (q : Pkt) (s : State) : Host.Outcome State Fault Refusal := act (packetRow 0x3002 q) s
def execDelete (q : Pkt) (s : State) : Host.Outcome State Fault Refusal := act (packetRow 0x3003 q) s
def execMerge (q : Pkt) (s : State) : Host.Outcome State Fault Refusal := act (packetRow 0x3004 q) s
def execBulkLoad (q : Pkt) (s : State) : Host.Outcome State Fault Refusal := act (packetRow 0x3005 q) s
def execIndexStat (q : Pkt) (s : State) : Host.Outcome State Fault Refusal := act (packetRow 0x3006 q) s
def execTableDefine (q : Pkt) (s : State) : Host.Outcome State Fault Refusal := act (packetRow 0x4001 q) s
def execGather (q : Pkt) (s : State) : Host.Outcome State Fault Refusal := act (packetRow 0x4002 q) s
def execReplaceRows (q : Pkt) (s : State) : Host.Outcome State Fault Refusal := act (packetRow 0x4003 q) s
def execAddRows (q : Pkt) (s : State) : Host.Outcome State Fault Refusal := act (packetRow 0x4004 q) s
def execOptimiseRows (q : Pkt) (s : State) : Host.Outcome State Fault Refusal := act (packetRow 0x4005 q) s
def execKernelLoad (q : Pkt) (s : State) : Host.Outcome State Fault Refusal := act (packetRow 0x5001 q) s
def execKernelRun (q : Pkt) (s : State) : Host.Outcome State Fault Refusal := act (packetRow 0x5002 q) s
def execKernelUnload (q : Pkt) (s : State) : Host.Outcome State Fault Refusal := act (packetRow 0x5003 q) s
def execObjAlloc (q : Pkt) (s : State) : Host.Outcome State Fault Refusal := act (packetRow 0x6001 q) s
def execObjFree (q : Pkt) (s : State) : Host.Outcome State Fault Refusal := act (packetRow 0x6002 q) s
def execObjPlace (q : Pkt) (s : State) : Host.Outcome State Fault Refusal := act (packetRow 0x6003 q) s
def execPrefetchPlan (q : Pkt) (s : State) : Host.Outcome State Fault Refusal := act (packetRow 0x6004 q) s
def execRegionRegister (q : Pkt) (s : State) : Host.Outcome State Fault Refusal := act (packetRow 0x6005 q) s
def execRegionRelease (q : Pkt) (s : State) : Host.Outcome State Fault Refusal := act (packetRow 0x6006 q) s
def execObjCopy (q : Pkt) (s : State) : Host.Outcome State Fault Refusal := act (packetRow 0x6007 q) s
def execListMerge (q : Pkt) (s : State) : Host.Outcome State Fault Refusal := act (packetRow 0x6008 q) s
def execFabricStatus (q : Pkt) (s : State) : Host.Outcome State Fault Refusal := act (packetRow 0x7001 q) s
def execFabricJoin (q : Pkt) (s : State) : Host.Outcome State Fault Refusal := act (packetRow 0x7002 q) s
def execFabricLeave (q : Pkt) (s : State) : Host.Outcome State Fault Refusal := act (packetRow 0x7003 q) s
def execLinkControl (q : Pkt) (s : State) : Host.Outcome State Fault Refusal := act (packetRow 0x7004 q) s
def execSet (q : Pkt) (s : State) : Host.Outcome State Fault Refusal := act (packetRow 0x8001 q) s
def execGet (q : Pkt) (s : State) : Host.Outcome State Fault Refusal := act (packetRow 0x8002 q) s
def execLogRead (q : Pkt) (s : State) : Host.Outcome State Fault Refusal := act (packetRow 0x9001 q) s
def execCountersRead (q : Pkt) (s : State) : Host.Outcome State Fault Refusal := act (packetRow 0x9002 q) s
def execAlarmAck (q : Pkt) (s : State) : Host.Outcome State Fault Refusal := act (packetRow 0x9003 q) s
def execRoleAssume (q : Pkt) (s : State) : Host.Outcome State Fault Refusal := act (packetRow 0xA001 q) s
def execRoleDrop (q : Pkt) (s : State) : Host.Outcome State Fault Refusal := act (packetRow 0xA002 q) s
def execAttest (q : Pkt) (s : State) : Host.Outcome State Fault Refusal := act (packetRow 0xA003 q) s
def execAuditRead (q : Pkt) (s : State) : Host.Outcome State Fault Refusal := act (packetRow 0xA004 q) s
def execFwStage (q : Pkt) (s : State) : Host.Outcome State Fault Refusal := act (packetRow 0xB001 q) s
def execFwActivate (q : Pkt) (s : State) : Host.Outcome State Fault Refusal := act (packetRow 0xB002 q) s
def execFwStatus (q : Pkt) (s : State) : Host.Outcome State Fault Refusal := act (packetRow 0xB003 q) s
def execAbort (q : Pkt) (s : State) : Host.Outcome State Fault Refusal := act (packetRow 0xC001 q) s
def execTestMode (q : Pkt) (s : State) : Host.Outcome State Fault Refusal := act (packetRow 0xE001 q) s
def execFuseProgram (q : Pkt) (s : State) : Host.Outcome State Fault Refusal := act (packetRow 0xE002 q) s
def execIdentityProvision (q : Pkt) (s : State) : Host.Outcome State Fault Refusal := act (packetRow 0xE003 q) s
def execIdentityRotate (q : Pkt) (s : State) : Host.Outcome State Fault Refusal := act (packetRow 0xE004 q) s
def execDecommission (q : Pkt) (s : State) : Host.Outcome State Fault Refusal := act (packetRow 0xE005 q) s

end Sys2Proof.Machine
end

