-- ==== Sys2Proof/Machine/HostPort.lean ====
section
/-! DEFINITION. The host port: the registers of BAR0, stream bring-up, finding and fetching packets, the BAR2 aperture, interrupts, and losing and
regaining the host (R5, R35–R37, R48–R56, R336–R353, R383). -/

namespace Sys2Proof.Machine

/-- A port's function can be reached: the link is up and the function is in D0 (R350). -/
def State.linked (s : State) (p : Nat) : Bool :=
  decide (p < 8) && s.power.linkUp && (s.port p).d0 && (p == 0 || s.power.vfEnable)
/-- The function may read and write host memory (R350). -/
def State.masters (s : State) (p : Nat) : Bool := s.linked p && (s.port p).busMaster

/-- Host writes that are visible from now on (R49, R51). -/
def hostWrites (hw : List HostWrite) (s : State) : State := { s with posted := s.posted ++ hw.map fun w => ⟨w.addr, w.data⟩ }

def setCmdStream (p st : Nat) (f : CmdStream → CmdStream) (s : State) : State := s.setPort p fun x => { x with cmds := modifyAt x.cmds st f }
def setReplyStream (p t : Nat) (f : ReplyStream → ReplyStream) (s : State) : State := s.setPort p fun x => { x with replies := modifyAt x.replies t f }

/-! ## Stream registers (R37) -/

/-- The area lies in SHARED pages of one region of the port that is in use (R37, R352). -/
def State.sharedArea (s : State) (p base len : Nat) : Bool :=
  s.regions.any fun r => r.holds p base len && !r.suspended && r.owned.all fun k => decide (r.base + k * 4096 + 4096 ≤ base) || decide (base + len ≤ r.base + k * 4096)

/-- Add a bootstrap region of bias SHARED (R37). -/
def addBoot (p number base len : Nat) (s : State) : State :=
  { s with regions := s.regions ++ [{ port := p, number := number, base := base, bytes := len }] }

/-- Where an area being enabled stands: none when it may not be enabled, else whether it takes a bootstrap region (R37). -/
def State.placeStream (s : State) (p : Nat) (zero : Bool) (base len : Nat) : Option Bool :=
  if zero && !(s.regions.any fun r => r.overlaps p base len) then some true
  else if s.sharedArea p base len then some false
  else none

/-- A command stream faults as it is enabled: nothing has been fetched and no record is written (R37). -/
def faultAtEnable (p st cause : Nat) (s : State) : State :=
  setEvents p 4 (setCmdStream p st (fun c => { c with enable := true, state := .faulted, cause := cause }) s)

/-- SEQ starts again with a stream: packets of its earlier life are named by no ABORT any more (R50, R64). -/
def forgetTracked (p st : Nat) (s : State) : State :=
  s.setFrame fun f => { f with tracked := f.tracked.filter fun x => !(x.access == p && x.stream == st) }

/-- CMDs_CTRL.ENABLE is set (R37): HEAD and SEQ start from 0 (R50). On a stream that is enabled or DRAINING the write has no effect. -/
def enableCmd (p st value : Nat) (s : State) : State :=
  match (s.port p).cmds[st]? with
  | none => s
  | some c =>
    if c.state == .draining || c.enable then s
    else
      let s := setCmdStream p st (fun c => { c with poll := bit value 1, reply := bits value 2 2 }) (forgetTracked p st s)
      let run := setCmdStream p st fun c =>
        { c with enable := true, state := .running, cause := 0, head := 0, tail := 0, nextSeq := 0, headMoved := false }
      if c.size = 0 ∨ 4096 < c.size then faultAtEnable p st 6 s
      else match s.placeStream p (st == 0) c.base (c.size * 4096) with
        | some true => run (addBoot p 4094 c.base (c.size * 4096) s)
        | some false => run s
        | none => faultAtEnable p st 1 s

/-- CMDs_CTRL.ENABLE is cleared: DRAINING until every fetched command has its final reply, then DISABLED (R37). -/
def drainCmd (p st value : Nat) (s : State) : State :=
  match (s.port p).cmds[st]? with
  | none => s
  | some c =>
    let s := setCmdStream p st (fun c => { c with poll := bit value 1, reply := bits value 2 2 }) s
    if c.enable then settleStreams p (setCmdStream p st (fun c => { c with enable := false, state := .draining }) s) else s

/-- A port is attached again when link, function and reply stream 0 are ready (R350). -/
def reattach (p : Nat) (s : State) : State :=
  if s.masters p && ((s.port p).replies.getD 0 {}).enable then s.setPort p fun x => { x with attached := true } else s

/-- REPLYt_CTRL.ENABLE is set (R37, R58). -/
def enableReply (p t : Nat) (s : State) : State :=
  match (s.port p).replies[t]? with
  | none => s
  | some r =>
    if r.enable then s
    else
      let run := fun (s : State) => reattach p (setReplyStream p t (fun r => { r with enable := true, stopping := false, tail := 0x40, consumed := 0, seq := 0, reserved := 0 }) s)
      if r.size = 0 ∨ 4096 < r.size then setEvents p 4 s
      else match s.placeStream p (t == 0) r.base (r.size * 4096) with
        | some true => run (addBoot p 4095 r.base (r.size * 4096) s)
        | some false => run s
        | none => setEvents p 4 s

/-- REPLYt_CTRL.ENABLE is cleared: no new reservation, and ENABLE reads 0 once every reserved record is written (R37). -/
def disableReply (p t : Nat) (s : State) : State :=
  match (s.port p).replies[t]? with
  | none => s
  | some r => if r.enable then settleStreams p (setReplyStream p t (fun r => { r with stopping := true }) s) else s

/-! ## MSI-X (R348) -/

/-- Send a vector's message, or leave it pending while it is masked (R348). -/
def sendVector (p v : Nat) (s : State) : State :=
  let e := (s.port p).msix.getD v {}
  let s := s.setPort p fun x => { x with irqStatus := if bit x.irqStatus v then x.irqStatus else x.irqStatus + 2 ^ v }
  if e.masked then s.setPort p fun x => { x with pba := if bit x.pba v then x.pba else x.pba + 2 ^ v }
  else { s with msixSent := s.msixSent ++ [(p, v, e.addr, e.data)] }

/-- The messages of a boundary: one on each vector that is enabled and due from the tick before (R348). -/
def sendDue (p : Nat) (s : State) : State :=
  let x := s.port p
  let s := s.setPort p fun x => { x with due := 0 }
  if s.masters p then (List.range 4).foldl (fun t v => if bit x.irqCtrl v && bit x.due v then sendVector p v t else t) s else s

/-- A vector is unmasked: a pending message is sent (R348). -/
def unmaskVector (p v : Nat) (s : State) : State :=
  if 4 ≤ v then s
  else
    let s := s.setPort p fun x => { x with msix := modifyAt x.msix v fun e => { e with masked := false } }
    if bit (s.port p).pba v then
      let e := (s.port p).msix.getD v {}
      { (s.setPort p fun x => { x with pba := x.pba - 2 ^ v }) with msixSent := s.msixSent ++ [(p, v, e.addr, e.data)] }
    else s

/-! ## BAR0 (R5, R36, R339, R340) -/

/-- Put `n` bytes of `v` at byte `k` of an `w`-byte field. -/
def putField (old w k n v : Nat) : Nat := fld ((slice (leBytes w old) 0 k) ++ leBytes n v ++ (leBytes w old).drop (k + n)) 0 w

/-- A write to a command stream's registers at offset `r` of its 32 bytes: 0 BASE, 8 SIZE, 12 CTRL (R36, R37). -/
def writeCmdReg (p st r n v : Nat) (s : State) : State :=
  let c := (s.port p).cmds.getD st {}
  if r < 8 then
    if c.enable then s else setCmdStream p st (fun c => { c with base := putField c.base 8 r n v / 4096 * 4096 }) s
  else if r < 12 then
    if c.enable then s else setCmdStream p st (fun c => { c with size := putField c.size 4 (r - 8) n v % 65536 }) s
  else if r = 12 then
    if bit v 0 then enableCmd p st v s else drainCmd p st v s
  else s

/-- A write to a reply stream's registers (R36, R37). -/
def writeReplyReg (p t r n v : Nat) (s : State) : State :=
  let c := (s.port p).replies.getD t {}
  if r < 8 then
    if c.enable then s else setReplyStream p t (fun c => { c with base := putField c.base 8 r n v / 4096 * 4096 }) s
  else if r < 12 then
    if c.enable then s else setReplyStream p t (fun c => { c with size := putField c.size 4 (r - 8) n v % 65536 }) s
  else if r = 12 then (if bit v 0 then enableReply p t s else disableReply p t s)
  else s

/-- Clear the bits of a mask that are 1 in `v` (R5, W1C). -/
def clearBits (w a v : Nat) : Nat := (List.range w).foldl (fun t i => t + flag (bit a i && !bit v i) i) 0

/-- A write to the MSI-X table: address, data and vector control of an entry (R339). -/
def writeMsix (p off n v : Nat) (s : State) : State :=
  let e := off / 16
  let r := off % 16
  if r < 8 then s.setPort p fun x => { x with msix := modifyAt x.msix e fun m => { m with addr := putField m.addr 8 r n v } }
  else if r < 12 then s.setPort p fun x => { x with msix := modifyAt x.msix e fun m => { m with data := putField m.data 4 (r - 8) n v } }
  else if r = 12 then
    (if bit v 0 then s.setPort p fun x => { x with msix := modifyAt x.msix e fun m => { m with masked := true } } else unmaskVector p e s)
  else s

/-- A write of `n` bytes to BAR0: each field acts by its access code; RO and RSV ignore it (R5, R36, R339, R340). A write acts on the register at its
offset and on no other, whatever its width (DESIGN CHOICE, log entry 66). -/
def regWrite (p off n v : Nat) (s : State) : State :=
  if off = 0x008 then s.setPort p fun x => { x with events := clearBits 4 x.events v }
  else if off = 0x00C then
    let i := putField (s.port p).pollInterval 4 0 (min n 4) v % 1024
    if 1 ≤ i ∧ i ≤ 1000 then s.setPort p fun x => { x with pollInterval := i } else s
  else if 0x100 ≤ off ∧ off < 0x180 then writeCmdReg p ((off - 0x100) / 32) ((off - 0x100) % 32) n v s
  else if 0x180 ≤ off ∧ off < 0x1C0 then writeReplyReg p ((off - 0x180) / 32) ((off - 0x180) % 32) n v s
  else if 0x1000 ≤ off ∧ off < 0x1040 then writeMsix p (off - 0x1000) n v s
  else if off = 0x2014 then s.setPort p fun x => { x with irqCtrl := v % (if p = 0 then 16 else 8) }
  else if off = 0x2018 then s.setPort p fun x => { x with irqStatus := clearBits 4 x.irqStatus v }
  else s

/-- CMDs_STATE.STATE as it reads (R36). -/
def StreamState.code : StreamState → Nat
  | .disabled => 0 | .running => 1 | .draining => 2 | .faulted => 3

/-- What a 4-byte read of a command stream's registers returns (R36). -/
def readCmdReg (c : CmdStream) (r : Nat) : Nat := match r with
  | 0 => c.base % 2 ^ 32
  | 4 => c.base / 2 ^ 32
  | 8 => c.size
  | 12 => flag c.enable 0 + flag c.poll 1 + 4 * c.reply
  | 16 => c.head
  | 20 => c.state.code + 256 * c.cause
  | _ => 0

/-- What a 4-byte read of a reply stream's registers returns (R36). -/
def readReplyReg (c : ReplyStream) (r : Nat) : Nat := match r with
  | 0 => c.base % 2 ^ 32
  | 4 => c.base / 2 ^ 32
  | 8 => c.size
  | 12 => flag c.enable 0
  | 16 => c.tail
  | _ => 0

/-- What an aligned 4-byte read of BAR0 returns (R5, R36, R339, R340); RSV reads zero. -/
def State.bar0 (s : State) (p off : Nat) : Nat :=
  let x := s.port p
  match off with
  | 0x000 => p + flag (p != 0) 3 + 0xB000 + 0x10000
  | 0x004 => x.role % 4 + flag x.negotiated.isSome 2 + 8 * (s.rights p % 8) + flag (s.overQuota p) 6 + 65536 * x.epoch
  | 0x008 => x.events
  | 0x00C => x.pollInterval
  | 0x010 => s.tick % 2 ^ 32
  | 0x014 => s.tick / 2 ^ 32 % 65536
  | 0x240 => s.pendingCount p
  | 0x1800 => x.pba
  | 0x2000 => s.power.rate + 16 * s.power.width + flag s.power.flit 8 + flag s.power.cxlIo 9 + flag s.power.cxlCache 10
  | 0x2004 => flag x.attached 0 + 2 * x.detachCause + 65536 * x.epoch
  | 0x2008 => x.park.length
  | 0x200C => x.parkPages
  | 0x2010 => x.parkLost
  | 0x2014 => x.irqCtrl
  | 0x2018 => x.irqStatus
  | 0x2020 => x.windowDenied
  | 0x2024 => x.hostDiscard
  | _ =>
    if 0x100 ≤ off ∧ off < 0x180 then readCmdReg (x.cmds.getD ((off - 0x100) / 32) {}) ((off - 0x100) % 32)
    else if 0x180 ≤ off ∧ off < 0x1C0 then readReplyReg (x.replies.getD ((off - 0x180) / 32) {}) ((off - 0x180) % 32)
    else if 0x200 ≤ off ∧ off < 0x230 then
      (if off % 8 = 0 then s.quota p ((off - 0x200) / 8) else if off % 8 = 4 then s.usedOf p ((off - 0x200) / 8) else 0)
    else if 0x1000 ≤ off ∧ off < 0x1040 then
      let e := x.msix.getD ((off - 0x1000) / 16) {}
      match off % 16 with
      | 0 => e.addr % 2 ^ 32
      | 4 => e.addr / 2 ^ 32
      | 8 => e.data
      | 12 => flag e.masked 0
      | _ => 0
    else 0

/-! ## Finding and fetching packets (R48–R52) -/

/-- The host port holds a line Shared while CXL.cache is up and POLL is 0 (R51). -/
def watchLine (p line : Nat) (s : State) : State :=
  s.setPort p fun x =>
    if s.power.cxlCache && (decide (4 ≤ line) || !(x.cmds.getD line {}).poll) && !x.watched.contains line then { x with watched := x.watched ++ [line] } else x

/-- A packet's header fields and parameters (R53). -/
def parsePkt (p st : Nat) (bs : Bytes) : Nat × Pkt :=
  (fld bs 0 2, { access := p, stream := st, archLevel := fld bs 2 1, flags := fld bs 3 1, pktLen := fld bs 4 2, rsv := fld bs 6 2, tag := fld bs 8 4
                 handle := fld bs 12 4, deadline := fld bs 16 4, seq := fld bs 20 4, growth := fld bs 24 8, params := bs.drop 32 })

/-- Where the next packet starts (R48). -/
def nextHead (size pos len : Nat) : Nat := if size < pos + len + 32 then 0x80 else pos + len

/-- Fetch one packet of a stream (R48–R54): false when there is none to fetch, or it waits for a reply record, or the stream has faulted. -/
def fetchOne (p st : Nat) (s : State) : State × Bool :=
  match (s.port p).cmds[st]? with
  | none => (s, false)
  | some c =>
    let size := c.size * 4096
    let pos := max c.head 0x80
    if c.state != .running || c.head == c.tail then (s, false)
    else if c.tail % 16 ≠ 0 ∨ c.tail < 0x80 ∨ size ≤ c.tail then (faultStream p st 4 0 s, false)
    else if pos = c.tail then (s, false)
    else
      let hdr := s.hostView.read (c.base + pos) 32
      let len := 16 * fld hdr 4 2
      if fld hdr 4 2 < 2 ∨ 4096 < fld hdr 4 2 ∨ size < pos + len then (faultStream p st 3 (fld hdr 8 4) s, false)
      else if fld hdr 20 4 ≠ c.nextSeq then (faultStream p st 2 (fld hdr 8 4) s, false)
      else
        let pk := parsePkt p st (s.hostView.read (c.base + pos) len)
        let move := setCmdStream p st fun c => { c with head := nextHead size pos len, headMoved := true }
        if pk.1 = 0 then (track 0 pk.2 (s.port p).epoch (move (noteSeq pk.2 s)), true)
        else if s.recordFree p c.reply then
          let r := reserveRecord pk.2 (move (noteSeq pk.2 s))
          (decodePkt pk.1 pk.2 r.2 .queued r.1, true)
        else (s, false)

/-- Fetch up to `n` packets. -/
def fetchSome (p st : Nat) : (n : Nat) → State → State
  | 0, s => s
  | n + 1, s => let r := fetchOne p st s; if r.2 then fetchSome p st n r.1 else r.1

/-- Packets a stream's area can hold. -/
def CmdStream.most (c : CmdStream) : Nat := c.size * 128

/-- The tail line is read, and every packet up to it is fetched (R51). -/
def readTail (p st : Nat) (s : State) : State :=
  match (s.port p).cmds[st]? with
  | none => s
  | some c =>
    if c.state != .running || !s.masters p then s
    else
      let s := watchLine p st (s.setPower fun w => { w with timeouts := 0 })
      fetchSome p st c.most (setCmdStream p st (fun c => { c with tail := s.hostView.num c.base 4 }) s)

/-- A reply that waits for a record has its turn, oldest first (DEDUCED, log entry 11). -/
def deliverOwed (p : Nat) (s : State) : State :=
  let owed := (s.port p).owed
  owed.foldl (fun t o => deliver p o.1 (t.port p).epoch o.2.1 o.2.2 t) (s.setPort p fun x => { x with owed := [] })

/-- The consumed line is read (R58). -/
def readConsumed (p t : Nat) (s : State) : State :=
  match (s.port p).replies[t]? with
  | none => s
  | some r =>
    if !r.enable || !s.masters p then s
    else
      let s := watchLine p (4 + t) (s.setPower fun w => { w with timeouts := 0 })
      deliverOwed p (setReplyStream p t (fun r => { r with consumed := s.hostView.num r.base 4 }) s)

/-- Every enabled tail and consumed line is read, as at each boundary (R51, R58). -/
def readLines (p : Nat) (s : State) : State :=
  let s := (List.range 2).foldl (fun t i => readConsumed p i t) s
  (List.range 4).foldl (fun t i => readTail p i t) s

/-- A host snoop invalidates a line the device holds: 0–3 tail lines, 4–5 consumed lines, others are plain data; a watched line is read again
(R51, R337). -/
def snooped (p line : Nat) (s : State) : State :=
  if (s.port p).watched.contains line then
    let s := s.setPort p fun x => { x with watched := x.watched.filter fun w => w != line }
    if line < 4 then readTail p line s else readConsumed p (line - 4) s
  else s

/-- The head line of each stream that moved is due in the tail of the tick (R48). -/
def writeHeads (p : Nat) (s : State) : State :=
  (List.range 4).foldl (fun t st =>
    let c := (t.port p).cmds.getD st {}
    if c.headMoved then
      hostPost p ⟨c.base + 0x40, leBytes 4 c.head ++ leBytes 2 (t.port p).epoch ++ zeros 58⟩ (setCmdStream p st (fun c => { c with headMoved := false }) t)
    else t) s

/-! ## Preparation and audit (R56, R383, R407) -/

/-- Is the act of a packet one that R47 audits, so that it waits for its entry? -/
def audited (op : Nat) (q : Pkt) (s : State) : Bool :=
  match op with
  | 0x8001 | 0x5001 | 0x5003 | 0xB001 | 0xB002 | 0x7002 | 0x7003 | 0x7004 => true
  | 0xA001 => fld q.params 0 1 == 1
  | 0xA002 => s.role q.access != 0
  | 0xC001 => fld q.params 0 1 != q.access
  | _ => op / 0x1000 == 0xE

/-- Is an act that R47 audits to be performed, as the state stands: would its command not be refused? A refusal waits for no entry (R47). -/
def performs (c : Cmd) (s : State) : Bool :=
  (handleBad c.op c.q s <|> paramsBad c.op c.q s).isNone && match c.op with
    | 0x8001 => (settingOutcome c.q s).isNone
    | 0x5001 => (loadRefused c.q s).isNone
    | 0x5003 => (s.loaded (handleSlot c.q.handle)).isSome
    | 0x7002 => !joinRefused c.q s
    | 0xA001 => s.mgmt.lockout.isNone && !roleTaken c.q s && answerGood c.q s
    | 0xB001 => (fwStageRefused c.q s).isNone
    | 0xB002 => !fwActivateRefused c.q s
    | 0xC001 => (s.abortTarget c.q).any fun t => t.op != 0xC001 && t.q.tag == fld c.q.params 8 4
    | 0xE003 => s.mgmt.identity.isNone
    | _ => true

/-- What preparation rejects before it reserves: an INSERT on an index that a BULK_LOAD fills, or with a vector that the index's form cannot hold
(R144, R159). -/
def preparationBad (c : Cmd) (s : State) : Option Final :=
  if c.op = 0x3002 then match s.ingest c with
    | some (_, x) => if x.loading then some (badParam0 2) else insertRefused c.q x (insertRows c.q x s)
    | none => none
  else none

/-- The Control Bar has prepared the command that it took: it goes to the frame sequencer, or waits for its audit entry, or is rejected; GET_TICK
answers now (R56, R144, R407). The Control Bar takes the next one, ABORTs first and the rest in order of arrival (R56). -/
def prepare (id : Nat) (s : State) : State :=
  match s.cmd id with
  | none => s
  | some c =>
    if c.state != .queued then s
    else if c.op = 0x0004 then takeHold (s.setCmd id fun d => { d with state := .ready }) id
    else match preparationBad c s with
      | some f => finish c f s
      | none =>
        if c.op = 0x3002 then prepareInsert c s
        else if audited c.op c.q s && performs c s then
          (s.setCmd id fun d => { d with state := .auditing }).setMgmt fun m => { m with auditPending := m.auditPending ++ [id] }
        else s.setCmd id fun d => { d with state := .ready }

/-- PREPARATION_COMPLETE: the command that the Control Bar had taken is prepared, and it takes the next (R56). No other command's preparation can end. -/
def prepared (id : Nat) (s : State) : State :=
  let s := s.takeNext
  if s.frame.preparing = some id then (prepare id (s.setFrame fun f => { f with preparing := none })).takeNext else s

/-- The oldest audit entry being programmed is durable, or has failed (R47, R383). -/
def auditDurable (ok : Bool) (s : State) : State :=
  match s.mgmt.auditPending with
  | [] => s
  | id :: rest =>
    let s := s.setMgmt fun m => { m with auditPending := rest }
    match s.cmd id with
    | none => s
    | some c =>
      if c.state != .auditing then s
      else if ok then s.setCmd id fun d => { d with state := .ready }
      else finish c (badRole 0x8000) s

/-! ## The aperture (R344–R346) -/

/-- Does a window permit a requester (R345)? -/
def Window.permits (w : Window) (requester : Nat) : Bool := w.requesters.any fun e => Nat.land requester e.2 == Nat.land e.1 e.2

/-- A discarded aperture write: counted, and logged under AER (R345). -/
def denied (p : Nat) (s : State) : State :=
  s.setPort p fun x => { x with windowDenied := min (x.windowDenied + 1) 0xFFFFFFFF, advisory := true }

/-- A write to BAR2: into the window's object, or discarded and counted (R344, R345). -/
def apertureWritten (p requester : Nat) (memory : Bool) (off : Nat) (bs : Bytes) (s : State) : State :=
  if !s.linked p || bs.isEmpty then s
  else match s.windows.find? fun w => w.port == p && decide (w.aperture ≤ off) && decide (off + bs.length ≤ w.aperture + w.bytes) with
    | some w =>
      if memory && w.permits requester then s.writeObj w.object (w.base + (off - w.aperture)) bs
      else denied p s
    | none => denied p s

/-- A read of BAR2 completes with zeros once earlier writes of the requester are applied; every accepted write is applied at once here, so nothing
is left to change (R345). -/
def apertureBytes (len : Nat) : Bytes := zeros len

/-! ## Losing the host (R35, R44, R349–R352) -/

/-- The next attach epoch, 0 being skipped (R349). -/
def nextEpoch (e : Nat) : Nat := if (e + 1) % 65536 = 0 then 1 else (e + 1) % 65536

/-- Cause under R44 of a role lost with a detach: 3 a reset of the port or host, 4 another advance of the epoch. -/
def lossCause (cause : Nat) : Nat := if cause ≤ 3 then 3 else 4

/-- A port detaches (R349, R351, R352): its replies in hand go to the park store, its regions are suspended, its streams reset. -/
def detach (cause p : Nat) (s : State) : State :=
  let old := (s.port p).owed
  let s := s.setPort p fun x => { x with
    epoch := nextEpoch x.epoch, attached := false, detachCause := cause, cmds := List.replicate 4 {}, replies := List.replicate 2 {}
    irqCtrl := 0, watched := [], negotiated := none, owed := []
    roleLoss := if x.role = 0 then x.roleLoss else some (lossCause cause) }
  let s := setEvents p 8 s
  let s := old.foldl (fun t o => parkReply p o.2.2 t) s
  let s := dropBoot p 4095 (dropBoot p 4094 s)
  event 6 "DETACH" p cause { s with regions := modifyIf s.regions (fun r => r.port == p) fun r => { r with suspended := true } }

/-- Several ports detach. -/
def detachAll (cause : Nat) (ps : List Nat) (s : State) : State := ps.foldl (fun t p => detach cause p t) s

/-- The host link goes down (R349 CAUSE 1, R399). -/
def linkDown (s : State) : State :=
  if s.power.linkUp then
    detachAll 1 (List.range 8) (s.setPower fun w => { w with linkUp := false, cxlIo := false, cxlCache := false, timeouts := 0 })
  else s

/-- PERST# goes low; with `pin` false a hot reset or link down (R349). -/
def perst (pin : Bool) (s : State) : State :=
  if pin then
    (if s.power.perstN then
      detachAll 1 (List.range 8) (s.setPower fun w => { w with perstN := false, linkUp := false, cxlIo := false, cxlCache := false, timeouts := 0 })
    else s)
  else linkDown s

/-- A completion timeout on a read of host memory; the third in a row detaches every port (R349). -/
def timedOut (s : State) : State :=
  if 2 ≤ s.power.timeouts then detachAll 5 (List.range 8) (s.setPower fun w => { w with timeouts := 0 })
  else s.setPower fun w => { w with timeouts := w.timeouts + 1 }

/-- The link reaches L0 again (R340, R350, R399): PERST# must be high, and training needs the reference clock. CXL needs flit mode (R336). -/
def linkRises (rate width : Nat) (flit io cache : Bool) (s : State) : State :=
  if !s.power.perstN || s.power.linkUp || rate = 0 || decide (3 < rate) || width = 0 || decide (8 < width) then s
  else
    let s := s.setPower fun w => { w with
      linkUp := true, refclk := true, rate := rate, width := width, flit := flit || decide (2 ≤ rate), cxlIo := io && (flit || decide (2 ≤ rate))
      cxlCache := cache && io && (flit || decide (2 ≤ rate)), timeouts := 0 }
    (List.range 8).foldl (fun t p => reattach p t) s

/-- The host sets Bus Master Enable (0), returns the function to D0 (1), or sets VF Enable (2) (R350). -/
def functionReady (p what : Nat) (s : State) : State :=
  match what with
  | 0 => reattach p (s.setPort p fun x => { x with busMaster := true })
  | 1 => reattach p (s.setPort p fun x => { x with d0 := true })
  | _ => (List.range 8).foldl (fun t i => reattach i t) (s.setPower fun w => { w with vfEnable := true })

/-- Bus Master Enable is cleared, or the function enters D3hot (R349). -/
def functionStops (p : Nat) (d3 : Bool) (s : State) : State :=
  if 8 ≤ p ∨ (if d3 then (s.port p).d0 else (s.port p).busMaster) = false then s
  else detach 4 p (s.setPort p fun x => if d3 then { x with d0 := false } else { x with busMaster := false })

/-! ## The rows -/

def execCmdStreamEnable (port stream value : Nat) (s : State) : Host.Outcome State Fault Refusal :=
  act (whenUp fun s => if s.linked port then enableCmd port stream value s else s) s
def execCmdStreamDrain (port stream value : Nat) (s : State) : Host.Outcome State Fault Refusal :=
  act (whenUp fun s => if s.linked port then drainCmd port stream value s else s) s
def execReplyStreamEnable (port stream value : Nat) (s : State) : Host.Outcome State Fault Refusal :=
  act (whenUp fun s => if s.linked port && bit value 0 then enableReply port stream s else s) s
def execReplyStreamDisable (port stream value : Nat) (s : State) : Host.Outcome State Fault Refusal :=
  act (whenUp fun s => if s.linked port && !bit value 0 then disableReply port stream s else s) s
def execRegisterWrite (port offset size value : Nat) (s : State) : Host.Outcome State Fault Refusal :=
  act (whenUp fun s => if s.linked port then regWrite port offset size value s else s) s
def execMsixUnmask (port vector : Nat) (s : State) : Host.Outcome State Fault Refusal :=
  act (whenUp fun s => if s.linked port then unmaskVector port vector s else s) s
def execSnoopInvalidate (port line : Nat) (hw : List HostWrite) (s : State) : Host.Outcome State Fault Refusal :=
  act (whenUp fun s => snooped port line (hostWrites hw s)) s
def execTailPoll (port : Nat) (reply : Bool) (stream : Nat) (hw : List HostWrite) (s : State) : Host.Outcome State Fault Refusal :=
  act (whenUp fun s => let s := hostWrites hw s; if reply then readConsumed port stream s else readTail port stream s) s
def execStreamFault (port stream cause tag : Nat) (s : State) : Host.Outcome State Fault Refusal :=
  act (whenUp (faultStream port stream cause tag)) s
def execReserveReplyRecord (port stream : Nat) (hw : List HostWrite) (s : State) : Host.Outcome State Fault Refusal :=
  act (whenUp fun s => let s := hostWrites hw s; if s.masters port then fetchSome port stream 1 s else s) s
def execApertureWrite (port requester : Nat) (memory : Bool) (offset : Nat) (data : Bytes) (s : State) : Host.Outcome State Fault Refusal :=
  act (whenUp (apertureWritten port requester memory offset data)) s
def execApertureRead (_port _requester _offset _len : Nat) (s : State) : Host.Outcome State Fault Refusal := act (whenUp id) s
def execPerstNAssert (pin : Bool) (s : State) : Host.Outcome State Fault Refusal :=
  act (fun s => if s.up then perst pin s else s.setPower fun w => if pin then { w with perstN := false } else w) s
def execPerstNDeassert (refclk : Bool) (s : State) : Host.Outcome State Fault Refusal :=
  act (fun s => s.setPower fun w => { w with perstN := true, refclk := refclk }) s
def execFunctionLevelReset (port : Nat) (s : State) : Host.Outcome State Fault Refusal :=
  act (whenUp fun s => if s.linked port && port == 0 then detachAll 2 (List.range 8) s else if s.linked port then detach 3 port s else s) s
def execVfEnableClear (s : State) : Host.Outcome State Fault Refusal :=
  act (whenUp fun s => if s.power.vfEnable then detachAll 2 [1, 2, 3, 4, 5, 6, 7] (s.setPower fun w => { w with vfEnable := false }) else s) s
def execBusMasterEnableClear (port : Nat) (d3 : Bool) (s : State) : Host.Outcome State Fault Refusal := act (whenUp (functionStops port d3)) s
def execCompletionTimeout (s : State) : Host.Outcome State Fault Refusal := act (whenUp timedOut) s
def execHostRefclkLoss (s : State) : Host.Outcome State Fault Refusal :=
  act (whenUp fun s => linkDown (s.setPower fun w => { w with refclk := false })) s
def execPreparationComplete (id : Nat) (s : State) : Host.Outcome State Fault Refusal := act (whenUp (prepared id)) s
def execAuditEntryDurable (ok : Bool) (s : State) : Host.Outcome State Fault Refusal := act (whenUp (auditDurable ok)) s
def execHostLinkUp (rate width : Nat) (flit cxlIo cxlCache : Bool) (s : State) : Host.Outcome State Fault Refusal :=
  act (whenUp (linkRises rate width flit cxlIo cxlCache)) s
def execBusMasterEnableSet (port what : Nat) (s : State) : Host.Outcome State Fault Refusal := act (whenUp (functionReady port what)) s
def execCxlCacheDisabled (s : State) : Host.Outcome State Fault Refusal :=
  act (whenUp fun s => { (s.setPower fun w => { w with cxlCache := false }) with ports := s.ports.map fun x => { x with watched := [] } }) s

end Sys2Proof.Machine
end

