-- ==== Sys2Proof/Machine/Jobs.lean ====
section
/-! DEFINITION. Jobs: their slices at a boundary, their allowances and their stall counters (R26, R149, R160, R247, R259, R289, R292, R353). -/

namespace Sys2Proof.Machine

/-- Merge jobs of the shards here: one begins when maintenance is due and ends when there is none (R149). -/
def mergeJobs (s : State) : State :=
  s.indexes.foldl (fun s x =>
    let busy := !x.freed && ((x.shard.map Shard.busy).getD false)
    let has := s.jobs.any fun j => j.kind == .mergeIndex x.num
    if busy && !has then
      { s with jobs := s.jobs ++ [{ id := s.freshJob, kind := .mergeIndex x.num, cmd := none, port := x.owner }], nextJob := s.freshJob + 1 }
    else if has && !busy then
      let gone := s.jobs.filter fun j => j.kind == .mergeIndex x.num
      gone.foldl (fun s j => clearAlarm 0x004 j.id s) { s with jobs := s.jobs.filter fun j => j.kind != .mergeIndex x.num }
    else s) s

/-- Walk capacity left to a slice in this tick (R21, R23). -/
def State.hopsLeft (s : State) : Nat := s.localCapacity .hops - s.chargedAt s.tick .hops

/-- Side-list entries of a shard that a slice would merge, not skip (R150): deletions take hold only at boundaries. -/
def State.mergeable (s : State) (x : Index) (sh : Shard) : Nat :=
  (sh.positions.filter fun p => !s.sideDeleted x sh p && !s.tombed sh (s.sideRec x sh p).slot).length

/-- The slice of a shard's maintenance: its insertions, and the hops left for it. It is charged for the entries that it will merge (R149, R150).
MERGE_SLICE runs it. -/
def mergeAllow (num : Nat) (s : State) : State :=
  match s.index num with
  | none => s
  | some x => match x.shard with
    | none => s
    | some sh =>
      let n := s.hopsLeft / max 1 sh.hopCharge
      chargeNow [(.hops, min (min sh.allowance (s.mergeable x sh)) n * sh.hopCharge)] (s.setShard num fun h => { h with slice := some (h.allowance, n * h.hopCharge) })

/-- The pages a page job may move in this tick; PAGE_COPY moves them (R26, R289, R280). -/
def pageAllow (j : Job) (want : Nat) (s : State) : State :=
  let n := min want (s.uncharged s.tick .pages)
  chargeNow [(.pages, n)] (s.setJob j.id fun x => { x with phase := n, progressed := want == 0 })

/-- The bytes a routing table takes when an OBJ_COPY onto it is complete (R160). -/
def routeBytes (x : Index) (src so d n port : Nat) (s : State) : Bytes :=
  let old := s.readObj x.route 0 (x.count * x.routeEntry)
  let bs := if src = 0 then (if s.reachable port so n then s.hostView.read so n else slice old d n) else s.readObj src so n
  slice (slice old 0 d ++ bs ++ old.drop (d + n)) 0 old.length

/-- A slice of an OBJ_COPY: whole spans, each one page of migration capacity; a routing table is written whole when the copy is complete, and takes
effect at the next boundary (R160, R292). -/
def copySlice (j : Job) (s : State) : State :=
  let a := fun i => j.args.getD i 0
  let n := a 4
  let want := ceilDiv (n - j.cursor) 65536
  let spans := min want (s.uncharged s.tick .pages)
  match s.routeOf (a 1), j.cmd with
  | some x, some id =>
    let cur := min n (j.cursor + 65536 * spans)
    let s := chargeNow [(.pages, spans)] s
    if cur < n then s.setJob j.id fun y => { y with cursor := cur, progressed := decide (0 < spans) }
    else { s with jobs := s.jobs.filter fun y => y.id != j.id } |>.setIndex x.num fun y =>
      { y with routeStaged := some (routeBytes x (a 0) (a 2) (a 3) n j.port s, some id) }
  | _, _ => match j.cmd.bind s.cmd with
    | none => { s with jobs := s.jobs.filter fun y => y.id != j.id }
    | some c =>
      let r := copySpans c (a 0) (a 1) (a 2) (a 3) n spans j.cursor s
      let s := chargeNow [(.pages, ceilDiv (r.2 - j.cursor) 65536)] r.1
      if r.2 < n then s.setJob j.id fun y => { y with cursor := r.2, progressed := decide (j.cursor < r.2) }
      else finish c (okDone (n % 2 ^ 32)) { s with jobs := s.jobs.filter fun y => y.id != j.id }

/-- A slice of a BULK_LOAD, with the walk capacity its links take (R159). -/
def loadJobSlice (j : Job) (num : Nat) (s : State) : State :=
  let links := match s.index num with
    | some x => if j.phase = 1 then min (min (j.args.getD 1 0) (x.loadRecs.length - j.cursor)) (s.hopsLeft / max 1 (j.args.getD 4 1)) else 0
    | none => 0
  let hops := links * max 1 (j.args.getD 4 1)
  loadSlice j hops (chargeNow [(.hops, hops)] s)

/-- One job's slice of this tick (R26). -/
def jobSlice (fresh : Nat) (s : State) (id : Nat) : State :=
  match s.jobs.find? fun j => j.id == id with
  | none => s
  | some j =>
    -- the first slice of a REDELIVER ran as it took hold (R353)
    if j.kind == .redeliver && decide (fresh ≤ j.id) then s
    else
      let s := s.setJob id fun x => { x with progressed := false }
      match j.kind with
      | .mergeIndex num => mergeAllow num s
      | .bulkLoad num => loadJobSlice j num s
      | .copy => copySlice j s
      | .migrate num => pageAllow j ((((s.obj num).bind Obj.migration).map fun m => m.left.length).getD 0) s
      | .fillTable num =>
        let left := match s.tables.find? fun t => t.num == num with
          | some t => t.pagesHere.1 + t.pagesHere.2 - j.cursor
          | none => 0
        let n := min left (s.uncharged s.tick .pages)
        fillSlice j num n (chargeNow [(.pages, n)] s)
      | .rowUpdate => updSlice j s
      | .redeliver => redeliverSlice j s
      | .prefetch => match j.cmd.bind s.cmd with
        | some c => pageAllow j (planReady c j s.tick) s
        | none => { s with jobs := s.jobs.filter fun x => x.id != id }

/-- Stall counters at a boundary: a tick without progress advances them, progress clears them and the alarm (R26). -/
def stallCount (s : State) (id : Nat) : State :=
  match s.jobs.find? fun j => j.id == id with
  | none => s
  | some j =>
    if j.progressed then clearAlarm 0x004 id (s.setJob id fun x => { x with stall := 0 })
    else
      let s := s.setJob id fun x => { x with stall := min 255 (x.stall + 1) }
      if 254 ≤ j.stall then raiseAlarm 0x004 id s else s

/-- JOB_STALLED: a job without progress for 255 ticks raises its alarm and keeps waiting (R26). -/
def jobStalled (id : Nat) (s : State) : State :=
  match s.jobs.find? fun j => j.id == id with
  | some j => if 255 ≤ j.stall then raiseAlarm 0x004 id s else s
  | none => s

def execJobStalled (job : Nat) (s : State) : Host.Outcome State Fault Refusal := act (whenUp (jobStalled job)) s

/-- MERGE_SLICE: the slice runs; its job has progressed when it changed its shard (R26, R150). -/
def mergeSlice (num shard : Nat) (s : State) : State :=
  let t := runSlice num shard s
  let work := fun (s : State) => ((s.index num).bind Index.shard).map fun (h : Shard) => { h with ran := true }
  if work t == work s then t
  else { t with jobs := t.jobs.map fun j => if j.kind == .mergeIndex num then { j with progressed := true } else j }

def execMergeSlice (index shard : Nat) (s : State) : Host.Outcome State Fault Refusal := act (whenUp (mergeSlice index shard)) s

/-- Slices of a boundary, in order of job creation (R26). `fresh` is the first job created at this boundary. -/
def jobSlices (fresh : Nat) (s : State) : State :=
  let s := (s.jobs.map Job.id).foldl stallCount s
  let s := mergeJobs s
  (s.jobs.map Job.id).foldl (jobSlice fresh) s

/-- The cut-off ends the slices of page jobs (R18, R24). -/
def pageJobsCutOff (s : State) : State :=
  { s with jobs := s.jobs.map fun j => match j.kind with
      | .migrate _ | .prefetch => { j with phase := 0 }
      | _ => j }

end Sys2Proof.Machine
end

