-- ==== Sys2Proof/Machine/Mgmt.lean ====
section
/-! DEFINITION. The management core's own events: coalescing windows, the end of a lockout, telemetry, MCTP and SPDM, and the end of a flash job
(R42, R368, R374, R380, R387, R388, R391). -/

namespace Sys2Proof.Machine

/-! ## Coalescing windows (R387) -/

/-- Forget a window. -/
def dropWindow (w : EventWindow) (s : State) : State :=
  s.setMgmt fun m => { m with windows := m.windows.filter fun x => !(x.code == w.code && x.subject == w.subject && x.opened == w.opened) }

/-- A window closes: one COALESCED record of its repeats, which waits for the next tick while its class's limit is spent; a window without repeats
writes none (R387). -/
def closeWindow (s : State) (w : EventWindow) : State :=
  let cls := w.code / 4096
  if w.repeats = 0 then dropWindow w s
  else if cls ≠ 0 ∧ s.logLimit cls ≤ s.mgmt.classNow.getD cls 0 then s.setMgmt fun m => { m with
    windows := modifyIf m.windows (fun x => x.code == w.code && x.subject == w.subject && x.opened == w.opened) fun x => { x with closing := true } }
  else putRecord cls (w.code % 4096) 1 w.port w.repeats w.first w.last w.subject [] (dropWindow w s)

/-- Has the window run its length? -/
def State.windowDue (s : State) (w : EventWindow) : Bool := decide (w.opened + w.length ≤ s.tick)

/-- Windows that wait for their record or have run their length, in the order they opened: what a boundary closes. -/
def closeWindows (s : State) : State := (s.mgmt.windows.filter fun w => w.closing || s.windowDue w).foldl closeWindow s

def execCoalesceWindowClose (code subject : Nat) (s : State) : Host.Outcome State Fault Refusal :=
  act (whenUp fun s => (s.mgmt.windows.filter fun w => w.code == code && w.subject == subject && s.windowDue w).foldl closeWindow s) s

/-! ## The lockout (R42) -/

/-- The lockout ends within the current tick or before: ROLE_ASSUME is open again, the alarm clears, and the end is audited (R42, R47, R388). No
command stands behind the entry: it carries the management port's number and role, TAG 0 and SEQ 0 (DESIGN CHOICE, log entry 76). -/
def lockoutEnded (s : State) : State :=
  match s.mgmt.lockout with
  | some t =>
    if t ≤ s.frame.elapsed + s.period then
      clearAlarm 0x001 0 (auditWrite 3 0 8 (s.role 8) 0 0 (afield 4) (s.setMgmt fun m => { m with lockout := none, failedAnswers := 0 }))
    else s
  | none => s

def execLockoutEnd (s : State) : Host.Outcome State Fault Refusal := act (whenUp lockoutEnded) s

/-! ## Telemetry (R390, R391, R402) -/

/-- The readings of one sampling: Control Bar and management core load in 1/1,024, four tile and the hub temperatures in 0.1 °C, input voltage in mV,
input power in mW. A reading that is not given stays as it was. -/
def telemetrySampled (r : List Nat) (s : State) : State :=
  let m := s.mgmt
  let temps := (List.range 5).map fun i => r.getD (2 + i) (m.dieTemps.getD i 0)
  let mv := r.getD 7 m.vinMv
  alertPin (s.setMgmt fun m => { m with
    cbLoad := r.getD 0 m.cbLoad
    mgmtLoad := r.getD 1 m.mgmtLoad
    dieTemps := temps
    vinMv := mv
    vinMw := r.getD 8 m.vinMw
    dieHot := (List.range 5).map fun i => decide (1000 ≤ temps.getD i 0) || (m.dieHot.getD i false && decide (950 ≤ temps.getD i 0))
    vinLow := decide (mv < 46000) || (m.vinLow && decide (mv < 47000))
    vinHigh := decide (58000 < mv) || (m.vinHigh && decide (57000 < mv)) })

def execTelemetrySample (readings : List Nat) (s : State) : Host.Outcome State Fault Refusal := act (whenUp (telemetrySampled readings)) s

/-- What a boundary makes of the loads: the sampling period doubles or returns (R391), and the alarm of a saturated Control Bar clears after 64 ticks
below 900/1,024 (R388). -/
def loadBoundary (s : State) : State :=
  let m := s.mgmt
  let heavy := decide (920 < m.cbLoad) || decide (768 < m.mgmtLoad)
  let light := if m.cbLoad < 614 ∧ m.mgmtLoad < 512 then min (m.lightTicks + 1) 64 else 0
  let calm := if m.cbLoad < 900 then min (m.calmTicks + 1) 64 else 0
  let halved := heavy || (m.halved && decide (light < 64))
  let s := s.setMgmt fun m => { m with
    telemetryHalved := if m.halved then satAdd m.telemetryHalved 1 else m.telemetryHalved
    halved := halved
    lightTicks := if halved then light else 0
    calmTicks := calm }
  if calm = 64 then clearAlarm 0x00F 0 s else s

def execControlBarSaturated (s : State) : Host.Outcome State Fault Refusal :=
  act (whenUp fun s => raiseAlarm 0x00F 0 (s.setMgmt fun m => { m with calmTicks := 0 })) s

/-! ## The management bus (R368) -/

/-- Send a message on an MCTP endpoint, or over DOE. -/
def sendMessage (via typ : Nat) (bs : Bytes) (s : State) : State := s.setMgmt fun m => { m with responses := m.responses ++ [⟨via, typ, bs⟩] }

/-- An MCTP control request and its answer, by DMTF DSP0236, which the manual names no further (R368, PRESUMED, log entry 23): Set and Get Endpoint ID, Get MCTP
Version Support and Get Message Type Support; any other request is answered ERROR_UNSUPPORTED_CMD. -/
def mctpControlled (ep : Nat) (msg : Bytes) (s : State) : State :=
  let b1 := fld msg 1 1
  if b1 / 128 = 0 then s
  else
    let head := fun (cc : Nat) => leBytes 1 0 ++ leBytes 1 (b1 % 32) ++ leBytes 1 (fld msg 2 1) ++ leBytes 1 cc
    match fld msg 2 1 with
    | 1 =>
      let e := fld msg 4 1
      let ok := decide (fld msg 3 1 % 4 ≤ 1) && decide (8 ≤ e) && decide (e < 255)
      if ok then sendMessage ep 0 (head 0 ++ leBytes 1 0 ++ leBytes 1 e ++ leBytes 1 0) (s.setMgmt fun m => { m with eid := e })
      else sendMessage ep 0 (head 2) s
    | 2 => sendMessage ep 0 (head 0 ++ leBytes 1 s.mgmt.eid ++ leBytes 1 0 ++ leBytes 1 0) s
    | 4 => sendMessage ep 0 (head 0 ++ leBytes 1 1 ++ leBytes 4 0x00F3F1F1) s
    | 5 => sendMessage ep 0 (head 0 ++ leBytes 1 3 ++ leBytes 1 0 ++ leBytes 1 5 ++ leBytes 1 0x7E) s
    | _ => sendMessage ep 0 (head 5) s

def execMctpControl (endpoint : Nat) (msg : Bytes) (s : State) : Host.Outcome State Fault Refusal := act (whenServed (mctpControlled endpoint msg)) s

/-- A message of a type the module does not accept is discarded and counted (R368). -/
def execDiscardedMctpMessage (typ : Nat) (s : State) : Host.Outcome State Fault Refusal :=
  act (whenServed fun s => if typ == 0 || typ == 5 || typ == 0x7E then s else s.setMgmt fun m => { m with badMsg := satAdd m.badMsg 1 }) s

def execDynamicAddressAssignment (addr : Nat) (s : State) : Host.Outcome State Fault Refusal :=
  act (whenServed (fun s => s.setMgmt fun m => { m with dynAddr := addr % 128 })) s

/-! ## SPDM 1.2 responder (R380)

The message layouts are DMTF DSP0274's, which the manual names and does not repeat (PRESUMED, log entry 24). -/

def State.spdmAt (s : State) (via : Nat) : Spdm := (s.mgmt.spdm.find? fun x => x.via == via).getD { via := via }
def setSpdm (x : Spdm) (s : State) : State := s.setMgmt fun m => { m with spdm := m.spdm.filter (fun y => y.via != x.via) ++ [x] }

/-- Answer on the transport the request came by. -/
def spdmAnswer (via : Nat) (bs : Bytes) (s : State) : State := sendMessage via 5 bs s
/-- An SPDM ERROR message. -/
def spdmError (via code data : Nat) (s : State) : State := spdmAnswer via (leBytes 1 0x12 ++ leBytes 1 0x7F ++ leBytes 1 code ++ leBytes 1 data) s
/-- ERROR UnsupportedRequest, naming the request (R380). -/
def spdmUnsupported (via : Nat) (msg : Bytes) (s : State) : State := spdmError via 7 (fld msg 1 1) s

/-- Does the transport answer: DOE needs the host link, MCTP the management port (R367, R380)? -/
def State.spdmUp (s : State) (via : Nat) : Bool := if via = 0x100 then s.power.linkUp else true

/-- A request that DSP0274 allows only once algorithms are settled. -/
def spdmAfter (via : Nat) (stage : Nat) (f : Spdm → State → State) (s : State) : State :=
  let x := s.spdmAt via
  if !s.spdmUp via then s else if x.stage < stage then spdmError via 4 0 s else f x s

/-- GET_VERSION: version 1.2, and the exchange begins anew. -/
def spdmVersion (via : Nat) (msg : Bytes) (s : State) : State :=
  if !s.spdmUp via then s
  else
    let r := [0x10, 0x04, 0, 0, 0, 1, 0, 0x12].flatMap (leBytes 1)
    spdmAnswer via r (setSpdm { via := via, stage := 1, vca := msg ++ r } s)

/-- GET_CAPABILITIES: certificates, challenge, and measurements with signature; the response time exponent and the transfer sizes are open. -/
def spdmCapabilities (via : Nat) (msg : Bytes) : State → State :=
  spdmAfter via 1 fun x s =>
    let r := leBytes 1 0x12 ++ leBytes 1 0x61 ++ zeros 3 ++ slice (Config.deviceBytes "SPDM CTExponent" 1) 0 1 ++ zeros 2 ++ leBytes 4 0x16
      ++ slice (Config.deviceBytes "SPDM sizes" 8) 0 8
    spdmAnswer via r (setSpdm { x with stage := 2, vca := x.vca ++ msg ++ r } s)

/-- NEGOTIATE_ALGORITHMS: RSASSA-PSS 3072 and SHA-384 (R380). -/
def spdmAlgorithms (via : Nat) (msg : Bytes) : State → State :=
  spdmAfter via 2 fun x s =>
    let r := leBytes 1 0x12 ++ leBytes 1 0x63 ++ zeros 2 ++ leBytes 2 36 ++ leBytes 1 1 ++ zeros 1 ++ leBytes 4 4 ++ leBytes 4 8 ++ leBytes 4 2 ++ zeros 16
    spdmAnswer via r (setSpdm { x with stage := 3, vca := x.vca ++ msg ++ r } s)

/-- GET_DIGESTS: slot 0 alone is populated (R380). -/
def spdmDigests (via : Nat) (msg : Bytes) : State → State :=
  spdmAfter via 3 fun x s =>
    let r := leBytes 1 0x12 ++ leBytes 1 1 ++ zeros 1 ++ leBytes 1 1 ++ sha384 s.mgmt.chain
    spdmAnswer via r (setSpdm { x with certs := x.certs ++ msg ++ r } s)

/-- GET_CERTIFICATE: a portion of slot 0's chain. -/
def spdmCertificate (via : Nat) (msg : Bytes) : State → State :=
  spdmAfter via 3 fun x s =>
    let chain := s.mgmt.chain
    let off := fld msg 4 2
    if fld msg 2 1 % 16 ≠ 0 ∨ chain.length ≤ off then spdmError via 1 0 s
    else
      let n := min (fld msg 6 2) (chain.length - off)
      let r := leBytes 1 0x12 ++ leBytes 1 2 ++ zeros 2 ++ leBytes 2 n ++ leBytes 2 (chain.length - off - n) ++ slice chain off n
      spdmAnswer via r (setSpdm { x with certs := x.certs ++ msg ++ r } s)

/-- One measurement as a 48-byte digest block (R380); its value type is open. -/
def spdmBlock (s : State) (i : Nat) : Bytes :=
  leBytes 1 i ++ leBytes 1 1 ++ leBytes 2 51 ++ slice (Config.deviceBytes "SPDM value type" i) 0 1 ++ leBytes 2 48 ++ slice ((measurements s).getD (i - 1) []) 0 48

/-- All measurement blocks, 1 to 6. -/
def spdmBlocks (s : State) : Bytes := (List.range 6).flatMap fun i => spdmBlock s (i + 1)

/-- The responder's RSA signature over what the exchange has carried (R371, R380). -/
def spdmSign (msg : Bytes) (s : State) : Bytes := slice (Config.rsaSign s.identityDigest msg) 0 384

/-- A responder's 32-byte nonce. -/
def spdmNonce (s : State) : Bytes := leBytes 32 (Config.nonce s.free).toNat

/-- CHALLENGE: answered with an RSA signature; of measurement summaries only the full one is served (R380). -/
def spdmChallenge (via : Nat) (msg : Bytes) : State → State :=
  spdmAfter via 3 fun x s =>
    let kind := fld msg 3 1
    if fld msg 2 1 ≠ 0 then spdmError via 1 0 s
    else if kind ≠ 0 ∧ kind ≠ 0xFF then spdmUnsupported via msg s
    else
      let body := leBytes 1 0x12 ++ leBytes 1 3 ++ leBytes 1 0 ++ leBytes 1 1 ++ sha384 s.mgmt.chain ++ spdmNonce s
        ++ (if kind = 0xFF then sha384 (spdmBlocks s) else []) ++ zeros 2
      let r := body ++ spdmSign (x.vca ++ x.certs ++ msg ++ body) s
      spdmAnswer via r (setSpdm { x with certs := [] } { s with free := s.free + 1 })

/-- GET_MEASUREMENTS: their number, all of them, or one; signed when the request asks for it (R380). -/
def spdmMeasurements (via : Nat) (msg : Bytes) : State → State :=
  spdmAfter via 3 fun x s =>
    let op := fld msg 3 1
    let signed := bit (fld msg 2 1) 0
    if 6 < op ∧ op ≠ 0xFF then spdmError via 1 0 s
    else
      let rec_ := if op = 0 then [] else if op = 0xFF then spdmBlocks s else spdmBlock s op
      let body := leBytes 1 0x12 ++ leBytes 1 0x60 ++ leBytes 1 (if op = 0 then 6 else 0) ++ zeros 1
        ++ leBytes 1 (if op = 0 then 0 else if op = 0xFF then 6 else 1) ++ leBytes 3 rec_.length ++ rec_ ++ spdmNonce s ++ zeros 2
      let s := { s with free := s.free + 1 }
      if signed then spdmAnswer via (body ++ spdmSign (x.vca ++ x.meas ++ msg ++ body) s) (setSpdm { x with meas := [] } s)
      else spdmAnswer via body (setSpdm { x with meas := x.meas ++ msg ++ body } s)

/-- Is the message the request the row names? Any other request is answered UnsupportedRequest (R380). -/
def spdmAs (code via : Nat) (msg : Bytes) (f : State → State) (s : State) : State :=
  if fld msg 1 1 = code then f s else if s.spdmUp via then spdmUnsupported via msg s else s

def execGetVersion (via : Nat) (msg : Bytes) (s : State) : Host.Outcome State Fault Refusal := act (whenServed (spdmAs 0x84 via msg (spdmVersion via msg))) s
def execGetCapabilities (via : Nat) (msg : Bytes) (s : State) : Host.Outcome State Fault Refusal := act (whenServed (spdmAs 0xE1 via msg (spdmCapabilities via msg))) s
def execNegotiateAlgorithms (via : Nat) (msg : Bytes) (s : State) : Host.Outcome State Fault Refusal := act (whenServed (spdmAs 0xE3 via msg (spdmAlgorithms via msg))) s
def execGetDigests (via : Nat) (msg : Bytes) (s : State) : Host.Outcome State Fault Refusal := act (whenServed (spdmAs 0x81 via msg (spdmDigests via msg))) s
def execGetCertificate (via : Nat) (msg : Bytes) (s : State) : Host.Outcome State Fault Refusal := act (whenServed (spdmAs 0x82 via msg (spdmCertificate via msg))) s
def execChallenge (via : Nat) (msg : Bytes) (s : State) : Host.Outcome State Fault Refusal := act (whenServed (spdmAs 0x83 via msg (spdmChallenge via msg))) s
def execGetMeasurements (via : Nat) (msg : Bytes) (s : State) : Host.Outcome State Fault Refusal := act (whenServed (spdmAs 0xE0 via msg (spdmMeasurements via msg))) s

/-! ## Flash jobs (R374) -/

def execFlashEraseEnd (s : State) : Host.Outcome State Fault Refusal := act (whenUp flashEnded) s

end Sys2Proof.Machine
end

