-- ==== Sys2Proof/Machine/Link.lean ====
section
/-! DEFINITION. Miusk links and the hall tick: lanes, training, neighbours, joining, tick markers, leadership, the tick reference, and what a boundary
makes of them (R16, R28–R31, R312–R317, R329–R333). -/

namespace Sys2Proof.Machine

/-! ## Lanes (R313, R329) -/

/-- Lanes a link may use: allowed by its mask and not failed. -/
def Link.good (l : Link) : List Nat := (List.range 5).filter fun i => bit l.mask i && !l.failedLanes.contains i

/-- The link as its good lanes carry it: four lanes, or two, or down (R329). -/
def Link.settle (l : Link) : Link :=
  let use := if 4 ≤ l.good.length then l.good.take 4 else if 2 ≤ l.good.length then l.good.take 2 else []
  { l with state := if use.length = 4 then .up4 else if use.length = 2 then .up2 else .down, lanes := use.foldl (fun a i => a + 2 ^ i) 0 }

/-- UNIT of a link in repair records: its tile, its number on the module, and a lane (R312, R364). -/
def linkUnit (link lane : Nat) : Nat := link / 9 + 256 * link + 65536 * lane

/-- A change of link state is followed by new routes at the next boundary (R317). -/
def routesStale (s : State) : State := s.setFabric fun f => { f with stale := true }

/-- A lane fails: with four good lanes left the spare takes its place at the next boundary, otherwise the link narrows or goes down (R329). -/
def laneFails (link lane cause : Nat) (s : State) : State :=
  let l := s.fabric.links.getD link {}
  if 5 ≤ lane ∨ l.failedLanes.contains lane = true ∨ l.isUp = false then s
  else
    let l' := { l with failedLanes := l.failedLanes ++ [lane] }
    if 4 ≤ l'.good.length ∧ bit l.lanes lane = true then s.setLink link fun _ => { l' with swapLane := some lane }
    else if bit l.lanes lane then
      let s := routesStale (s.setLink link fun _ => { l' with swapLane := none }.settle)
      let s := recordRepair 8 cause (linkUnit link lane) 0xFFFFFFFF 0 s
      event 5 (if l'.good.length < 2 then "LINK_DOWN" else "LINK_NARROWED") 0xFF link s
    else s.setLink link fun _ => l'

/-- LANE_ERROR_REPORT: the rate or margin of a lane has crossed its threshold (R329). -/
def laneReport (link lane : Nat) (failed : Bool) (s : State) : State := if failed then laneFails link lane 3 s else s

/-- FLIT_REPLAY: eight replays in a row force a retrain, with the spare if it is healthy; nothing is lost (R313, R329). -/
def flitReplayed (link : Nat) (s : State) : State :=
  let l := s.fabric.links.getD link {}
  if l.isUp then
    let s := (s.setLink link fun l => { l with replays := satAdd l.replays 1, consecutive := if l.consecutive = 7 then 0 else l.consecutive + 1 }).setFabric fun f =>
      { f with flitReplay := satAdd f.flitReplay 1 }
    if l.consecutive = 7 then
      event 5 "LINK_RETRAIN" 0xFF link ((s.setLink link Link.settle).setFabric fun f => { f with linkRetrain := satAdd f.linkRetrain 1 })
    else s
  else s

/-- A flit has come intact on a link. -/
def flitIntact (link : Nat) (s : State) : State := s.setLink link fun l => { l with consecutive := 0 }

/-- LINK_CONTROL_FLIT: 0 training, in which the partner retrains the link; 1 lanes the partner allows; 2 a latency measured. Their layout is not given
(DESIGN CHOICE, log entry 21). -/
def linkControl (link kind value : Nat) (s : State) : State :=
  let s := flitIntact link s
  let l := s.fabric.links.getD link {}
  if l.isUp then match kind with
    | 0 => routesStale (s.setLink link fun l => { l with state := .training, lanes := 0 })
    | 1 => routesStale (s.setLink link fun l => { l with failedLanes := dedupBy id (l.failedLanes ++ (List.range 5).filter fun i => !bit value i) }.settle)
    | 2 => s.setLink link fun l => { l with latency := value }
    | _ => s
  else s

/-! ## Training and neighbours (R330) -/

/-- HALL_ID this module presents: its fabric's, else the ledger's (R330). -/
def State.hall (s : State) : Nat := if s.fabric.joined then s.fabric.hallId else s.mgmt.ledger.hallId

/-- LINK_TRAINED: the partner's HALL_ID and certificate decide whether the link carries anything (R330). -/
def linkTrained (link lanes latency hallId member partnerLink : Nat) (certOk : Bool) (s : State) : State :=
  let l := s.fabric.links.getD link {}
  if 36 ≤ link ∨ l.heldOut = true ∨ l.state = .disabled then s
  else
    let l := { l with partner := member, partnerLink := partnerLink, latency := latency, hallId := hallId, consecutive := 0, advertised := []
                      failedLanes := (List.range 5).filter fun i => !bit lanes i }
    let bad := !certOk || (s.hall != 0 && hallId != s.hall)
    routesStale (s.setLink link fun _ => if bad then { l with state := .refused, lanes := 0 } else l.settle)

/-- Members learned of are joined members; the lowest of them leads (R13). -/
def Fabric.learn (f : Fabric) (ms : List Nat) : Fabric :=
  { f with members := dedupBy id (f.members ++ ms.map (· % 2048)), leader := (ms.map (· % 2048)).foldl min f.leader }

/-- A member is joined again. One that lost power has lost the pages it held for this member: their granules read as poison and each object's port is told
(R301, R305). Whether it kept its T1 is open (DESIGN CHOICE, log entry 97). -/
def lentBack (s : State) (m : Nat) : State :=
  let mine := s.objs.filter fun o => o.spread != 0 && !o.freed && o.homes.contains m
  if mine.isEmpty then s
  else if Config.freeBool s.free then { s with free := s.free + 1 }
  else mine.foldl (fun s o =>
    let gone := if o.spread = 2 then ((List.range o.pages).filter fun k => o.homeOf k == m).flatMap fun k => (List.range 256).map (· + 256 * k) else []
    logEvent 5 (Config.eventCode "LENT_PAGES_LOST" % 4096) o.owner o.num (leBytes 2 m) (s.setObj o.num fun x => { x with poison := dedupBy id (x.poison ++ gone) }))
    { s with free := s.free + 1 }

/-- Members that this one learns of are joined; those it did not know as joined are so anew (R301). -/
def learnOf (ms : List Nat) (s : State) : State :=
  let new := (dedupBy id (ms.map (· % 2048))).filter fun m => !s.joined m
  new.foldl lentBack (s.setFabric fun f => f.learn ms)

/-- JOIN: a partner that joins this member's fabric over a link (R330). -/
def joinArrives (link hallId member : Nat) (certOk : Bool) (s : State) : State :=
  let l := s.fabric.links.getD link {}
  if 36 ≤ link ∨ s.fabric.joined = false ∨ l.state = .disabled ∨ l.state = .down ∨ l.state = .training then s
  else if !certOk || hallId != s.fabric.hallId then routesStale (s.setLink link fun l => { l with state := .refused, lanes := 0, hallId := hallId })
  else if member = s.self then s
  else
    let s := s.setLink link fun l => { l with hallId := hallId, partner := member }.settle
    routesStale (learnOf [member] s)

/-- LINK_INFO: a neighbour's live links (R317). -/
def linkInfo (link : Nat) (live : List LiveLink) (s : State) : State :=
  if (s.fabric.links.getD link {}).isUp then
    let s := s.setLink link fun l => { l with advertised := live }
    routesStale (if s.fabric.joined then learnOf (live.flatMap fun p => [p.a, p.b]) s else s)
  else s

/-! ## Tick numbers (R16, R30) -/

/-- Move a tick stamp. The tick number is an unsigned count (R15): a stamp from before tick 0 of the new numbering reads 0 (DESIGN CHOICE, log
entry 70). -/
def moved (d : Int) (n : Nat) : Nat := ((n : Int) + d).toNat

/-- Move every tick stamp the module holds, so that ticks to a deadline and to a release stay as they are (R16). -/
def moveTicks (d : Int) (s : State) : State :=
  let m := moved d
  let sv := fun (p : Nat × SetVal) => (p.1, { p.2 with since := if p.2.since = 0 then 0 else m p.2.since })
  { s with
    frame := { s.frame with tick := m s.frame.tick, tracked := s.frame.tracked.map fun x => { x with tick := m x.tick }, freed := s.frame.freed.map fun f => { f with freedIn := m f.freedIn, tick := m f.tick } }
    settings := s.settings.map sv
    channels := s.channels.map fun c => { c with settings := c.settings.map sv, bindTick := m c.bindTick, freeAt := m c.freeAt }
    cmds := s.cmds.map fun c => { c with decoded := m c.decoded, admitTick := m c.admitTick, reservedIn := m c.reservedIn, stages := c.stages.map fun g => { g with tick := m g.tick } }
    objs := s.objs.map fun o => { o with pageInfo := o.pageInfo.map fun p => (p.1, { p.2 with
      directSince := m p.2.directSince, backing := p.2.backing.map fun b => (b.1, m b.2.1, b.2.2) }) }
    mem := { s.mem with holds := s.mem.holds.map fun h => (h.1, m h.2.1, h.2.2) }
    indexes := s.indexes.map fun x => { x with routeSince := m x.routeSince, shard := x.shard.map fun h => { h with
      reclaim := h.reclaim.map fun r => (r.1, m r.2.1, m r.2.2), deleted := h.deleted.map fun r => (r.1, m r.2), pass := h.pass.map fun p => (m p.1, p.2) } }
    walks := s.walks.map fun w => { w with admitTick := m w.admitTick, tick := m w.tick, freedIn := w.freedIn.map m, freeTick := m w.freeTick }
    queries := s.queries.map fun q => { q with admitTick := m q.admitTick }
    tables := s.tables.map fun t => { t with usableFrom := t.usableFrom.map m }
    kernels := s.kernels.map fun k => { k with lastReply := m k.lastReply }
    clusters := s.clusters.map fun c => { c with queue := c.queue.map fun w => { w with tick := m w.tick } }
    fabric := { s.fabric with cancels := s.fabric.cancels.map fun c => (c.1, c.2.1, m c.2.2) }
    mgmt := { s.mgmt with
      windows := s.mgmt.windows.map fun w => { w with opened := m w.opened, first := m w.first, last := m w.last }
      gapDrops := s.mgmt.gapDrops.map fun g => (g.1, m g.2.1, m g.2.2) } }

/-- Adopt a tick number for the present tick. -/
def adoptTick (tick : Nat) (s : State) : State := if tick = s.tick then s else moveTicks ((tick : Int) - s.tick) s

/-! ## Markers and leadership (R28–R30, R333) -/

/-- Take the leader's period and guard, in force with the marker's tick (R32). -/
def takeFrame (m : Marker) (s : State) : State :=
  let put := fun (sid v : Nat) (s : State) =>
    if s.setting sid = v then s else { s with settings := assocPut sid { value := v, since := s.tick } s.settings }
  put 0x0102 (5 * m.guard) (put 0x0101 (5 * m.period) s)

/-- Is this marker better than the best of the tick: fewer hops, then the lower link (R28)? -/
def betterMarker (link : Nat) (m : Marker) : Option (Nat × Marker × Int) → Bool
  | none => true
  | some (l, b, _) => decide (m.hops < b.hops) || (m.hops == b.hops && decide (link < l))

/-- Enter SLEWING toward a boundary `err` ns away (R28, R30). R28 has the alarm raised; R30, of a boundary met at a join or a rejoin, does not say
so, and here it is raised there too (DESIGN CHOICE, log entry 71). -/
def slewTo (err : Int) (s : State) : State := raiseAlarm 0x002 0 (s.setFrame fun f => { f with align := .slewing, slewNs := err, badTicks := 0 })

/-- MARKER_FLIT: a marker of this fabric's leader, of a new leader while the old one is lost, or of a part whose leader is lower (R28–R30). A module
that is joining keeps it for its boundary (R16). -/
def markerArrives (link : Nat) (m : Marker) (err : Int) (s : State) : State :=
  let l := s.fabric.links.getD link {}
  let s := flitIntact link s
  if !l.isUp then s
  else
    let keep := fun (s : State) => s.setFrame fun f => if betterMarker link m f.marker then { f with marker := some (link, m, err) } else f
    if !s.fabric.joined then (if s.fabric.joining.isSome then keep s else s)
    else if m.leader = s.fabric.leader then
      if m.leader = s.self then s else
      let s := takeFrame m (keep s)
      if s.frame.align == .freeRun then s.setFrame fun f => { f with align := .locked, freeRunTicks := 0, missed := 0 } else s
    else if s.frame.align == .freeRun || decide (m.leader < s.fabric.leader) then
      let s := s.setFabric fun f => { f with leader := m.leader, members := dedupBy id (f.members ++ [m.leader]) }
      let s := adoptTick (max s.tick m.tick) s
      let s := takeFrame m (s.setFrame fun f => { f with marker := some (link, m, err), missed := 0, freeRunTicks := 0, align := .locked })
      if 40 < err.natAbs then slewTo err s else s
    else s

/-- LEADER_LOST: no marker at two consecutive boundaries (R29). The lost leader no longer counts as joined. -/
def leaderGone (s : State) : State :=
  if s.fabric.joined && s.fabric.leader != s.self && s.frame.marker.isNone && decide (1 ≤ s.frame.missed) && s.frame.align != .freeRun then
    event 5 "LEADER_LOST" 0xFF s.fabric.leader ((s.setFrame fun f => { f with align := .freeRun, freeRunTicks := 0 }).setFabric fun f =>
      { f with members := f.members.filter fun m => m != f.leader, stale := true })
  else s

/-- TICK_REF_IN paces the boundary only on the leader, with TICK_REF_ENABLE 1 (R31). -/
def State.usesRef (s : State) : Bool := s.setting 0x0104 == 1 && (!s.fabric.joined || s.fabric.leader == s.self)

/-- Without TICK_REF_ENABLE, or off the leader, the reference paces nothing and its alarm has no condition (R31). -/
def dropRef (s : State) : State :=
  if s.usesRef then s else clearAlarm 0x003 0 (s.setFrame fun f => { f with refUsed := false, refEdges := 0, refAlarm := false })

/-- What a boundary makes of the markers of the tick before: the alignment, and who leads (R28–R30). -/
def alignBoundary (s : State) : State :=
  let s := (dropRef s).setFrame fun f => { f with forward := s.fabric.joined && f.marker.isSome }
  if !s.fabric.joined then s.setFrame fun f => { f with
    align := .locked, marker := if s.fabric.joining.isSome then f.marker else none, missed := 0, hops := 0, leaderPaced := f.refUsed }
  else if s.fabric.leader = s.self then s.setFrame fun f => { f with align := .locked, marker := none, missed := 0, hops := 0, leaderPaced := f.refUsed }
  else if s.frame.align == .freeRun then
    let s := s.setFrame fun f => { f with freeRunTicks := f.freeRunTicks + 1, marker := none }
    if (s.fabric.members.foldl min s.self) = s.self then (s.setFabric fun f => { f with leader := s.self }).setFrame fun f =>
      { f with align := .locked, freeRunTicks := 0, missed := 0, hops := 0 }
    else s
  else match s.frame.marker with
    | none => s.setFrame fun f => { f with missed := f.missed + 1, badTicks := 0 }
    | some (_, m, err) =>
      let s := s.setFrame fun f => { f with marker := none, missed := 0, hops := m.hops + 1, leaderPaced := m.paced }
      if s.frame.align == .slewing then
        let left : Int := if err.natAbs ≤ 1000 then 0 else if err < 0 then err + 1000 else err - 1000
        if left = 0 then clearAlarm 0x002 0 (s.setFrame fun f => { f with align := .locked, slewNs := 0, badTicks := 0 })
        else s.setFrame fun f => { f with slewNs := left }
      else if 40 < err.natAbs then
        let s := s.setFrame fun f => { f with badTicks := f.badTicks + 1 }
        if 3 ≤ s.frame.badTicks then slewTo err s else s
      else s.setFrame fun f => { f with badTicks := 0 }

/-- The markers of a boundary, in the first flit slot of every link that is up: the leader's own, or the one that came in (R28, R333). The delay to the
flit is open, 0 to 8 ns. -/
def sendMarkers (s : State) : State :=
  if s.fabric.joined && (s.fabric.leader == s.self || s.frame.forward) then
    let d := draw s
    let s := d.2
    let mk : Marker := { tick := s.tick, period := s.period / 5, guard := s.guard / 5, leader := s.fabric.leader, hops := s.frame.hops
                         paced := if s.fabric.leader = s.self then s.frame.refUsed && s.usesRef else s.frame.leaderPaced, delay := d.1 % 9 }
    s.setFabric fun f => { f with markers := f.markers ++ ((List.range 36).filter fun i => (f.links.getD i {}).isUp).map fun i => (i, mk) }
  else s

/-! ## The tick reference (R31) -/

/-- The reference is lost: the leader runs on its own clock and an alarm is raised (R31). -/
def refLost (s : State) : State :=
  if s.usesRef then raiseAlarm 0x003 0 (s.setFrame fun f => { f with refUsed := false, refEdges := 0, refAlarm := true }) else s

/-- TICK_REF_EDGE: within ±2 µs it paces the boundary; after a loss, from the sixteenth in a row on (R31). -/
def refEdge (ns : Int) (s : State) : State :=
  if !s.usesRef then s
  else if 2000 < ns.natAbs then refLost s
  else if s.frame.refAlarm then
    if s.frame.refEdges + 1 < 16 then s.setFrame fun f => { f with refEdges := f.refEdges + 1 }
    else clearAlarm 0x003 0 (s.setFrame fun f => { f with refUsed := true, refEdges := 0, refAlarm := false })
  else s.setFrame fun f => { f with refUsed := true }

/-! ## Boundaries (R317, R329, R330, R332) -/

/-- A failed lane's spare takes its place (R8, R329). -/
def swapLaneNow (cause i : Nat) (s : State) : State :=
  match (s.fabric.links.getD i {}).swapLane with
  | some lane =>
    let s := (s.setLink i fun l => { l with swapLane := none }.settle).setFabric fun f => { f with laneSwap := satAdd f.laneSwap 1 }
    event 3 "LANE_SWAP" 0xFF i (recordRepair 4 cause (linkUnit i lane) 4 0 s)
  | none => s

/-- A LINK_CONTROL action takes effect (R332), and a lane's spare takes its place (R329). -/
def linkBoundary (s : State) (i : Nat) : State :=
  let l := s.fabric.links.getD i {}
  let s := swapLaneNow 3 i s
  match l.action with
  | none => s
  | some (a, m) =>
    let s := routesStale (s.setLink i fun l => { l with action := none })
    s.setLink i fun l => match a with
      | 0 => if l.state == .disabled || l.state == .down then { l with state := .training } else l
      | 1 => { l with state := .disabled, lanes := 0 }
      | 2 => { l with state := .training, lanes := 0 }
      | _ => if l.isUp then { l with mask := m }.settle else { l with mask := m }

/-- Members that the live links no longer reach are not joined as this member sees it; routes follow (R317, R331). -/
def routeBoundary (s : State) : State :=
  if s.fabric.stale then
    if s.fabric.joined then recomputeRoutes s else s.setFabric fun f => { f with stale := false, routes := [] }
  else s

/-- A FABRIC_JOIN completes: the tick of the fabric is adopted, the module is a member, and the command replies with the members it reaches
(R16, R330). A boundary away from the leader's is slewed to (R30). Walks of its own queries go by its new number. -/
def completeJoin (s : State) : State :=
  match s.fabric.joining with
  | none => s
  | some (m, hall) =>
    let reached := s.fabric.reached hall
    if !reached.isEmpty && s.frame.marker.isNone then s
    else
      let s := match s.frame.marker with
        | some (_, mk, _) => takeFrame mk (adoptTick mk.tick s)
        | none => s
      let found := s.frame.marker
      let s := match found with
        | some (_, mk, err) =>
          let s := s.setFrame fun f => { f with marker := none, forward := true, missed := 0, hops := mk.hops + 1, leaderPaced := mk.paced }
          if 40 < err.natAbs then slewTo err s else s
        | none => s
      let old := s.self
      let s := { s with walks := s.walks.map fun (w : Walk) => if w.coord = old then { w with coord := m } else w }
      let members := dedupBy id (m :: reached)
      let s := s.setFabric fun f => { f with
        joined := true, member := m, hallId := hall, joining := none, members := members, stale := true
        leader := match found with
          | some (_, mk, _) => min mk.leader m
          | none => members.foldl min m
        links := f.links.map fun (l : Link) => if l.isUp && l.hallId != hall then { l with state := LinkState.refused, lanes := 0 } else l }
      let s := reached.foldl lentBack s
      let s := writeLedger (fun l => { l with member := m, hallId := hall, s8Skipped := false, failRun := modifyAt l.failRun 8 fun _ => 0 }) (reserveDefault true s)
      match s.cmds.find? fun c => c.op == 0x7002 && c.state == .running with
      | some c => finish c (okDone reached.length) s
      | none => s

/-! ## The rows -/

def execFlitReplay (link : Nat) (s : State) : Host.Outcome State Fault Refusal := act (whenUp (flitReplayed link)) s
def execMarkerFlit (link : Nat) (m : Marker) (errNs : Int) (s : State) : Host.Outcome State Fault Refusal := act (whenUp (markerArrives link m errNs)) s
def execLinkControlFlit (link kind value : Nat) (s : State) : Host.Outcome State Fault Refusal := act (whenUp (linkControl link kind value)) s
def execLeaderLost (s : State) : Host.Outcome State Fault Refusal := act (whenUp leaderGone) s
def execLinkLatencyMeasure (link ns : Nat) (s : State) : Host.Outcome State Fault Refusal :=
  act (whenUp fun s => s.setLink link fun l => if l.isUp then { l with latency := ns } else l) s
def execTickRefEdge (offsetNs : Int) (s : State) : Host.Outcome State Fault Refusal := act (whenUp (refEdge offsetNs)) s
def execTickRefLost (s : State) : Host.Outcome State Fault Refusal := act (whenUp refLost) s
def execLaneErrorReport (link lane : Nat) (failed : Bool) (s : State) : Host.Outcome State Fault Refusal := act (whenUp (laneReport link lane failed)) s
def execLinkTrained (link lanes latency hallId member partnerLink : Nat) (certOk : Bool) (s : State) : Host.Outcome State Fault Refusal :=
  act (whenUp (linkTrained link lanes latency hallId member partnerLink certOk)) s
def execLinkInfo (link : Nat) (live : List LiveLink) (s : State) : Host.Outcome State Fault Refusal := act (whenUp (linkInfo link live)) s
def execJoin (link hallId member : Nat) (certOk : Bool) (s : State) : Host.Outcome State Fault Refusal := act (whenUp (joinArrives link hallId member certOk)) s

end Sys2Proof.Machine
end

