-- ==== Sys2Proof/Machine/Repair.lean ====
section
/-! DEFINITION. Repair in service: aging readings, swaps at boundaries, units marked out (R8, R360–R363). -/

namespace Sys2Proof.Machine

/-- Kind of a monitored unit, in the high bits of its number: 0 walk engine, 1 array column, 2 Crown, 3 link lane, 4 hub unit (R361, DESIGN CHOICE, log entry 22). -/
def unitKind (u : Nat) : Nat := u / 2 ^ 32
/-- UNIT as a repair record carries it (R364). -/
def unitCode (u : Nat) : Nat := u % 2 ^ 32
def unitTile (u : Nat) : Nat := u % 16
def unitCluster (u : Nat) : Nat := u / 16 % 16
def unitEngine (u : Nat) : Nat := u / 256 % 256
def unitLane (u : Nat) : Nat := u / 65536 % 65536
/-- Number of a walk engine on the module. -/
def engineOf (u : Nat) : Nat := 16 * unitTile u + unitEngine u % 16

/-- Does a Crown or hub unit, which has no spare, show too little margin (R361)? -/
def spareless (u : Nat) : Bool := unitKind u == 2 || unitKind u == 4

/-- One reading of an aging monitor, in ps (R361). -/
def agingRead (s : State) (r : Nat × Nat) : State :=
  let u := r.1
  let s := if decide (r.2 < s.setting 0x0503) && !s.mgmt.agingWarned.contains u then
      event 3 "AGING_WARN" 0xFF (unitCode u) (s.setMgmt fun m => { m with agingWarned := m.agingWarned ++ [u] })
    else s
  if s.setting 0x0502 ≤ r.2 then s
  else if spareless u then raiseAlarm 0x00B (unitCode u) s
  else if bit (s.setting 0x0501) 0 then
    (if s.mgmt.swaps.any (fun w => w.1 == u) then s else s.setMgmt fun m => { m with swaps := m.swaps ++ [(u, 1, r.2)] })
  else if s.mgmt.alarmTable.any fun e => e.code == 0x00A && e.subject == unitCode u && e.active then s
  else raiseAlarm 0x00A (unitCode u) (recordRepair 11 1 (unitCode u) 0xFFFFFFFF r.2 s)

/-- Does an engine hold the context of a walk that runs across boundaries (R8)? -/
def State.engineElastic (s : State) (e : Nat) : Bool := s.walks.any fun w => w.freedIn.isNone && !w.strict && w.slots.any fun k => k.engine == e
/-- Does an engine hold any walk context? -/
def State.engineBusy (s : State) (e : Nat) : Bool := s.walks.any fun w => w.slots.any fun k => k.engine == e

/-- Does a cluster hold admitted work: a phase in progress or queued, or one placed in a tick to come (R8)? -/
def State.clusterBusy (s : State) (k : Nat) : Bool :=
  let c := s.cluster k
  c.run.isSome || !c.queue.isEmpty
    || s.cmds.any fun d => d.state == .running && d.stages.any fun g => !g.finished && g.charge.any fun p => p.1 == .cycles k

/-- A walk engine's swap: its spare takes over its context, or it is marked out once idle (R8, R360). -/
def swapEngine (w : Nat × Nat × Nat) (s : State) : State :=
  let u := w.1
  let e := engineOf u
  let t := unitTile u
  let done := fun (s : State) => s.setMgmt fun m => { m with swaps := m.swaps.filter fun x => x.1 != u }
  if s.units.enginesOut.contains e then done s
  else if s.units.spareEngines.contains t then
    if s.engineElastic e then s
    else clearAlarm 0x00A (unitCode u) (event 3 "SWAP" 0xFF (unitCode u) (recordRepair 1 w.2.1 (unitCode u) 16 w.2.2
      (done (s.setUnits fun x => { x with spareEngines := x.spareEngines.filter fun i => i != t }))))
  else if s.engineBusy e then s
  else event 3 "UNIT_OUT" 0xFF (unitCode u) (recordRepair 10 w.2.1 (unitCode u) 0xFFFFFFFF w.2.2
    (done (s.setUnits fun x => { x with enginesOut := x.enginesOut ++ [e], engines := modifyAt x.engines t (· - 1) })))

/-- Does a phase run on the cluster across the boundary? Only an ELASTIC one can (R8, R24). -/
def State.clusterRuns (s : State) (k : Nat) : Bool := (s.cluster k).run.isSome || (s.cluster k).queue.any fun w => decide (w.tick < s.tick)

/-- An array column's swap; with no spare column left its cluster is to be marked out (R360). -/
def swapColumn (w : Nat × Nat × Nat) (s : State) : State :=
  let u := w.1
  let k := unitCluster u
  let done := fun (s : State) => s.setMgmt fun m => { m with swaps := m.swaps.filter fun x => x.1 != u }
  let left := s.units.spareColumns.getD k 0
  if s.clusterRuns k then s
  else if 0 < left then
    clearAlarm 0x00A (unitCode u) (event 3 "SWAP" 0xFF (unitCode u) (recordRepair 2 w.2.1 (unitCode u) (16 - left) w.2.2
      (done (s.setUnits fun x => { x with spareColumns := modifyAt x.spareColumns k (· - 1) }))))
  else done (s.setUnits fun x => { x with clustersLeaving := dedupBy id (x.clustersLeaving ++ [k]) })

/-- A swap that has been decided, at a boundary (R8, R362). -/
def makeSwap (s : State) (w : Nat × Nat × Nat) : State :=
  match unitKind w.1 with
  | 0 => swapEngine w s
  | 1 => swapColumn w s
  | _ => swapLaneNow w.2.1 (unitEngine w.1)
      (laneFails (unitEngine w.1) (unitLane w.1) w.2.1 (s.setMgmt fun m => { m with swaps := m.swaps.filter fun x => x.1 != w.1 }))

/-- A kernel copy on a cluster that leaves moves to the cluster with the most free instruction store, or the kernel is unloaded (R362). -/
def moveKernel (k : Nat) (s : State) (id : Nat) : State :=
  match s.kernels.find? fun x => x.id == id with
  | none => s
  | some kn =>
    let b := (kHead kn.image).bundles
    let room := s.units.clusters.filter fun j => j != k && !s.units.clustersLeaving.contains j && !kn.clusters.contains j && decide (s.storeUsed j + b ≤ 32768)
    match argmaxBy (fun j => 32768 - s.storeUsed j) room with
    | some j =>
      event 3 "KERNEL_MOVED" 0xFF kn.slot { s with kernels := modifyIf s.kernels (fun x => x.id == id) fun x => { x with clusters := x.clusters.map fun i => if i = k then j else i } }
    | none => if kn.leaving then s else unloadKernel kn.slot s

/-- A cluster that is to leave is marked out at the first boundary at which it holds no admitted work (R362). -/
def leaveCluster (s : State) (k : Nat) : State :=
  if s.clusterBusy k then s
  else
    let ids := (s.kernels.filter fun x => x.clusters.contains k).map Kernel.id
    let s := ids.foldl (moveKernel k) s
    event 3 "UNIT_OUT" 0xFF (16 * k) (recordRepair 10 1 (k / 2 + 16 * k) 0xFFFFFFFF 0 (s.setUnits fun x => { x with
      clusters := x.clusters.filter fun j => j != k, clustersLeaving := x.clustersLeaving.filter fun j => j != k }))

/-- Order of the swaps of a boundary: engines by number, so that of two on a tile the lower takes the spare (R362); columns by cluster and group of 16, the
one with the least margin first (R361). -/
def swapBefore (a b : Nat × Nat × Nat) : Bool :=
  let key := fun (w : Nat × Nat × Nat) =>
    if unitKind w.1 = 1 then [1, unitCluster w.1, unitEngine w.1 / 16, w.2.2, w.1] else [unitKind w.1, w.1]
  decide (key a < key b)

/-- Repair swaps of a boundary. -/
def repairBoundary (s : State) : State :=
  let s := (sortBy swapBefore s.mgmt.swaps).foldl makeSwap s
  s.units.clustersLeaving.foldl leaveCluster s

def execAgingMonitorRead (readings : List (Nat × Nat)) (s : State) : Host.Outcome State Fault Refusal :=
  act (whenUp fun s => readings.foldl agingRead s) s

end Sys2Proof.Machine
end

