-- ==== Sys2Proof/Machine/Frame.lean ====
section
/-! DEFINITION. The frame: the points of a tick and its boundary (R7, R15–R27, R69, R73, R116, R130, R138, R139, R209, R327). -/

namespace Sys2Proof.Machine

/-! ## The cut-off, the exact limit, the list limit (R24, R130) -/

/-- A STRICT kernel phase that is unfinished at the cut-off of its tick ends its command, naming the late stream if there is one (R24). -/
def phaseCutOff (s : State) (id : Nat) : State :=
  match s.cmd id with
  | none => s
  | some c =>
    if c.state != .running || !c.strict then s
    else match c.stages.find? fun g => !g.finished with
      | some g => match g.kind with
        | .phase _ => if g.tick ≤ s.tick then endRun id 4 3 (missDetail c.lateStream) s else s
        | _ => s
      | none => s

/-- CUT_OFF: the tail begins; STRICT stages of this tick pause or end, and slices end (R18, R24). -/
def cutOff (s : State) : State :=
  if s.frame.tail then s
  else
    let s := s.setFrame fun f => { f with tail := true }
    let s := walksCutOff s
    let s := (s.cmds.map Cmd.id).foldl phaseCutOff s
    let s := (s.gathers.map Gather.cmd).foldl gatherCutOff s
    let s := (s.updates.map Update.cmd).foldl updCutOff s
    pageJobsCutOff s

/-- EXACT_LIMIT (R130, R131). -/
def exactLimit (s : State) : State := exactLimitAll s

/-- The records of a contributor's slot (R327). -/
def State.contributor (s : State) (area at_ bytes rows : Nat) : Option (List CList) := clistsFrom (s.readObj area at_ bytes) rows 0

/-- Does a slot carry the OP and EXP of the lowest present one? -/
def slotAgrees (op : Nat) (exp : Bool) (l : List CList) : Bool := l.all fun r => r.op == op && r.exp == exp

/-- The list merge of a gathering member: every present slot is merged, and the first bytes of every slot are zeroed (R245, R327, R328). -/
def runListMerge (s : State) (c : Cmd) : State :=
  let ps := c.q.params
  let area := fld ps 0 4
  let dst := fld ps 4 4
  let off := fld ps 8 8
  let n := fld ps 16 2
  let first := fld ps 18 2
  let sb := fld ps 20 4
  let rows := fld ps 24 4
  let k := fld ps 28 2
  let slots := (List.range n).map fun i => s.contributor area (i * sb) sb rows
  let head := ((slots.findSome? id).bind List.head?).getD { row := 0, entries := [], seen := 0, tied := 0, m := 0, sumSel := 0, sumOut := 0, op := 0, exp := false }
  let good := slots.map fun o => o.bind fun l => if slotAgrees head.op head.exp l then some l else none
  let wrong := (slots.filter Option.isSome).length - (good.filter Option.isSome).length
  let present := (good.filterMap id).length
  let recs := mergeRecords head.op k s.free (good.filterMap id)
  let recs := recs.map fun r => { r with part := decide (present < n) }
  let absent := (List.range n).filter fun i => (good.getD i none).isNone
  let bitmap := (List.range 256).map fun j => BitVec.ofNat 8 ((List.range 8).foldl (fun a i => a + flag (absent.any fun e => e + first == 8 * j + i) i) 0)
  let bad := s.poisoned area 0 (n * sb)
  let tier := ((s.obj area).map Obj.tier).getD 1
  let s := { s with free := s.free + 2 * recs.length }
  let s := if bad then uncorrectable area 0 (n * sb) s
    else (writeFor c 1 dst off (recs.flatMap clistBytes ++ bitmap) s).setFabric fun f => { f with mergeMismatch := satAdd f.mergeMismatch wrong }
  let s := (List.range n).foldl (fun s i => s.writeObj area (i * sb) (zeros (min 32 sb))) s
  if bad then finish c { status := status 5 1, detail := tier } s
  else if present < n then finish c { status := status 1 4, detail := 8, count := present } s
  else finish c (okDone present) s

/-- LIST_MERGEs whose tick this is (R328). -/
def State.listMerges (s : State) : List Cmd :=
  s.cmds.filter fun c => c.op == 0x6008 && c.state == .running && c.stages.any fun g => decide (g.tick ≤ s.tick)

/-- Every index in turn. -/
def eachIndex (f : Index → State → State) (s : State) : State :=
  (s.indexes.map Index.num).foldl (fun s n => match s.index n with
    | some x => f x s
    | none => s) s

/-- LIST_LIMIT: shards send their lists, coordinators stop waiting, collectives run, MERGEs whose snapshot is merged complete, and
the replies that wait for the tail are issued (R18, R64, R130, R138, R149, R328). -/
def listLimit (s : State) : State :=
  let s := listLimitSearch s
  issueDecided (eachIndex finishMerges (s.listMerges.foldl runListMerge s))

/-! ## Closing a tick -/

/-- What is left of a tick when its boundary comes: its cut-off and limits, the head lines, the end of keep holds (R18, R48, R280). -/
def closeTick (s : State) : State :=
  let s := listLimit (exactLimit (cutOff s))
  let s := (List.range 8).foldl (fun t p => writeHeads p t) s
  (dedupBy id (s.mem.holds.map fun h => h.1)).foldl (fun t i => keepExpired i t) s

/-- The counter advances: a new tick with nothing charged (R15, R19, R25). -/
def advanceTick (s : State) : State :=
  let us := s.period
  let before := s.frame.elapsed
  let s := heatTime us s
  let s := s.setFrame fun f => { f with
    tick := f.tick + 1, tail := false, charged := [], rotation := (f.rotation + 1) % 9, elapsed := f.elapsed + us, tickOut := f.tickOut + 1
    tracked := f.tracked.filter fun x => decide (f.tick ≤ x.tick + Config.trackedTicks) }
  let s := scrubBoundary before (before + us) s
  { s with ports := s.ports.map fun p => { p with departures := 0 :: p.departures.take 63 } }

/-- The journal's new tick: limits start again, and windows that are due close (R386, R387). -/
def journalBoundary (s : State) : State := closeWindows (s.setMgmt fun m => { m with classNow := List.replicate 7 0 })

/-- Each tick of a command on an ELASTIC channel beyond n + D counts as an overrun of the channel (R9, R25). -/
def countOverruns (s : State) : State :=
  (s.cmds.filter fun c => c.state == .running && !c.strict && (s.handleChan c.q.handle).isSome && decide (c.admitTick + c.deadline < s.tick)).foldl
    (fun s c => s.setChan (handleSlot c.q.handle) fun h => { h with overrun := h.overrun + 1 }) s

/-- FW_ACTIVATE while it drains: when every other command has replied, or 256 ticks have passed, it replies and the restart is due (R375). -/
def drainBoundary (s : State) : State :=
  match s.mgmt.draining with
  | none => s
  | some (slot, id, left) =>
    if left = 0 || s.cmds.all fun c => c.id == id then
      let s := s.setMgmt fun m => { m with draining := none, restartPending := some slot }
      match s.cmd id with
      | some c => issueReply c (okDone 0) { s with cmds := s.cmds.filter fun d => d.id != id }
      | none => s
    else s.setMgmt fun m => { m with draining := some (slot, id, left - 1) }

/-- Roles that end at this boundary (R44). -/
def roleBoundary (s : State) : State :=
  (List.range 9).foldl (fun s p => match (s.port p).roleLoss with
    | some cause => loseRole p cause s
    | none => s) s

/-- Routing tables written in full take effect, and their OBJ_COPYs reply (R160). -/
def tableBoundary (s : State) : State :=
  (s.indexes.filter fun x => x.routeStaged.isSome).foldl (fun s x => match x.routeStaged with
    | some (bs, id) =>
      let s := (s.writeObj x.route 0 bs).setIndex x.num fun y => { y with routeStaged := none, routeSince := s.tick }
      match id.bind s.cmd with
      | some c => finish c (okDone (fld c.q.params 24 8 % 2 ^ 32)) s
      | none => s
    | none => s) s

/-- INSERTs and DELETEs whose boundary this is take hold, in order of admission (R146, R148). -/
def commitBoundary (s : State) : State :=
  (s.cmds.filter fun c => (c.op == 0x3002 || c.op == 0x3003) && c.state == .running && c.stages.any fun g => decide (g.tick ≤ s.tick)).foldl
    (fun s c => if c.op == 0x3002 then commitInsert c s else commitDelete c s) s

/-- Shards at a boundary (R116, R146–R155). -/
def shardsBoundary (s : State) : State :=
  let s := commitBoundary s
  eachIndex shardScanBounds (eachIndex shardBoundary s)

/-- Clusters with an ELASTIC phase in progress across this boundary (R209). -/
def State.clustersElastic (s : State) : List Nat :=
  (List.range s.clusters.length).filter fun k => match (s.cluster k).run with
    | some r => ((s.cmd r.cmd).map fun c => !c.strict).getD false
    | none => false

/-! ## Charges before new admission (R19, R22, R25, R116, R139) -/

/-- Stages that were placed in this tick are charged to it (R22). -/
def chargeStages (s : State) : State :=
  s.cmds.foldl (fun s c => if c.state != .running then s
    else chargeNow ((c.stages.filter fun g => g.tick == s.tick && !g.finished).flatMap Stage.charge) s) s

/-- The cycles that a carried phase used on its clusters in the tick just closed: only a clock knows them, and no cluster has more than its
capacity (R25, DESIGN CHOICE, log entry 4). -/
def cyclesUsed (charge : List (Res × Nat)) (s : State) : List (Res × Nat) × State :=
  charge.foldl (fun (a : List (Res × Nat) × State) p => match p.1 with
    | .cycles k => let d := draw a.2; (a.1 ++ [(.cycles k, d.1 % (s.capacity (.cycles k) + 1))], d.2)
    | _ => a) ([], s)

/-- What an ELASTIC stage carries over the boundary: for each kind the larger of what is left of its charge and what it used in the tick just
closed (R25). Hops are a walk's own (R24), merges a query's (R139). -/
def chargeOverrun (s : State) (id : Nat) : State :=
  match s.cmd id with
  | none => s
  | some c => match c.stages.find? fun g => !g.finished with
    | none => s
    | some g =>
      if c.state != .running || c.strict || s.tick ≤ g.tick then s
      else
        let d := cyclesUsed g.charge s
        let now := g.usedNow ++ d.1
        let used := g.used ++ d.1
        let kinds := (((g.charge ++ now).map Prod.fst).eraseDups).filter fun r => r != .hops && r != .merge
        let s := chargeNow (kinds.map fun r => (r, max (sumRes r g.charge - sumRes r used) (sumRes r now))) d.2
        s.setCmd id fun d => { d with stages := modifyIf d.stages (fun x => x.kind == g.kind && !x.finished) fun x => { x with usedNow := [], used := used } }

/-- Insertions of merges not yet made are charged to the new tick (R139). -/
def chargeMerges (s : State) : State :=
  s.queries.foldl (fun s q => if q.result.isSome then s else chargeNow [(.merge, q.shards.length * q.k)] s) s

/-- Does a command's walk stage stand in this tick, not begun (R22)? -/
def State.walkDue (s : State) (c : Cmd) : Bool := c.state == .running && c.stages.any fun g => g.kind == .walk && !g.finished && g.tick == s.tick

/-- Queries that could walk on a shard in this tick: walks placed in it and not yet scanned nor in a pass, admitted searches whose walk stage it is, and
pending ones at their most; a pending SEARCH_ENCODED would only encode in it (R21, R106, R116). -/
def State.scanQueries (s : State) (x : Index) : Nat :=
  let inPass := fun (w : Walk) => ((x.shard.bind Shard.passWalks).getD []).contains w.id
  let count := fun (p : Cmd → Bool) => ((s.cmds.filter p).map fun c => searchCount c.op c.q.params).foldl (· + ·) 0
  (s.walks.filter fun w => w.index == x.num && w.tick == s.tick && w.freedIn.isNone && !w.scanned && !inPass w).length
    + count (fun c => s.walkDue c && c.uses.contains x.num)
    + count fun c => c.state == .waiting && [0x2001, 0x2002].contains c.op && ((s.handleChan c.q.handle).map fun ch => ch.primary == x.num).getD false

/-- Array cycles reserved for the side-list scan at its worst case for the batch, on every cluster that takes system work (R21, R116, R209). -/
def reserveScan (s : State) : State :=
  let cs := s.systemClusters
  let need := fun (x : Index) => match x.shard with
    | some sh => ceilDiv ((sh.scanTail - sh.scanHead) * s.scanQueries x * 8 * x.sketchBytes) (cs.length * 524288)
    | none => 0
  let total := if cs.isEmpty then 0 else ((s.indexes.filter fun x => !x.freed).map need).foldl (· + ·) 0
  let clear := fun (sh : Shard) => { sh with scanCycles := 0 }
  chargeNow (cs.map fun k => (.cycles k, total)) { s with indexes := s.indexes.map fun x => { x with shard := x.shard.map clear } }

/-- Stages placed in this tick begin (R22). -/
def beginStages (s : State) : State :=
  (s.cmds.filter fun c => c.state == .running && ((c.stages.find? fun g => !g.finished).map fun g => g.tick == s.tick).getD false).foldl
    (fun s c => beginStage c.id s) s

/-- Queries that are merged, whose command has ended and of which no list can still come, are forgotten (R104, R138). -/
def dropQueries (s : State) : State :=
  { s with queries := s.queries.filter fun q => q.result.isNone || (s.cmd q.cmd).isSome || q.shards.any fun p => p.2 == .waiting }

/-- CANCELs kept for WALKs that have not come lapse (R326). -/
def dropCancels (s : State) : State := s.setFabric fun f => { f with cancels := f.cancels.filter fun c => decide (s.tick ≤ c.2.2) }

/-! ## The boundary -/

/-- What happens before slow-path commands take hold: the tick closes and the next begins (R15, R18, R28–R32, R317, R329, R330). -/
def openTick (s : State) : State :=
  let s := completeJoin (alignBoundary (closeTick s))
  let s := routeBoundary ((List.range 36).foldl linkBoundary s)
  let s := journalBoundary (loadBoundary (advanceTick s))
  dropCancels (countOverruns (drainBoundary s))

/-- State that turns over at the boundary (R44, R79, R160, R261, R270, R290, R291). -/
def turnOver (s : State) : State :=
  let s := resolveSettings (roleBoundary (retireTags s))
  let s := endLoads (tableBoundary (trimBackings (switchPages s)))
  updBoundary (shardsBoundary s)

/-- Slow-path commands take hold, in admission order (R19, R56). -/
def holdAll (s : State) : State := s.admissionOrder.foldl takeHold s

/-- Repair swaps; then space freed two ticks earlier, channel slots and kernels are released (R7, R8, R19, R69, R229). -/
def releaseAll (s : State) : State :=
  let s := repairBoundary (s.setFrame fun f => { f with elasticClusters := s.clustersElastic })
  let s := releaseFreed s
  let s := (s.channels.map Channel.slot).foldl (fun s k => freeChannel k s) s
  releaseKernels s

/-- What is charged to the new tick before new admission, merges not yet made first (R19, R139). -/
def chargeAll (s : State) : State :=
  let s := chargeStages (chargeMerges s)
  let s := (s.cmds.map Cmd.id).foldl chargeOverrun s
  reserveScan ((s.walks.map Walk.id).foldl walkBoundary s)

/-- The admission pass, at whose end the shards' first passes are ready, then the jobs' slices (R19, R26, R116). -/
def admitAll (fresh : Nat) (s : State) : State :=
  let s := sendMarkers (beginStages (gatherAnswered s))
  let s := s.admissionOrder.foldl admitOne s
  dropQueries (jobSlices fresh (markReady (s.setFrame fun f => { f with scanSeq := 0 })))

/-- Messages and line reads of the host ports at a boundary (R51, R58, R348). -/
def portsBoundary (s : State) : State := (List.range 8).foldl (fun t p => readLines p (sendDue p t)) s

/-- TICK_BOUNDARY. Walks that continue go on with their next hops when the boundary is over (R24, R110). -/
def tickBoundary (s : State) : State :=
  let s := turnOver (openTick s)
  let fresh := s.freshJob
  let s := releaseAll (holdAll s)
  portsBoundary (driveWalks (admitAll fresh (chargeAll s)))

/-! ## The rows -/

def execTickBoundary (s : State) : Host.Outcome State Fault Refusal := act (whenUp tickBoundary) s
def execCutOff (s : State) : Host.Outcome State Fault Refusal := act (whenUp cutOff) s
def execExactLimit (s : State) : Host.Outcome State Fault Refusal := act (whenUp exactLimit) s
def execListLimit (s : State) : Host.Outcome State Fault Refusal := act (whenUp listLimit) s
/-- ADMISSION_WAIT_EXPIRY: a command that has waited ADMISSION_WAIT boundaries is considered once more, and answered BUSY if it does not fit (R19). -/
def admissionExpired (id : Nat) (s : State) : State :=
  match s.cmd id with
  | some c => if c.state == .waiting && decide (s.setting 0x0105 ≤ c.waited) then admitOne s id else s
  | none => s
def execAdmissionWaitExpiry (id : Nat) (s : State) : Host.Outcome State Fault Refusal := act (whenUp (admissionExpired id)) s
def execSpaceRelease (s : State) : Host.Outcome State Fault Refusal := act (whenUp releaseFreed) s
def execChannelFree (slot : Nat) (s : State) : Host.Outcome State Fault Refusal := act (whenUp (freeChannel slot)) s

end Sys2Proof.Machine
end

