-- ==== Sys2Proof/Machine/FabricPkt.lean ====
section
/-! DEFINITION. Packets that come over the Miusk fabric: order and delivery, memory requests, atomics, walks and lists, transit
(R23, R64, R262, R263, R305, R315–R326). -/

namespace Sys2Proof.Machine

/-! ## Memory behind a global address (R284, R286, R315, R316) -/

/-- Where a global address leads: into an object of this member, to bytes held here for another member, or on to the page's home. -/
inductive Place where
  | here (num off : Nat)
  | held (addr : Nat)
  | away (member : Nat)
  deriving DecidableEq, Repr

/-- Resolve `n` bytes at a global address; none where no object lies there, or in a space no request may name on arrival (R315). -/
def State.resolve (s : State) (addr n : Nat) : Option Place :=
  let space := addr / 2 ^ 62
  let m := addr / 2 ^ 51 % 2048
  let a := addr % 2 ^ 51
  if 2 ≤ space then none
  else if space = 1 ∧ m ≠ s.self then some (.held addr)
  else match s.objs.find? fun o => !o.freed && decide (o.base ≤ a) && decide (a + n ≤ o.base + o.pages * pageBytes) with
    | some o =>
      let home := o.homeOf ((a - o.base) / pageBytes)
      if o.spread = 2 ∧ home ≠ s.self then some (.away home) else some (.here o.num (a - o.base))
    | none => none

/-- Bytes at a place. -/
def Place.bytes (p : Place) (n : Nat) (s : State) : Bytes :=
  match p with
  | .here num off => s.readObj num off n
  | .held a => s.mem.held.read a n
  | .away _ => zeros n

/-- Is any granule of the place poisoned (R305)? -/
def Place.poisoned (p : Place) (n : Nat) (s : State) : Bool :=
  match p with
  | .here num off => s.poisoned num off n
  | .held a => s.mem.heldPoison.any fun g => decide (a / 256 ≤ g) && decide (g ≤ (a + n - 1) / 256)
  | .away _ => false

/-- Granules a range touches. -/
def granules (a n : Nat) : List Nat := (List.range ((a + n + 255) / 256 - a / 256)).map (· + a / 256)

/-- Write bytes at a place; a poisoned packet leaves the granules it writes poisoned, a whole granule written clears its poison (R305, R313). -/
def Place.write (p : Place) (bs : Bytes) (poison : Bool) (s : State) : State :=
  match p with
  | .here num off =>
    let s := s.writeObj num off bs
    if poison then s.setObj num fun o => { o with poison := dedupBy id (o.poison ++ granules off bs.length) } else s
  | .held a => s.setMem fun m => { m with
      held := m.held.write a bs
      heldPoison := if poison then dedupBy id (m.heldPoison ++ granules a bs.length)
        else m.heldPoison.filter fun g => !(decide (a ≤ 256 * g) && decide (256 * g + 256 ≤ a + bs.length)) }
  | .away _ => s

/-! ## Order and delivery (R319, R320) -/

/-- A packet for this member to send in answer. -/
def answerPkt (h : FabHdr) (typ cls : Nat) (poison : Bool) (spec payload : Bytes) : FabPkt :=
  { typ := typ, cls := cls, mcast := false, dst := h.src, pairSeq := 0, coord := h.coord, query := h.query, admitTick := h.admitTick, deadline := h.deadline
    poison := poison, spec := spec, payload := payload }

/-- Acknowledge everything applied from a source so far (R320). -/
def sendAck (h : FabHdr) (s : State) : State :=
  let next := (assocGet h.src s.fabric.rxSeq).getD 0
  sendRaw (answerPkt h 0x06 0 false (leBytes 2 ((next + 65535) % 65536)) []) s

/-- A packet of another member is forwarded by its creator to the page's home (R316): one more route, counted. -/
def redirect (h : FabHdr) (typ : Nat) (spec payload : Bytes) (home : Nat) (s : State) : State :=
  (sendRaw { (answerPkt h typ h.cls h.poison spec payload) with dst := home, src := some h.src, pairSeq := h.pairSeq } s).setFabric fun f =>
    { f with redirects := satAdd f.redirects 1 }

/-! ## Memory requests -/

/-- READ is served and answered; poisoned data goes out with POISON set (R305, R313, R319, R321). -/
def readServed (h : FabHdr) (tag addr n : Nat) (s : State) : State :=
  if n = 0 ∨ 64 < n then s
  else match s.resolve addr (256 * n) with
    | some (.away m) => redirect h 0x01 (memSpec addr n) [] m s
    | some p => sendFab (answerPkt h 0x02 h.cls (p.poisoned (256 * n) s) (leBytes 8 tag) (p.bytes (256 * n) s)) s
    | none => s

/-- Data for a read that this member has sent (R319, R321): what waited for it goes on. -/
def readAnswered (h : FabHdr) (tag : Nat) (data : Bytes) (s : State) : State :=
  gatherAnswered (s.setFabric fun f => { f with
    reads := modifyIf f.reads (fun r => r.tag == tag && r.member == h.src && r.data.isNone) fun r => { r with data := some data, bad := h.poison } })

/-- WRITE is applied (R319). -/
def writeApplied (h : FabHdr) (addr : Nat) (data : Bytes) (s : State) : State :=
  match s.resolve addr data.length with
  | some (.away m) => redirect h 0x03 (memSpec addr (ceilDiv data.length 256)) data m s
  | some p => p.write data h.poison s
  | none => s

/-! ## Atomics (R252, R324) -/

/-- Do operand and address obey the alignment, and lie in one granule (R324)? -/
def atomicFits (w addr n : Nat) : Bool :=
  decide (0 < n) && decide (n ≤ 256) && n % w == 0 && addr % w == 0 && addr / 256 == (addr + n - 1) / 256

/-- An atomic as one read-modify-write of `n` bytes; on a poisoned granule it fails (R305, R324). `f` gives the new bytes from the old; `answer` is the
tag under which the old value goes back. -/
def atomicApplied (h : FabHdr) (code addr n : Nat) (operand : Bytes) (answer : Option Nat) (f : Bytes → Bytes) (s : State) : State :=
  match s.resolve addr n with
  | none => s
  | some (.away m) => redirect h 0x04 (leBytes 1 code ++ leBytes 8 addr ++ leBytes 2 operand.length) operand m s
  | some p =>
    let old := p.bytes n s
    let bad := p.poisoned n s
    let s := if bad then (match p with
        | .here num off => uncorrectable num off n s
        | _ => event 1 "UNCORRECTABLE" 0xFF 0 s)
      else p.write (f old) false s
    match answer with
    | some tag => sendFab (answerPkt h 0x05 h.cls bad (leBytes 8 tag) old) s
    | none => s

/-- Element by element over operands of width `w`. -/
def eachElem (w : Nat) (f : Nat → Nat → Nat) (old operand : Bytes) : Bytes :=
  (List.range (operand.length / w)).flatMap fun i => leBytes w (f (fld old (w * i) w) (fld operand (w * i) w))

/-- The integer adds: wrapping sums. -/
def atomicAddInt (h : FabHdr) (code w addr : Nat) (data : Bytes) (s : State) : State :=
  if atomicFits w addr data.length then
    atomicApplied h code addr data.length data none (fun old => eachElem w (fun a b => (a + b) % 256 ^ w) old data) s
  else s

/-- The floating adds: one nearest-even rounding per element (R200). -/
def atomicAddFloat (h : FabHdr) (code w : Nat) (f : FFmt) (addr : Nat) (data : Bytes) (s : State) : State :=
  if atomicFits w addr data.length then
    let k := s.free
    atomicApplied h code addr data.length data none (fun old => eachElem w (ieeeAdd f k) old data) { s with free := k + 1 }
  else s

/-- Row of a directory that an address names, if it is a directory here (R251). -/
def State.dirAt (s : State) (addr : Nat) : Option (Table × Nat) :=
  match s.resolve addr 8 with
  | some (.here num off) => (s.tables.find? fun t => t.dir == num && t.dir != 0).map fun t => (t, off / 8)
  | _ => none

/-- The swap of a directory entry frees the slot it displaces, in this tick, and takes the new one (R251, R260). -/
def dirSwapped (t : Table) (old new : Nat) (s : State) : State :=
  let slot := fun (e : Nat) => 8 * (e % 2 ^ 40) / max 1 t.stride
  let s := if slot old = slot new then s else freeSpace (.rowSlot t.num 0 (slot old)) s
  { s with tables := modifyIf s.tables (fun x => x.num == t.num) fun x => { x with
      freeRuns := x.freeRuns.flatMap fun r =>
        if decide (r.1 ≤ slot new) && decide (slot new < r.1 + r.2) then
          [(r.1, slot new - r.1), (slot new + 1, r.1 + r.2 - slot new - 1)].filter fun q => q.2 != 0
        else [r] } }

/-- SWAP: the old value goes back (R324). -/
def atomicSwapped (h : FabHdr) (tag addr : Nat) (data : Bytes) (s : State) : State :=
  if data.length = 8 ∧ addr % 8 = 0 then
    let dir := s.dirAt addr
    let old := match s.resolve addr 8 with
      | some p => leVal (p.bytes 8 s)
      | none => 0
    let s := atomicApplied h 5 addr 8 data (some tag) (fun _ => data) s
    match dir with
    | some (t, _) => dirSwapped t old (leVal data) s
    | none => s
  else s

/-- CAS: written only if equal; the old value goes back (R324). -/
def atomicCompared (h : FabHdr) (tag addr : Nat) (data : Bytes) (s : State) : State :=
  if data.length = 16 ∧ addr % 8 = 0 then
    atomicApplied h 6 addr 8 data (some tag) (fun old => if old = data.take 8 then data.drop 8 else old) s
  else s

/-- A row delta or gradient as the near-memory unit reads it (R258, R262, R263). -/
def remoteDelta (t : Table) (step : Bool) (dfmt : Nat) (data : Bytes) : List Word × ConvCount :=
  decodeDelta { op := if step then 0x4005 else 0x4004, count := 1, dfmt := dfmt, fromObj := false, allowance := 0, src := 0, srcOff := 0, report := 0 } t data

/-- ROW_ADD and ROW_STEP: the row's near-memory unit makes one read-modify-write, and its counts go to the originating channel's number (R185). Rounding mode, seed and
channel number are not in the packet and are open (R262, R263, R321, R324, DESIGN CHOICE, log entry 93). -/
def rowArrives (h : FabHdr) (row : Nat) (num : Nat) (step : Option OptBlock) (dfmt : Nat) (data : Bytes) (s : State) : State :=
  match s.table num with
  | none => s
  | some t =>
    if t.freed || t.rows ≤ row || !t.holds s.self row || (step.isSome && !t.opt) then s
    else if s.poisoned t.heap (8 * (s.dirEntry t (t.localRow row)).1) t.slotBytes then
      uncorrectable t.heap (8 * (s.dirEntry t (t.localRow row)).1) t.slotBytes s
    else
      let stochastic := Config.freeBool s.free
      let d := remoteDelta t step.isSome dfmt data
      let b : Batch := { member := h.src, cmd := h.query, seed := (Config.seed (s.free + 1)).toNat, tick := h.admitTick }
      let chan := ((s.channels.map Channel.slot)[Config.freeNat (s.free + 2) % max s.channels.length 1]?).getD 0
      let clean := cleanDelta d.1
      let r := rowUpdate t row { step := step, stochastic := stochastic } clean.1 b { s with free := s.free + 3 }
      countConv chan (sumCounts [d.2, clean.2, r.2]) r.1

/-! ## Acknowledgement (R320) -/

/-- Is `q` at or before `upTo`, modulo 2^16? -/
def seqUpTo (q upTo : Nat) : Bool := decide ((upTo + 65536 - q) % 65536 < 32768)

/-- ACK frees the pair's window up to its PAIR_SEQ; updates and packets that waited go on (R265, R320). -/
def acked (src upTo : Nat) (s : State) : State :=
  updAcked (sendBacklog src (s.setFabric fun f => { f with
    unacked := f.unacked.filter fun p => !(p.1.dst == src && seqUpTo p.1.pairSeq upTo && !f.backlog.contains p.1) }))

/-- PKT_RESEND: sent again with RETRY, at most three times; then its destination counts as unreachable for it, and the consumer's rule decides (R320). -/
def resend (dst seq : Nat) (s : State) : State :=
  match s.fabric.unacked.find? fun p => p.1.dst == dst && p.1.pairSeq == seq && !s.fabric.backlog.contains p.1 with
  | none => s
  | some (p, k) =>
    if k < 3 then s.setFabric fun f => { f with
      sent := f.sent ++ [{ p with retry := true, link := assocGet dst f.routes }]
      unacked := modifyIf f.unacked (fun x => x == (p, k)) fun x => (x.1, k + 1)
      pktResend := satAdd f.pktResend 1 }
    else updAcked (sendBacklog dst ((updLost dst seq s).setFabric fun f => { f with
      unacked := f.unacked.filter fun x => x != (p, k), pktUnreachable := satAdd f.pktUnreachable 1 }))

/-! ## Walks and lists (R23, R64, R135, R138, R326) -/

/-- Answer REFUSED for a shard (R23). -/
def refuseWalk (h : FabHdr) (shard : Nat) (s : State) : State :=
  sendFab { (answerPkt h 0x12 0 false (leBytes 2 shard) []) with dst := h.coord } s

/-- WALK: placed on arrival in the earliest tick from n to n + D with capacity, else REFUSED; under STALL with ELASTIC, in the first tick with capacity
(R23). Its charge is its hop budget, since the packet carries no hop charge (DEDUCED, log entry 25). A CANCEL that came before discards it (R326). -/
def walkArrives (h : FabHdr) (w : WalkMsg) (s : State) : State :=
  let ahead := fun (c : Nat × Nat × Nat) => c.1 == h.coord && c.2.1 == h.query && decide (s.tick ≤ c.2.2)
  if s.fabric.cancels.any ahead then s.setFabric fun f => { f with cancels := f.cancels.filter fun c => !ahead c }
  else match (s.index w.index).bind Index.shard with
    | none => refuseWalk h 0 s
    | some sh =>
      let v : Walk :=
        { id := 0, coord := h.coord, query := h.query, index := w.index, shard := sh.number, k := w.k, width := w.width, budget := w.budget
          strict := w.strict, degrade := w.degrade, escalation := w.escalation, exactCount := w.exact, charge := w.budget, sketch := w.sketch
          predicate := w.predicate, tagSet := w.tagSet, vector := w.vector, admitTick := h.admitTick, deadline := h.deadline, tick := s.tick
          noEscalation := w.escalation == 0 }
      (arriveWalk v false s).getD (refuseWalk h sh.number s)

/-- CANCEL: the query's walk here ends at the next boundary; one that comes before its WALK is held to the end of tick n + D (R64, R326). -/
def cancelArrives (h : FabHdr) (index : Nat) (s : State) : State :=
  let mine := fun (w : Walk) => w.coord == h.coord && w.query == h.query && w.index == index
  if s.walks.any mine then { s with walks := modifyIf s.walks (fun w => mine w && w.phase != .sent) fun w => { w with cancelled := true } }
  else if s.tick ≤ h.admitTick + h.deadline then s.setFabric fun f => { f with cancels := f.cancels ++ [(h.coord, h.query, h.admitTick + h.deadline)] }
  else s

/-- REFUSED: the shard is missing from the query (R23, R138). -/
def refusedArrives (h : FabHdr) (shard : Nat) (s : State) : State := if h.coord = s.self then shardAnswers h.query shard .missing s else s

/-- PARTIAL_LIST reaches the coordinator's hub Crowns, or is discarded when it has stopped waiting (R135, R138). -/
def listArrives (h : FabHdr) (l : ListMsg) (s : State) : State := if h.coord = s.self then shardAnswers h.query l.shard (.list l) s else s

/-- A packet with a reserved TYPE or atomic code is discarded and counted (R321, R324). -/
def badTypeArrives (s : State) : State := s.setFabric fun f => { f with badType := satAdd f.badType 1 }

/-! ## Delivery -/

/-- What a packet does once its turn has come. -/
def pktEffect (c : Instr) (s : State) : State :=
  match c with
  | .read h tag addr n => readServed h tag addr n s
  | .readResp h tag data => readAnswered h tag data s
  | .write h addr data => writeApplied h addr data s
  | .atomicAddI32 h addr data => atomicAddInt h 1 4 addr data s
  | .atomicAddI64 h addr data => atomicAddInt h 2 8 addr data s
  | .atomicAddF32 h addr data => atomicAddFloat h 3 4 fmtF32 addr data s
  | .atomicAddBf16 h addr data => atomicAddFloat h 4 2 fmtBF16 addr data s
  | .atomicSwap h tag addr data => atomicSwapped h tag addr data s
  | .atomicCas h tag addr data => atomicCompared h tag addr data s
  | .rowAdd h table row dfmt delta => rowArrives h row table none dfmt delta s
  | .rowStep h table row dfmt block gradient => rowArrives h row table (some (optBlock block)) dfmt gradient s
  | .atomicResp h tag data => readAnswered h tag data s
  | .walk h w => walkArrives h w s
  | .cancel h index => cancelArrives h index s
  | .refused h shard => refusedArrives h shard s
  | .partialList h l => listArrives h l s
  | .badType _ _ => badTypeArrives s
  | _ => s

/-- Held packets of a source whose turn has come, one after another (R320). -/
def releaseHeld (src : Nat) : (n : Nat) → State → State
  | 0, s => s
  | n + 1, s =>
    let next := (assocGet src s.fabric.rxSeq).getD 0
    match s.fabric.held.find? fun p => p.src == src && p.pairSeq == next with
    | none => s
    | some p =>
      let s := s.setFabric fun f => { f with held := f.held.erase p, rxSeq := assocPut src ((next + 1) % 65536) f.rxSeq }
      releaseHeld src n (pktEffect p.cmd s)

/-- A packet arrives at its destination: a multicast copy acts at once; a unicast one acts in PAIR_SEQ order, is held when early, and discarded as a
duplicate when late; what has been applied is acknowledged (R319, R320, R326). -/
def receive (h : FabHdr) (c : Instr) (s : State) : State :=
  if !s.fabric.joined || (!h.mcast && h.dst != s.self) then s
  else if h.mcast then pktEffect c s
  else
    let next := (assocGet h.src s.fabric.rxSeq).getD 0
    let ahead := (h.pairSeq + 65536 - next) % 65536
    if ahead = 0 then
      let s := s.setFabric fun f => { f with rxSeq := assocPut h.src ((next + 1) % 65536) f.rxSeq }
      let s := releaseHeld h.src s.fabric.held.length (pktEffect c s)
      sendAck h s
    else if ahead < pairWindow then
      if s.fabric.held.any fun p => p.src == h.src && p.pairSeq == h.pairSeq then s
      else s.setFabric fun f => { f with held := f.held ++ [⟨h.src, h.pairSeq, c⟩] }
    else sendAck h s

/-- TRANSIT_FORWARD: a packet for another member goes on along this member's route; a gateway sends one copy of a multicast packet to each destination
in its group (R317, R325). -/
def forward (h : FabHdr) (typ : Nat) (bytes : Bytes) (members : List Nat) (s : State) : State :=
  let mk := fun (dst : Nat) => { (answerPkt h typ h.cls h.poison (bytes.take 11) (bytes.drop 11)) with
    dst := dst, mcast := h.mcast, pairSeq := h.pairSeq, retry := h.retry, src := some h.src }
  if h.mcast then
    (members.filter fun m => m / 32 == s.self / 32 && m != s.self && s.canReach m).foldl (fun s m => sendRaw (mk m) s) s
  else if h.dst ≠ s.self ∧ (s.routeTo h.dst).isSome then sendRaw (mk h.dst) s
  else s

/-! ## The rows -/

def execRead (h : FabHdr) (tag addr granules : Nat) (s : State) : Host.Outcome State Fault Refusal := act (whenUp (receive h (.read h tag addr granules))) s
def execReadResp (h : FabHdr) (tag : Nat) (data : Bytes) (s : State) : Host.Outcome State Fault Refusal := act (whenUp (receive h (.readResp h tag data))) s
def execWrite (h : FabHdr) (addr : Nat) (data : Bytes) (s : State) : Host.Outcome State Fault Refusal := act (whenUp (receive h (.write h addr data))) s
def execAtomicAddI32 (h : FabHdr) (addr : Nat) (data : Bytes) (s : State) : Host.Outcome State Fault Refusal :=
  act (whenUp (receive h (.atomicAddI32 h addr data))) s
def execAtomicAddI64 (h : FabHdr) (addr : Nat) (data : Bytes) (s : State) : Host.Outcome State Fault Refusal :=
  act (whenUp (receive h (.atomicAddI64 h addr data))) s
def execAtomicAddF32 (h : FabHdr) (addr : Nat) (data : Bytes) (s : State) : Host.Outcome State Fault Refusal :=
  act (whenUp (receive h (.atomicAddF32 h addr data))) s
def execAtomicAddBf16 (h : FabHdr) (addr : Nat) (data : Bytes) (s : State) : Host.Outcome State Fault Refusal :=
  act (whenUp (receive h (.atomicAddBf16 h addr data))) s
def execAtomicSwap (h : FabHdr) (tag addr : Nat) (data : Bytes) (s : State) : Host.Outcome State Fault Refusal :=
  act (whenUp (receive h (.atomicSwap h tag addr data))) s
def execAtomicCas (h : FabHdr) (tag addr : Nat) (data : Bytes) (s : State) : Host.Outcome State Fault Refusal :=
  act (whenUp (receive h (.atomicCas h tag addr data))) s
def execRowAdd (h : FabHdr) (table row dfmt : Nat) (delta : Bytes) (s : State) : Host.Outcome State Fault Refusal :=
  act (whenUp (receive h (.rowAdd h table row dfmt delta))) s
def execRowStep (h : FabHdr) (table row dfmt : Nat) (block gradient : Bytes) (s : State) : Host.Outcome State Fault Refusal :=
  act (whenUp (receive h (.rowStep h table row dfmt block gradient))) s
def execAtomicResp (h : FabHdr) (tag : Nat) (data : Bytes) (s : State) : Host.Outcome State Fault Refusal :=
  act (whenUp (receive h (.atomicResp h tag data))) s
/-- ACK takes no PAIR_SEQ of its own (R320, DEDUCED, log entry 26). -/
def execAck (h : FabHdr) (upTo : Nat) (s : State) : Host.Outcome State Fault Refusal :=
  act (whenUp fun s => if !s.fabric.joined || h.dst != s.self then s else acked h.src upTo s) s
def execWalk (h : FabHdr) (w : WalkMsg) (s : State) : Host.Outcome State Fault Refusal := act (whenUp (receive h (.walk h w))) s
def execCancel (h : FabHdr) (index : Nat) (s : State) : Host.Outcome State Fault Refusal := act (whenUp (receive h (.cancel h index))) s
def execRefused (h : FabHdr) (shard : Nat) (s : State) : Host.Outcome State Fault Refusal := act (whenUp (receive h (.refused h shard))) s
def execPartialList (h : FabHdr) (l : ListMsg) (s : State) : Host.Outcome State Fault Refusal := act (whenUp (receive h (.partialList h l))) s
def execBadType (h : FabHdr) (code : Nat) (s : State) : Host.Outcome State Fault Refusal := act (whenUp (receive h (.badType h code))) s
def execTransitForward (h : FabHdr) (typ : Nat) (payload : Bytes) (members : List Nat) (s : State) : Host.Outcome State Fault Refusal :=
  act (whenUp (forward h typ payload members)) s
def execPktResend (dst pairSeq : Nat) (s : State) : Host.Outcome State Fault Refusal := act (whenUp (resend dst pairSeq)) s

end Sys2Proof.Machine
end

