-- ==== Sys2Proof/Machine/KernelOps.lean ====
section
/-! DEFINITION. The kernel slot operations as commands: one operation of the bundle at a cluster's pc issues (R214 to R220). -/

namespace Sys2Proof.Machine

/-! ## CTRL (R215, R216) -/

def execLoop (c : Nat) (o : CtrlOp) (s : State) : Host.Outcome State Fault Refusal := act (whenUp (issueCtrl c 1 o)) s
def execLoopx (c : Nat) (o : CtrlOp) (s : State) : Host.Outcome State Fault Refusal := act (whenUp (issueCtrl c 2 o)) s
def execBranch (c : Nat) (o : CtrlOp) (s : State) : Host.Outcome State Fault Refusal := act (whenUp (issueCtrl c 3 o)) s
def execBrk (c : Nat) (o : CtrlOp) (s : State) : Host.Outcome State Fault Refusal := act (whenUp (issueCtrl c 4 o)) s
def execWait (c : Nat) (o : CtrlOp) (s : State) : Host.Outcome State Fault Refusal := act (whenUp (issueCtrl c 5 o)) s
def execPhase (c : Nat) (o : CtrlOp) (s : State) : Host.Outcome State Fault Refusal := act (whenUp (issueCtrl c 6 o)) s
def execKend (c : Nat) (o : CtrlOp) (s : State) : Host.Outcome State Fault Refusal := act (whenUp (issueCtrl c 7 o)) s

/-! ## ADDR (R216) -/

/-- An X register as a signed number. -/
def Cluster.signedX (c : Cluster) (i : Nat) : Int := (c.xr i).toInt
/-- IMM sign-extended from 44 bits. -/
def signed44 (v : Nat) : Int := (BitVec.ofNat 44 v).toInt

def execAadd (c : Nat) (o : AddrOp) (s : State) : Host.Outcome State Fault Refusal :=
  act (whenUp (issueAddr c 1 o fun cl => cl.addA o (Cluster.signedX cl o.s2 * 2 ^ o.aux))) s
def execAaddi (c : Nat) (o : AddrOp) (s : State) : Host.Outcome State Fault Refusal :=
  act (whenUp (issueAddr c 2 o fun cl => cl.addA o (signed44 o.imm))) s
def execXadd (c : Nat) (o : AddrOp) (s : State) : Host.Outcome State Fault Refusal :=
  act (whenUp (issueAddr c 3 o fun cl => cl.setX o.d (cl.xr o.s1 + cl.src2 o))) s
def execXsub (c : Nat) (o : AddrOp) (s : State) : Host.Outcome State Fault Refusal :=
  act (whenUp (issueAddr c 4 o fun cl => cl.setX o.d (cl.xr o.s1 - cl.src2 o))) s
def execXshl (c : Nat) (o : AddrOp) (s : State) : Host.Outcome State Fault Refusal :=
  act (whenUp (issueAddr c 5 o fun cl => cl.setX o.d (cl.xr o.s1 <<< cl.shift o))) s
def execXshr (c : Nat) (o : AddrOp) (s : State) : Host.Outcome State Fault Refusal :=
  act (whenUp (issueAddr c 6 o fun cl => cl.setX o.d (cl.xr o.s1 >>> cl.shift o))) s
def execXsra (c : Nat) (o : AddrOp) (s : State) : Host.Outcome State Fault Refusal :=
  act (whenUp (issueAddr c 7 o fun cl => cl.setX o.d ((cl.xr o.s1).sshiftRight (cl.shift o)))) s
def execXcmp (c : Nat) (o : AddrOp) (s : State) : Host.Outcome State Fault Refusal :=
  act (whenUp (issueAddr c 8 o fun cl => cl.setP o.d (compare o.aux (cl.xr o.s1) (cl.src2 o)))) s
def execXset (c : Nat) (o : AddrOp) (s : State) : Host.Outcome State Fault Refusal :=
  act (whenUp (issueAddr c 9 o fun cl => cl.setX o.d (BitVec.ofNat 32 o.imm))) s
def execXgetl (c : Nat) (o : AddrOp) (s : State) : Host.Outcome State Fault Refusal :=
  act (whenUp (issueAddr c 10 o fun cl => cl.setX o.d (BitVec.ofNat 32 (cl.l.getD o.s1 0)))) s
def execPand (c : Nat) (o : AddrOp) (s : State) : Host.Outcome State Fault Refusal :=
  act (whenUp (issueAddr c 11 o fun cl => cl.setP o.d (cl.p.getD o.s1 false && cl.p.getD o.s2 false))) s
def execPor (c : Nat) (o : AddrOp) (s : State) : Host.Outcome State Fault Refusal :=
  act (whenUp (issueAddr c 12 o fun cl => cl.setP o.d (cl.p.getD o.s1 false || cl.p.getD o.s2 false))) s
def execPnot (c : Nat) (o : AddrOp) (s : State) : Host.Outcome State Fault Refusal :=
  act (whenUp (issueAddr c 13 o fun cl => cl.setP o.d (!cl.p.getD o.s1 false))) s

/-! ## MOVE (R217) -/

def execStart (c : Nat) (o : MoveOp) (s : State) : Host.Outcome State Fault Refusal := act (whenUp (issueMove c 1 o)) s
def execStop (c : Nat) (o : MoveOp) (s : State) : Host.Outcome State Fault Refusal := act (whenUp (issueMove c 2 o)) s
def execRelease (c : Nat) (o : MoveOp) (s : State) : Host.Outcome State Fault Refusal := act (whenUp (issueMove c 3 o)) s

/-! ## ARRAY (R218) -/

def execMma (c : Nat) (o : Issuing ArrayOp) (s : State) : Host.Outcome State Fault Refusal := act (whenUp (issueArray c 1 o.op o.bad)) s
def execLutBuild (c : Nat) (o : ArrayOp) (s : State) : Host.Outcome State Fault Refusal := act (whenUp (issueArray c 2 o false)) s
def execLutScan (c : Nat) (o : Issuing ArrayOp) (s : State) : Host.Outcome State Fault Refusal := act (whenUp (issueArray c 3 o.op o.bad)) s
def execBinary (c : Nat) (o : Issuing ArrayOp) (s : State) : Host.Outcome State Fault Refusal := act (whenUp (issueArray c 4 o.op o.bad)) s
def execSwap (c : Nat) (o : ArrayOp) (s : State) : Host.Outcome State Fault Refusal := act (whenUp (issueArray c 5 o false)) s

/-! ## EPI (R219) -/

def execDrain (c : Nat) (o : Issuing EpiOp) (s : State) : Host.Outcome State Fault Refusal := act (whenUp (issueEpi c 1 o.op o.bad)) s
def execPreloadTile (c : Nat) (o : EpiOp) (s : State) : Host.Outcome State Fault Refusal := act (whenUp (issueEpi c 2 o false)) s
def execPreloadRow (c : Nat) (o : EpiOp) (s : State) : Host.Outcome State Fault Refusal := act (whenUp (issueEpi c 3 o false)) s

/-! ## SEL (R220) -/

def execTopk (c : Nat) (o : Issuing SelOp) (s : State) : Host.Outcome State Fault Refusal := act (whenUp (issueSel c 1 o.op o.bad)) s
def execBottomk (c : Nat) (o : Issuing SelOp) (s : State) : Host.Outcome State Fault Refusal := act (whenUp (issueSel c 2 o.op o.bad)) s
def execArgmax (c : Nat) (o : Issuing SelOp) (s : State) : Host.Outcome State Fault Refusal := act (whenUp (issueSel c 3 o.op o.bad)) s
def execArgmin (c : Nat) (o : Issuing SelOp) (s : State) : Host.Outcome State Fault Refusal := act (whenUp (issueSel c 4 o.op o.bad)) s
def execRowmax (c : Nat) (o : Issuing SelOp) (s : State) : Host.Outcome State Fault Refusal := act (whenUp (issueSel c 5 o.op o.bad)) s
def execCollect (c : Nat) (o : Issuing SelOp) (s : State) : Host.Outcome State Fault Refusal := act (whenUp (issueSel c 6 o.op o.bad)) s

end Sys2Proof.Machine
end

