-- ==== Sys2Proof/Machine/Start.lean ====
section
/-! DEFINITION. Power, resets and the start: the rails, the eleven steps S0 to S10 with the boot ledger, the repair record as S3 applies it, and the
module states (R354–R366, R373, R382, R395–R402). -/

namespace Sys2Proof.Machine

/-! ## Rails off (R395–R397, R401) -/

/-- What the boot flash and the fuses keep; everything else of the management core begins anew (R370, R397). -/
def Mgmt.kept (m : Mgmt) : Mgmt :=
  { ledger := m.ledger, ledgerOld := m.ledgerOld, starts := m.starts, repairs := m.repairs, repairSeq := m.repairSeq
    slotA := m.slotA, slotB := m.slotB, running := m.running, rollback := m.rollback, key1 := m.key1, key2 := m.key2, makerKey := m.makerKey
    decommissioned := m.decommissioned, repairFuses := m.repairFuses, credentials := m.credentials, identity := m.identity
    identities := m.identities, certificate := m.certificate, chain := m.chain, audit := m.audit, auditSeq := m.auditSeq, auditHead := m.auditHead
    auditSector := m.auditSector, auditOffset := m.auditOffset, auditReturned := m.auditReturned, responses := m.responses }

/-- Settings at a start: defaults, but for the repair settings, which the ledger holds (R363, R409). -/
def settingsAtStart (l : Ledger) : List (Nat × SetVal) :=
  assocPut 0x0503 { value := l.agingWarn } (assocPut 0x0502 { value := l.agingMargin } (assocPut 0x0501 { value := l.repairPolicy } settingsReset))

/-- A module whose volatile state is gone: memories, ports, fabric role and work (file 19, file 21). What it has sent stays sent. -/
def powerless (s : State) : State :=
  { pending := s.pending, free := s.free, power := s.power, frame := { tick := 0 }, ports := List.replicate 9 {}
    settings := settingsAtStart s.mgmt.ledger, hostMem := s.hostMem, posted := s.posted, msixSent := s.msixSent
    fabric := { member := s.mgmt.ledger.member, members := [s.mgmt.ledger.member], sent := s.fabric.sent, markers := s.fabric.markers }
    mgmt := s.mgmt.kept }

/-- Every rail off: nothing is drained and no reply is written (R397). With the input removed every open-drain output reads high and the trip latch is
lost (R395, R401). -/
def railsOff (input : Bool) (s : State) : State :=
  (powerless s).setPower fun w => { w with
    on := false, inStart := false, startStep := 11, pwrgd := !input, hostReadyN := true, faultN := true
    thermtripN := if input then !w.tripLatch else true, tripLatch := input && w.tripLatch, alertN := true
    linkUp := false, rate := 3, width := 8, flit := true, cxlIo := false, cxlCache := false, vfEnable := true, timeouts := 0 }

/-- A thermal trip: rails off, THERMTRIP_N low and latched, nothing written (R401). -/
def tripped (s : State) : State :=
  if s.power.on then (railsOff true s).setPower fun w => { w with tripLatch := true, thermtripN := false } else s

/-! ## The start record (R354, R356, R357) -/

/-- Put step k's entry, in the report and in the start record in progress. -/
def putStep (k : Nat) (e : StepEntry) (s : State) : State :=
  s.setMgmt fun m =>
    let steps := modifyAt m.steps k fun _ => e
    { m with steps := steps, starts := modifyIf m.starts (fun r => r.start == m.ledger.startCount) fun r => if k = 0 then r else { r with steps := steps } }

/-- Is this start in the minimum configuration (R359)? -/
def State.minimal (s : State) : Bool := s.mgmt.ledger.minimumHeld && decide (2 ≤ s.power.startStep)

/-- Before a step: its entry reads BEGUN (R354). -/
def beginStep (k : Nat) (s : State) : State :=
  let s := putStep k { attempts := 1, outcome := 1 } (s.setPower fun w => { w with startStep := k })
  if s.minimal then s.setMgmt fun m => { m with minimumSteps := m.minimumSteps + 2 ^ k } else s

/-- Steps for which R355 knows a module-level failure. -/
def countsRun (k : Nat) : Bool := k != 3 && k != 7

/-- A step's FAIL_RUN: one more after a module-level failure, 0 after a pass (R358). -/
def failRun (k : Nat) (fail : Bool) (s : State) : State :=
  let old := s.mgmt.ledger.failRun.getD k 0
  let new := if !fail then 0 else if countsRun k then min (old + 1) 255 else old
  if old = new then s else writeLedger (fun l => { l with failRun := modifyAt l.failRun k fun _ => new }) s

/-- When a step ends: its final entry and its FAIL_RUN (R354, R358). Outcomes 2 PASS, 3 PASS_REDUCED, 4 FAIL, 5 SKIPPED. -/
def endStep (k outcome variant unitsOut : Nat) (d : StepFound) (s : State) : State :=
  let v := variant + flag (s.minimal && outcome != 5) 6
  let s := putStep k { attempts := d.attempts, outcome := outcome, variant := v, duration := d.micros, unitsOut := unitsOut, detail := d.detail } s
  if outcome = 5 then s else failRun k (decide (outcome = 4)) s

/-- The record of the start before this one. -/
def State.lastStart (s : State) : Option StartRecord := (s.mgmt.starts.filter fun r => r.start != s.mgmt.ledger.startCount).getLast?
/-- UNITS_OUT of a step in the last start. -/
def State.lastOut (s : State) (k : Nat) : Nat := ((s.lastStart.map fun r => (r.steps.getD k {}).unitsOut)).getD 0
/-- Did the step fail at module level in the start before, or a unit fail in it (R355's "next start after a failure")? -/
def State.failedLast (s : State) (k : Nat) : Bool := decide (0 < s.mgmt.ledger.failRun.getD k 0) || decide (0 < s.lastOut k)

/-! ## Ends of a start (R359) -/

/-- DURATION and STATE of the record in progress (R357). -/
def closeRecord (state : Nat) (s : State) : State :=
  s.setMgmt fun m => { m with starts := modifyIf m.starts (fun r => r.start == m.ledger.startCount) fun r =>
    { r with state := state, slot := m.running, steps := m.steps, duration := ((m.steps.map StepEntry.duration).foldl (· + ·) 0) / 1000 } }

/-- The start ends in SAFE: the management core on the management port alone, FAULT_N low (R359, R395). -/
def enterSafe (s : State) : State :=
  let s := (writeLedger (fun l => { l with lastState := 3 }) s).setMgmt fun m => { m with moduleState := .safe }
  let s := (closeRecord 3 s).setUnits fun u => { u with tiles := [], clusters := [], engines := [0, 0, 0, 0], spareEngines := [] }
  { s with stackList := s.stackList.map fun k => { k with inService := false }
           power := { s.power with inStart := false, startStep := 11, faultN := false, hostReadyN := true, linkUp := false } }

/-- Did a start run the minimum configuration without reaching S10 (R359)? -/
def StartRecord.minFailed (r : StartRecord) : Bool :=
  (r.steps.any fun e => bit e.variant 6) && !([2, 3].contains (r.steps.getD 10 {}).outcome)

/-- Does the failure of this start lead to SAFE: S2 on three consecutive starts, or the minimum configuration on three (R359)? -/
def State.toSafe (s : State) : Bool :=
  let lastThree := (s.mgmt.starts.reverse.take 3)
  decide (3 ≤ s.mgmt.ledger.failRun.getD 2 0) || (s.mgmt.ledger.minimumHeld && lastThree.length == 3 && lastThree.all StartRecord.minFailed)

/-- A start that a step has failed: SAFE, or the module waits for its next start. -/
def startFails (s : State) : State :=
  let s := closeRecord 0 (s.setPower fun w => { w with startStep := 11 })
  if s.toSafe then enterSafe s else s

/-! ## Run counters (R358) -/

/-- Counters of units: one more for each that failed in this step, 0 for each that passed. -/
def tally (failed passed : Nat → Bool) (runs : List Nat) : List Nat :=
  (List.range runs.length).map fun i => if failed i then min (runs.getD i 0 + 1) 255 else if passed i then 0 else runs.getD i 0

/-- Units of a mask. -/
def unitsOf (n mask : Nat) : List Nat := (List.range n).filter fun i => bit mask i

/-- A hold mask with more units. -/
def holdMore (mask : Nat) (us : List Nat) : Nat := us.foldl (fun m i => if bit m i then m else m + 2 ^ i) mask

/-- Units whose failure in this step brings their counter to 3 (R358). -/
def reached (failed : Nat → Bool) (runs : List Nat) : List Nat := (List.range runs.length).filter fun i => failed i && decide (runs.getD i 0 = 3)

/-- Record units held out (R364 KIND 7). -/
def recordHeld (cause : Nat) (unit : Nat → Nat) (us : List Nat) (s : State) : State :=
  us.foldl (fun s i => recordRepair 7 cause (unit i) 0xFFFFFFFF 0 s) s

/-- Does a unit that passes a step clear its counter here? Not when a later step of the last start was the one it failed in (R358). -/
def State.clears (s : State) (later bitAt : Nat) : Bool := !bit (s.lastOut later) bitAt

/-- Tiles: S0 and S4 (R355). -/
def countTiles (tested failed : List Nat) (later : Bool) (s : State) : State :=
  let f := fun i => failed.contains i
  let p := fun i => tested.contains i && (!later || s.clears 4 i)
  let runs := tally f p s.mgmt.ledger.tileRun
  let held := reached f runs
  let s := if runs = s.mgmt.ledger.tileRun then s
    else writeLedger (fun l => { l with tileRun := runs, tileHold := holdMore l.tileHold held }) s
  recordHeld 2 id held s

/-- Clusters: S4. -/
def countClusters (tested failed : List Nat) (s : State) : State :=
  let f := fun i => failed.contains i
  let runs := tally f (fun i => tested.contains i) s.mgmt.ledger.clusterRun
  let held := reached f runs
  let s := if runs = s.mgmt.ledger.clusterRun then s
    else writeLedger (fun l => { l with clusterRun := runs, clusterHold := holdMore l.clusterHold held }) s
  recordHeld 2 (fun k => k / 2 + 16 * k) held s

/-- Stacks: S5 and S6. -/
def countStacks (tested failed : List Nat) (later : Bool) (cause : Nat) (s : State) : State :=
  let f := fun i => failed.contains i
  let p := fun i => tested.contains i && (!later || s.clears 6 i)
  let runs := tally f p s.mgmt.ledger.stackRun
  let held := reached f runs
  let s := if runs = s.mgmt.ledger.stackRun then s
    else writeLedger (fun l => { l with stackRun := runs, stackHold := holdMore l.stackHold held }) s
  recordHeld cause stackUnit held s

/-- Links: S7. -/
def countLinks (tested failed : List Nat) (s : State) : State :=
  let f := fun i => failed.contains i
  let runs := tally f (fun i => tested.contains i) s.mgmt.ledger.linkRun
  let held := reached f runs
  let s := if runs = s.mgmt.ledger.linkRun then s
    else writeLedger (fun l => { l with linkRun := runs, linkHold := holdMore l.linkHold held }) s
  recordHeld 5 (fun i => linkUnit i 0) held s

/-! ## S0 and S1 -/

/-- RETRY_FULL, which the next start reads and clears (R363). -/
def Ledger.retryFull (l : Ledger) : Bool := bit l.repairPolicy 1

/-- S0: a hub rail that fails leaves the module off with FAULT_N low and no ledger entry; a tile rail that fails costs its tile (R355). -/
def stepRails (d : StepFound) (s : State) : State × Bool :=
  if !d.pass then ((railsOff true s).setPower fun w => { w with faultN := false }, false)
  else
    let held := if s.mgmt.ledger.retryFull then [] else unitsOf 4 s.mgmt.ledger.tileHold
    let failed := (unitsOf 4 d.unitsOut).filter fun i => !held.contains i
    let live := (List.range 4).filter fun i => !held.contains i && !failed.contains i
    let s := s.setUnits fun u => { u with tiles := live }
    let s := s.setPower fun w => { w with pwrgd := true }
    (endStep 0 (if failed.isEmpty then 2 else 3) (flag (!held.isEmpty) 5) (mask failed) d s, true)

/-- The ledger as S1 opens it: one more start, steps found BEGUN counted, RETRY_FULL carried out, and the flags of R359. -/
def Ledger.opened (begun : Nat → Bool) (l : Ledger) : Ledger :=
  let runs := (List.range 11).map fun k => if begun k then min (l.failRun.getD k 0 + 1) 255 else l.failRun.getD k 0
  let l := { l with startCount := (l.startCount + 1) % 2 ^ 32, failRun := runs }
  if l.retryFull then
    { l with repairPolicy := l.repairPolicy - 2, tileHold := 0, clusterHold := 0, stackHold := 0, linkHold := 0
             failRun := List.replicate 11 0, stackRun := List.replicate 12 0, linkRun := List.replicate 36 0, tileRun := List.replicate 4 0
             clusterRun := List.replicate 8 0, stackRate := List.replicate 12 3, minimumHeld := false, s8Skipped := false }
  else { l with minimumHeld := l.minimumHeld || [4, 5, 6, 9, 10].any fun k => decide (3 ≤ runs.getD k 0)
                s8Skipped := l.s8Skipped || decide (3 ≤ runs.getD 8 0) }

/-- The start record is taken at the start of S1, in place of the oldest (R356); a latched trip is the cause, and is cleared (R401). -/
def openStart (cause : Nat) (s : State) : State :=
  let begun := fun k => match s.mgmt.starts.getLast? with
    | some r => (r.steps.getD k {}).outcome == 1
    | none => false
  let retry := s.mgmt.ledger.retryFull
  let s := writeLedger (Ledger.opened begun) s
  let s := s.setMgmt fun m => { m with
    starts := m.starts.drop (m.starts.length - 247) ++ [{ start := m.ledger.startCount, cause := if s.power.tripLatch then 3 else cause
                                                          slot := m.ledger.activeSlot, state := 0, duration := 0, steps := m.steps }] }
  let s := { s with settings := assocPut 0x0501 { value := s.mgmt.ledger.repairPolicy } s.settings }
  let s := s.setPower fun w => { w with tripLatch := false, thermtripN := true }
  let tiles := s.units.tiles
  let s := countTiles tiles ((unitsOf 4 (s.mgmt.steps.getD 0 {}).unitsOut)) true s
  if retry then recordRepair 12 6 0 0xFFFFFFFF 0 s else s

/-- S1: the fuses must agree; a decommissioned device ends in SAFE (R355, R359, R381). -/
def stepFuses (d : StepFound) (s : State) : State × Bool :=
  if d.pass then
    let s := endStep 1 2 0 0 d s
    if s.mgmt.decommissioned then (enterSafe s, false) else (s, true)
  else (enterSafe (endStep 1 4 0 0 d s), false)

/-! ## S2 and S3 -/

/-- Does a slot pass S2: staged in full, both signatures, no roll-back (R355, R371, R373)? -/
def Mgmt.slotPasses (m : Mgmt) (found n : Nat) : Bool :=
  ([2, 3].contains (m.slot n).state) && bit found n && decide (m.rollback ≤ (m.slot n).svn)

/-- Slot that S2 tries first: ACTIVE_SLOT, or after a failure and in the minimum configuration the one that last passed (R355, R359). -/
def State.firstSlot (s : State) : Nat :=
  if s.mgmt.ledger.minimumHeld || decide (0 < s.mgmt.ledger.failRun.getD 2 0) then s.mgmt.running else s.mgmt.ledger.activeSlot

/-- Run a slot: it is ACTIVE, and one that was is VALID. -/
def runSlot (n : Nat) (s : State) : State :=
  s.setMgmt fun m => { ((m.setSlot (1 - n) fun f => if f.state = 3 then { f with state := 2 } else f).setSlot n fun f => { f with state := 3 }) with running := n }

/-- S2: the first slot, or the other one with FW_FALLBACK raised; with neither the start fails (R355, R376). -/
def stepFirmware (d : StepFound) (f : StartFound) (s : State) : State × Bool :=
  let a := s.firstSlot
  if !d.pass then (startFails (endStep 2 4 0 0 d s), false)
  else if s.mgmt.slotPasses f.slotsPass a then
    let s := endStep 2 2 0 0 d (runSlot a s)
    (if a = s.mgmt.ledger.activeSlot then s else raiseAlarm 0x00E 0 s, true)
  else if s.mgmt.slotPasses f.slotsPass (1 - a) then
    let s := s.setMgmt fun m => m.setSlot a fun x => if x.state = 2 ∨ x.state = 3 then { x with state := 4 } else x
    let s := endStep 2 2 1 0 d (runSlot (1 - a) s)
    (if 1 - a = s.mgmt.ledger.activeSlot then s else raiseAlarm 0x00E 0 s, true)
  else (startFails (endStep 2 4 0 0 d s), false)

/-- Pages retired on a stack by the record. -/
def retiredOn (rs : List RepairEntry) (k : Nat) : Nat := (rs.filter fun r => r.kind == 6 && r.unit == stackUnit k).length

/-- A swap that an AUTO_SWAP 0 decision left pending is carried out now (R361). UNIT of lane 0 of a link below 16 reads as that of a walk engine, and is
taken as one (R364, DESIGN CHOICE, log entry 100). -/
def pendingSwap (s : State) (r : RepairEntry) : State :=
  if r.kind ≠ 11 then s
  else if 0 < r.unit / 16 % 16 then
    let k := unitCluster r.unit
    let left := s.units.spareColumns.getD k 0
    if left = 0 then s else recordRepair 2 1 r.unit (16 - left) r.detail (s.setUnits fun u => { u with spareColumns := modifyAt u.spareColumns k (· - 1) })
  else if unitLane r.unit ≠ 0 ∨ 15 < unitEngine r.unit then recordRepair 4 1 r.unit 4 r.detail s
  else
    let t := unitTile r.unit
    if s.units.spareEngines.contains t then
      recordRepair 1 1 r.unit 16 r.detail (s.setUnits fun u => { u with spareEngines := u.spareEngines.filter fun i => i != t })
    else s

/-- S3: spare engines and columns, lanes and retired pages as the record says, pending swaps, then compaction (R360, R361, R365). -/
def applyRepairs (s : State) : State :=
  let rs := compact s.mgmt.repairs
  let has := fun kind (p : RepairEntry → Bool) => rs.any fun r => r.kind == kind && p r
  let s := s.setUnits fun u => { u with
    spareEngines := u.tiles.filter fun t => !has 1 fun r => unitTile r.unit == t
    spareColumns := (List.range 8).map fun k => 16 - (rs.filter fun r => r.kind == 2 && unitCluster r.unit == k).length }
  let s := (List.range 12).foldl (fun s k => s.setStack k fun st => { st with
    spares := 16384 - retiredOn rs k, lost := retiredOn rs k - 16384, repairRows := (rs.filter fun r => r.kind == 5 && r.unit == stackUnit k).map RepairEntry.detail }) s
  let s := s.setMem fun m => { m with lostPages := ((List.range 12).map fun k => retiredOn rs k - 16384).foldl (· + ·) 0 }
  let s := (List.range 36).foldl (fun s i => if bit s.mgmt.ledger.linkHold i then s.setLink i fun l => { l with heldOut := true } else s) s
  let s := rs.foldl pendingSwap s
  compactRepairs s

def stepRepairs (d : StepFound) (s : State) : State × Bool := (endStep 3 (if d.pass then 2 else 4) 0 0 d (applyRepairs s), true)

/-! ## S4 to S6 -/

/-- SRAM rows or stack rows mapped to spares by a step (R360, R364). -/
def recordRows (step kind : Nat) (unit : Nat → Nat) (f : StartFound) (s : State) : State :=
  (f.rows.filter fun r => r.1 == step).foldl (fun s r =>
    if s.mgmt.repairs.any fun e => e.kind == kind && e.unit == unit r.2.1 && e.detail == r.2.2 then s
    else recordRepair kind 2 (unit r.2.1) r.2.2 r.2.2 s) s

/-- S4: tiles and clusters beyond their spares are out; at least one tile must keep a cluster (R355). The minimum configuration keeps the
lowest-numbered such tile (R359). -/
def stepSram (d : StepFound) (f : StartFound) (s : State) : State × Bool :=
  let l := s.mgmt.ledger
  let heldT := unitsOf 4 l.tileHold
  let heldC := unitsOf 8 l.clusterHold
  let tiles := s.units.tiles.filter fun t => !heldT.contains t
  let clusters := (List.range 8).filter fun k => tiles.contains (k / 2) && !heldC.contains k
  let badT := tiles.filter fun t => bit d.unitsOut t
  let badC := clusters.filter fun k => bit d.unitsOut (4 + k)
  let okT := tiles.filter fun t => !badT.contains t
  let okC := clusters.filter fun k => okT.contains (k / 2) && !badC.contains k
  let useT := if l.minimumHeld then (okT.filter fun t => okC.any fun k => k / 2 == t).take 1 else okT
  let useC := okC.filter fun k => useT.contains (k / 2)
  let ext := s.failedLast 4
  let s := countClusters clusters badC (countTiles tiles badT false s)
  let s := recordRows 4 3 (fun u => u) f s
  let s := s.setUnits fun u => { u with
    tiles := useT, clusters := useC, engines := (List.range 4).map fun t => if useT.contains t then 16 else 0
    spareEngines := u.spareEngines.filter fun t => useT.contains t }
  let s := f.aging.foldl agingRead s
  let out := (badT ++ badC.map (· + 4))
  let v := flag ext 3 + flag (!(heldT.isEmpty && heldC.isEmpty)) 5
  if !d.pass || okC.isEmpty then (startFails (endStep 4 4 v (mask out) d s), false)
  else (endStep 4 (if out.isEmpty then 2 else 3) v (mask out) d s, true)

/-- Rate at which a stack trains in S5, of those the step tries: fresh at 12.8; after a failure 9.6 and 6.4 too; the rate kept; 6.4 alone in the minimum
configuration (R355, R358, R359). -/
def trainedRate (min : Bool) (run kept found : Nat) : Nat :=
  if min then (if found = 1 then 1 else 0)
  else if found = 3 ∨ (0 < run ∧ (found = 1 ∨ found = 2)) ∨ (kept < 3 ∧ found = kept) then found else 0

/-- S5: each stack in service is trained; one that fails is out for this start, one that passes lower keeps that rate (R355, R358). -/
def stepTraining (d : StepFound) (f : StartFound) (s : State) : State × Bool :=
  let l := s.mgmt.ledger
  let held := unitsOf 12 l.stackHold
  let tested := (List.range 12).filter fun k => s.units.tiles.contains (k / 3) && !held.contains k
  let rate := fun k => trainedRate l.minimumHeld (l.stackRun.getD k 0) (l.stackRate.getD k 3) (f.rates.getD k 0)
  let failed := tested.filter fun k => rate k == 0
  let lowered := if l.minimumHeld then [] else tested.filter fun k => rate k != 0 && decide (rate k < l.stackRate.getD k 3)
  let stored := !l.minimumHeld && tested.any fun k => l.trained.getD k false && (decide (0 < l.stackRun.getD k 0) || decide (l.stackRate.getD k 3 < 3))
  let rates := (List.range 12).map fun k => if tested.contains k && rate k != 0 then rate k else l.stackRate.getD k 3
  let s := if l.minimumHeld || rates == l.stackRate then s else writeLedger (fun l => { l with stackRate := rates }) s
  let good := (List.range 12).map fun k => l.trained.getD k false || (tested.contains k && rate k != 0)
  let s := if good == l.trained then s else writeLedger (fun l => { l with trained := good }) s
  let s := countStacks tested failed true 5 s
  let s := lowered.foldl (fun s k => recordRepair 9 5 (stackUnit k) 0xFFFFFFFF 0 s) s
  let s := (List.range 12).foldl (fun s k => s.setStack k fun st => { st with inService := tested.contains k && rate k != 0, rate := rate k }) s
  let v := flag stored 1 + flag (!lowered.isEmpty) 2 + flag (!held.isEmpty) 5
  if !d.pass || tested.length = failed.length then (startFails (endStep 5 4 v (mask failed) d s), false)
  else (endStep 5 (if failed.isEmpty then 2 else 3) v (mask failed) d s, true)

/-- A repaired row that passes the test gives the pages retired for it back to the spare pool; which pages those are is open (R308, DESIGN CHOICE, log entry 4). -/
def returnPages (s : State) (k : Nat) : State :=
  let st := s.stackList.getD k {}
  if st.repairRows.isEmpty || !st.inService then s
  else
    let n := draw s
    n.2.setStack k fun st => { st with spares := min 16384 (st.spares + n.1 % (16384 - st.spares + 1)) }

/-- The ledger's mirror in the T1 system part, from the end of S6 on: the two copies of the block and the start records as flash holds them (R11, R356;
DEDUCED, log entry 103). -/
def State.ledgerMirror (s : State) : Option (Ledger × Ledger × List StartRecord) :=
  if [2, 3].contains (s.mgmt.steps.getD 6 {}).outcome then some (s.mgmt.ledger, s.mgmt.ledgerOld, s.mgmt.starts) else none

/-- S6: stacks that fail beyond their repair rows are out; throttle thresholds are read (R303, R308, R355). -/
def stepStacks (d : StepFound) (f : StartFound) (s : State) : State × Bool :=
  let tested := (List.range 12).filter fun k => (s.stackList.getD k {}).inService
  let failed := tested.filter fun k => bit d.unitsOut k
  let ext := s.failedLast 6
  let held := decide (0 < s.mgmt.ledger.stackHold)
  let s := countStacks tested failed false 2 s
  let s := recordRows 6 5 stackUnit f s
  let s := (f.rows.filter fun r => r.1 == 6).foldl (fun s r => s.setStack r.2.1 fun st => { st with repairRows := dedupBy id (st.repairRows ++ [r.2.2]) }) s
  let s := failed.foldl (fun s k => s.setStack k fun st => { st with inService := false }) s
  let th := (List.range 12).map fun k => f.throttle.getD k (s.mgmt.ledger.throttle.getD k 95)
  let s := if th = s.mgmt.ledger.throttle then s else writeLedger (fun l => { l with throttle := th }) s
  let s := (List.range 12).foldl (fun s k => s.setStack k fun st => { st with throttleAt := th.getD k 95 }) s
  let s := (List.range 12).foldl returnPages s
  let v := flag ext 3 + flag held 5
  if !d.pass || tested.length = failed.length then (startFails (endStep 6 4 v (mask failed) d s), false)
  else (endStep 6 (if failed.isEmpty then 2 else 3) v (mask failed) d s, true)

/-! ## S7 to S9 -/

/-- A link that has trained at S7: narrowed, or carried by its spare lane, it is recorded (R329, R364). -/
def linkAtStart (s : State) (x : LinkFound) : State :=
  -- lanes that the record has swapped out stay out (R365)
  let lanes := (List.range 5).foldl (fun a i => a + flag (bit x.lanes i && !s.mgmt.repairs.any fun r => r.kind == 4 && r.unit == linkUnit x.link i) i) 0
  let s := linkTrained x.link lanes x.latency x.hallId x.member x.partnerLink x.certOk s
  let l := s.fabric.links.getD x.link {}
  match l.state with
  | .up2 => recordRepair 8 5 (linkUnit x.link 0) 0xFFFFFFFF 0 s
  | .up4 => match (l.failedLanes.filter fun i => decide (i < 4)).head? with
    | some lane =>
      if s.mgmt.repairs.any fun r => r.kind == 4 && r.unit == linkUnit x.link lane then s else recordRepair 4 5 (linkUnit x.link lane) 4 0 s
    | none => s
  | _ => s

/-- S7: links that fail are disabled for this start; the minimum configuration skips it (R355, R359). -/
def stepLinks (d : StepFound) (f : StartFound) (s : State) : State × Bool :=
  if s.mgmt.ledger.minimumHeld then (endStep 7 5 0 0 d s, true)
  else
    let held := unitsOf 36 s.mgmt.ledger.linkHold
    let tested := (List.range 36).filter fun i => s.units.tiles.contains (i / 9) && !held.contains i
    let failed := tested.filter fun i => bit d.unitsOut i
    let s := countLinks tested failed s
    let s := failed.foldl (fun s i => s.setLink i fun l => { l with state := .disabled }) s
    let s := (f.links.filter fun x => tested.contains x.link && !failed.contains x.link).foldl linkAtStart s
    (endStep 7 (if !d.pass then 4 else if failed.isEmpty then 2 else 3) (flag (!held.isEmpty) 5) (mask failed) d s, true)

/-- S8: the join of R330 with the ledger's member number and hall; a module that has none joins nothing. One that fails runs standalone (R355, R359). -/
def stepJoin (d : StepFound) (f : StartFound) (s : State) : State × Bool :=
  let l := s.mgmt.ledger
  if l.minimumHeld || l.s8Skipped || l.hallId = 0 then (endStep 8 5 (flag (!l.minimumHeld) 4) 0 d s, true)
  else
    let t := completeJoin ((s.setFabric fun x => { x with joining := some (l.member, l.hallId) }).setFrame fun x => { x with marker := f.marker })
    if d.pass && t.fabric.joined then (endStep 8 2 0 0 d t, true)
    else (endStep 8 4 16 0 d s, true)

/-- S9: the host link at the highest rate that trains, at 32 GT/s in the minimum configuration; with PERST# low or no reference clock training waits
(R355, R359, R395, R398). -/
def stepHost (d : StepFound) (f : StartFound) (s : State) : State × Bool :=
  let rate := if s.mgmt.ledger.minimumHeld then min f.hostRate 1 else f.hostRate
  if !d.pass then (endStep 9 4 0 0 d s, true)
  else
    let s := if s.power.refclk then linkRises rate f.hostWidth (bit f.hostMode 0) (bit f.hostMode 1) (bit f.hostMode 2) s else s
    (endStep 9 2 (flag (s.power.linkUp && decide (rate < 3) && !s.mgmt.ledger.minimumHeld) 2) 0 d s, true)

/-! ## S10 (R15, R359, R373, R382) -/

/-- Is anything less than whole: a unit out or held, a stack or link lowered, the host link below ×8 at 128 GT/s, or S8 failed (R359)? -/
def State.reducedNow (s : State) : Bool :=
  let l := s.mgmt.ledger
  decide (s.units.tiles.length < 4) || decide (s.units.clusters.length < 8) || (s.stackList.any fun k => !k.inService || decide (k.rate < 3))
    || (s.fabric.links.any fun k => k.state == .up2 || k.state == .disabled) || decide (0 < l.linkHold)
    || (s.power.linkUp && (decide (s.power.rate < 3) || decide (s.power.width < 8))) || (s.mgmt.steps.getD 9 {}).outcome == 4
    || (s.mgmt.steps.getD 8 {}).outcome == 4 || l.s8Skipped

/-- The lowest SVN among the slots that are VALID or ACTIVE (R373). -/
def Mgmt.lowestSvn (m : Mgmt) : Nat :=
  let ss := ([m.slotA, m.slotB].filter fun f => f.state = 2 ∨ f.state = 3).map FwSlot.svn
  ss.foldl min (ss.headD 0)

/-- S10: command service starts with tick 1, or the tick of the fabric joined (R15, R16); the rollback count rises (R373); the start is audited (R382). -/
def stepService (d : StepFound) (s : State) : State × Bool :=
  if !d.pass then (startFails (endStep 10 4 0 0 d s), false)
  else
    let s := endStep 10 2 0 0 d s
    let st : ModuleState := if s.mgmt.ledger.minimumHeld then .minimum else if s.reducedNow then .reduced else .full
    let s := s.setMgmt fun m => { m with moduleState := st, rollback := max m.rollback m.lowestSvn }
    let s := closeRecord st.code (writeLedger (fun l => { l with lastState := st.code }) s)
    let s := auditWrite 0x10 0 8 0 0 0 (afield s.mgmt.ledger.startCount ++ slice (s.mgmt.slot s.mgmt.running).digest 0 48) s
    (((s.setPower fun w => { w with inStart := false, startStep := 11 }).setFrame fun f => { f with tick := max f.tick 1 }), true)

/-! ## The start -/

/-- One step of a start, entered (R354, R355): false when the start goes no further. -/
def runStep (k : Nat) (d : StepFound) (f : StartFound) (s : State) : State × Bool :=
  match k with
  | 0 => stepRails d s
  | 1 => stepFuses d s
  | 2 => stepFirmware d f s
  | 3 => stepRepairs d s
  | 4 => stepSram d f s
  | 5 => stepTraining d f s
  | 6 => stepStacks d f s
  | 7 => stepLinks d f s
  | 8 => stepJoin d f s
  | 9 => stepHost d f s
  | _ => stepService d s

/-- What the beginning of a step does beside its entry: S1 opens the start record, S9 pulls HOST_READY_N low (R356, R395). -/
def enterStep (cause k : Nat) (s : State) : State :=
  let s := if k = 1 then openStart cause s else s
  let s := beginStep k s
  if k = 9 then s.setPower fun w => { w with hostReadyN := false } else s

/-- Steps in order, each begun only when the one before has ended (R354). -/
def runSteps (cause : Nat) (f : StartFound) : (ks : List Nat) → State → State
  | [], s => s
  | k :: ks, s =>
    let s := enterStep cause k s
    match f.steps[k]? with
    | none => s
    | some d => let r := runStep k d f s; if r.2 then runSteps cause f ks r.1 else r.1

/-- A start from S0. -/
def startUp (cause : Nat) (f : StartFound) (s : State) : State :=
  runSteps cause f (List.range 11) ((railsOff true s).setPower fun w => { w with on := true, inStart := true, faultN := true })

/-- The board's conditions for a start hold: input within range, MOD_EN high, MOD_RST_N high (R396, R397). -/
def State.mayStart (s : State) : Bool := s.power.vinOk && s.power.modEn && s.power.modRstN && !s.power.on

/-- A step in progress exceeds its watchdog and ends FAIL (R354). A failure that R355 lets the start pass goes on; one that fails the start ends in SAFE,
or restarts the module with CAUSE 2 (R357). -/
def watchdogEnds (k : Nat) (f : StartFound) (s : State) : State :=
  if !(s.power.on && s.power.inStart && s.power.startStep == k && decide (k < 11)) then s
  else
    let d : StepFound := { pass := false, attempts := 1, unitsOut := 0, micros := 0, detail := 0 }
    let r := runStep k d f s
    if r.2 then runSteps 2 f ((List.range 11).drop (k + 1)) r.1
    else if r.1.power.on && r.1.power.inStart then startUp 2 f r.1
    else r.1

/-! ## The rows -/

def execModEnRise (f : StartFound) (s : State) : Host.Outcome State Fault Refusal :=
  act (fun s => if s.power.modEn then s else let s := s.setPower fun w => { w with modEn := true }; if s.mayStart then startUp 1 f s else s) s
def execStepWatchdog (step : Nat) (f : StartFound) (s : State) : Host.Outcome State Fault Refusal := act (watchdogEnds step f) s
def execModEnFall (s : State) : Host.Outcome State Fault Refusal :=
  act (fun s => let s := s.setPower fun w => { w with modEn := false }; if s.power.vinOk then railsOff true s else s) s
def execModRstNLow (s : State) : Host.Outcome State Fault Refusal :=
  act (fun s => let s := s.setPower fun w => { w with modRstN := false }; if s.power.vinOk then railsOff true s else s) s
def execModRstNRise (f : StartFound) (s : State) : Host.Outcome State Fault Refusal :=
  act (fun s => if s.power.modRstN then s else let s := s.setPower fun w => { w with modRstN := true }; if s.mayStart then startUp 1 f s else s) s

/-- The input leaves its range or is removed (R396). -/
def inputGone (s : State) : State := if s.power.vinOk then railsOff false (s.setPower fun w => { w with vinOk := false }) else s

def execVinRemoval (s : State) : Host.Outcome State Fault Refusal := act inputGone s
def execUndervoltage (s : State) : Host.Outcome State Fault Refusal := act inputGone s
def execOvervoltage (s : State) : Host.Outcome State Fault Refusal := act inputGone s
/-- Which sensor tripped is told by nothing the module does. -/
def execThermalTrip (_unit : Nat) (s : State) : Host.Outcome State Fault Refusal := act tripped s
def execFwActivateRestart (f : StartFound) (s : State) : Host.Outcome State Fault Refusal :=
  act (whenUp fun s => if s.mgmt.restartPending.isSome then startUp 4 f s else s) s
def execVinReturn (f : StartFound) (s : State) : Host.Outcome State Fault Refusal :=
  act (fun s => if s.power.vinOk then s
    else
      let s := s.setPower fun w => { w with vinOk := true, pwrgd := false }
      if s.mayStart then startUp 1 f s else s) s

end Sys2Proof.Machine
end

