-- ==== Sys2Proof/Machine/Dispatch.lean ====
section
/-! DEFINITION. Every command of the table and its meaning: one arm per constructor, one definition per arm. -/

namespace Sys2Proof.Machine

open Sys2Proof

def exec (i : Instr) (s : State) : Host.Outcome State Fault Refusal :=
  match i with
  | .pad q => Sys2Proof.Machine.execPad q s
  | .negotiate q => Sys2Proof.Machine.execNegotiate q s
  | .identify q => Sys2Proof.Machine.execIdentify q s
  | .nopEcho q => Sys2Proof.Machine.execNopEcho q s
  | .getTick q => Sys2Proof.Machine.execGetTick q s
  | .redeliver q => Sys2Proof.Machine.execRedeliver q s
  | .channelCreate q => Sys2Proof.Machine.execChannelCreate q s
  | .channelDestroy q => Sys2Proof.Machine.execChannelDestroy q s
  | .channelStatus q => Sys2Proof.Machine.execChannelStatus q s
  | .channelRebind q => Sys2Proof.Machine.execChannelRebind q s
  | .search q => Sys2Proof.Machine.execSearch q s
  | .searchBatch q => Sys2Proof.Machine.execSearchBatch q s
  | .searchEncoded q => Sys2Proof.Machine.execSearchEncoded q s
  | .indexDefine q => Sys2Proof.Machine.execIndexDefine q s
  | .insert q => Sys2Proof.Machine.execInsert q s
  | .delete q => Sys2Proof.Machine.execDelete q s
  | .merge q => Sys2Proof.Machine.execMerge q s
  | .bulkLoad q => Sys2Proof.Machine.execBulkLoad q s
  | .indexStat q => Sys2Proof.Machine.execIndexStat q s
  | .tableDefine q => Sys2Proof.Machine.execTableDefine q s
  | .gather q => Sys2Proof.Machine.execGather q s
  | .replaceRows q => Sys2Proof.Machine.execReplaceRows q s
  | .addRows q => Sys2Proof.Machine.execAddRows q s
  | .optimiseRows q => Sys2Proof.Machine.execOptimiseRows q s
  | .kernelLoad q => Sys2Proof.Machine.execKernelLoad q s
  | .kernelRun q => Sys2Proof.Machine.execKernelRun q s
  | .kernelUnload q => Sys2Proof.Machine.execKernelUnload q s
  | .objAlloc q => Sys2Proof.Machine.execObjAlloc q s
  | .objFree q => Sys2Proof.Machine.execObjFree q s
  | .objPlace q => Sys2Proof.Machine.execObjPlace q s
  | .prefetchPlan q => Sys2Proof.Machine.execPrefetchPlan q s
  | .regionRegister q => Sys2Proof.Machine.execRegionRegister q s
  | .regionRelease q => Sys2Proof.Machine.execRegionRelease q s
  | .objCopy q => Sys2Proof.Machine.execObjCopy q s
  | .listMerge q => Sys2Proof.Machine.execListMerge q s
  | .fabricStatus q => Sys2Proof.Machine.execFabricStatus q s
  | .fabricJoin q => Sys2Proof.Machine.execFabricJoin q s
  | .fabricLeave q => Sys2Proof.Machine.execFabricLeave q s
  | .linkControl q => Sys2Proof.Machine.execLinkControl q s
  | .set q => Sys2Proof.Machine.execSet q s
  | .get q => Sys2Proof.Machine.execGet q s
  | .logRead q => Sys2Proof.Machine.execLogRead q s
  | .countersRead q => Sys2Proof.Machine.execCountersRead q s
  | .alarmAck q => Sys2Proof.Machine.execAlarmAck q s
  | .roleAssume q => Sys2Proof.Machine.execRoleAssume q s
  | .roleDrop q => Sys2Proof.Machine.execRoleDrop q s
  | .attest q => Sys2Proof.Machine.execAttest q s
  | .auditRead q => Sys2Proof.Machine.execAuditRead q s
  | .fwStage q => Sys2Proof.Machine.execFwStage q s
  | .fwActivate q => Sys2Proof.Machine.execFwActivate q s
  | .fwStatus q => Sys2Proof.Machine.execFwStatus q s
  | .abort q => Sys2Proof.Machine.execAbort q s
  | .testMode q => Sys2Proof.Machine.execTestMode q s
  | .fuseProgram q => Sys2Proof.Machine.execFuseProgram q s
  | .identityProvision q => Sys2Proof.Machine.execIdentityProvision q s
  | .identityRotate q => Sys2Proof.Machine.execIdentityRotate q s
  | .decommission q => Sys2Proof.Machine.execDecommission q s
  | .loop c o => Sys2Proof.Machine.execLoop c o s
  | .loopx c o => Sys2Proof.Machine.execLoopx c o s
  | .branch c o => Sys2Proof.Machine.execBranch c o s
  | .brk c o => Sys2Proof.Machine.execBrk c o s
  | .wait c o => Sys2Proof.Machine.execWait c o s
  | .phase c o => Sys2Proof.Machine.execPhase c o s
  | .kend c o => Sys2Proof.Machine.execKend c o s
  | .aadd c o => Sys2Proof.Machine.execAadd c o s
  | .aaddi c o => Sys2Proof.Machine.execAaddi c o s
  | .xadd c o => Sys2Proof.Machine.execXadd c o s
  | .xsub c o => Sys2Proof.Machine.execXsub c o s
  | .xshl c o => Sys2Proof.Machine.execXshl c o s
  | .xshr c o => Sys2Proof.Machine.execXshr c o s
  | .xsra c o => Sys2Proof.Machine.execXsra c o s
  | .xcmp c o => Sys2Proof.Machine.execXcmp c o s
  | .xset c o => Sys2Proof.Machine.execXset c o s
  | .xgetl c o => Sys2Proof.Machine.execXgetl c o s
  | .pand c o => Sys2Proof.Machine.execPand c o s
  | .por c o => Sys2Proof.Machine.execPor c o s
  | .pnot c o => Sys2Proof.Machine.execPnot c o s
  | .start c o => Sys2Proof.Machine.execStart c o s
  | .stop c o => Sys2Proof.Machine.execStop c o s
  | .release c o => Sys2Proof.Machine.execRelease c o s
  | .mma c o => Sys2Proof.Machine.execMma c o s
  | .binary c o => Sys2Proof.Machine.execBinary c o s
  | .lutBuild c o => Sys2Proof.Machine.execLutBuild c o s
  | .lutScan c o => Sys2Proof.Machine.execLutScan c o s
  | .swap c o => Sys2Proof.Machine.execSwap c o s
  | .drain c o => Sys2Proof.Machine.execDrain c o s
  | .preloadTile c o => Sys2Proof.Machine.execPreloadTile c o s
  | .preloadRow c o => Sys2Proof.Machine.execPreloadRow c o s
  | .topk c o => Sys2Proof.Machine.execTopk c o s
  | .bottomk c o => Sys2Proof.Machine.execBottomk c o s
  | .argmax c o => Sys2Proof.Machine.execArgmax c o s
  | .argmin c o => Sys2Proof.Machine.execArgmin c o s
  | .rowmax c o => Sys2Proof.Machine.execRowmax c o s
  | .collect c o => Sys2Proof.Machine.execCollect c o s
  | .cmdStreamEnable port stream value => Sys2Proof.Machine.execCmdStreamEnable port stream value s
  | .cmdStreamDrain port stream value => Sys2Proof.Machine.execCmdStreamDrain port stream value s
  | .replyStreamEnable port stream value => Sys2Proof.Machine.execReplyStreamEnable port stream value s
  | .replyStreamDisable port stream value => Sys2Proof.Machine.execReplyStreamDisable port stream value s
  | .registerWrite port offset size value => Sys2Proof.Machine.execRegisterWrite port offset size value s
  | .msixUnmask port vector => Sys2Proof.Machine.execMsixUnmask port vector s
  | .snoopInvalidate port line hw => Sys2Proof.Machine.execSnoopInvalidate port line hw s
  | .tailPoll port reply stream hw => Sys2Proof.Machine.execTailPoll port reply stream hw s
  | .streamFault port stream cause tag => Sys2Proof.Machine.execStreamFault port stream cause tag s
  | .reserveReplyRecord port stream hw => Sys2Proof.Machine.execReserveReplyRecord port stream hw s
  | .apertureWrite port requester memory offset data => Sys2Proof.Machine.execApertureWrite port requester memory offset data s
  | .apertureRead port requester offset len => Sys2Proof.Machine.execApertureRead port requester offset len s
  | .perstNAssert pin => Sys2Proof.Machine.execPerstNAssert pin s
  | .perstNDeassert refclk => Sys2Proof.Machine.execPerstNDeassert refclk s
  | .functionLevelReset port => Sys2Proof.Machine.execFunctionLevelReset port s
  | .vfEnableClear => Sys2Proof.Machine.execVfEnableClear s
  | .busMasterEnableClear port d3 => Sys2Proof.Machine.execBusMasterEnableClear port d3 s
  | .completionTimeout => Sys2Proof.Machine.execCompletionTimeout s
  | .hostRefclkLoss => Sys2Proof.Machine.execHostRefclkLoss s
  | .preparationComplete id => Sys2Proof.Machine.execPreparationComplete id s
  | .auditEntryDurable ok => Sys2Proof.Machine.execAuditEntryDurable ok s
  | .tickBoundary => Sys2Proof.Machine.execTickBoundary s
  | .admissionWaitExpiry id => Sys2Proof.Machine.execAdmissionWaitExpiry id s
  | .spaceRelease => Sys2Proof.Machine.execSpaceRelease s
  | .channelFree slot => Sys2Proof.Machine.execChannelFree slot s
  | .cutOff => Sys2Proof.Machine.execCutOff s
  | .exactLimit => Sys2Proof.Machine.execExactLimit s
  | .listLimit => Sys2Proof.Machine.execListLimit s
  | .jobStalled job => Sys2Proof.Machine.execJobStalled job s
  | .adjacencyBlockReturn engine reg err => Sys2Proof.Machine.execAdjacencyBlockReturn engine reg err s
  | .walkSeed walk => Sys2Proof.Machine.execWalkSeed walk s
  | .tombstoneReadReturn walk slot target err => Sys2Proof.Machine.execTombstoneReadReturn walk slot target err s
  | .sideListScanPass index shard => Sys2Proof.Machine.execSideListScanPass index shard s
  | .sideListPassComplete index shard bad => Sys2Proof.Machine.execSideListPassComplete index shard bad s
  | .rescoring walk bad => Sys2Proof.Machine.execRescoring walk bad s
  | .exactReadReturn walk cand err => Sys2Proof.Machine.execExactReadReturn walk cand err s
  | .exactReadsLate walk => Sys2Proof.Machine.execExactReadsLate walk s
  | .mergeSlice index shard => Sys2Proof.Machine.execMergeSlice index shard s
  | .gatherRowReturn cmd read err => Sys2Proof.Machine.execGatherRowReturn cmd read err s
  | .gatherRowLate cmd read => Sys2Proof.Machine.execGatherRowLate cmd read s
  | .kernelPhaseStart cluster => Sys2Proof.Machine.execKernelPhaseStart cluster s
  | .ringSlotArrival cluster ring gen err => Sys2Proof.Machine.execRingSlotArrival cluster ring gen err s
  | .writeAck cluster ring => Sys2Proof.Machine.execWriteAck cluster ring s
  | .ringLate cluster ring => Sys2Proof.Machine.execRingLate cluster ring s
  | .phaseDeclaredLate cmd => Sys2Proof.Machine.execPhaseDeclaredLate cmd s
  | .splitPartialArrival home src tile => Sys2Proof.Machine.execSplitPartialArrival home src tile s
  | .keepHoldExpiry cmd => Sys2Proof.Machine.execKeepHoldExpiry cmd s
  | .pageCopy object page bad => Sys2Proof.Machine.execPageCopy object page bad s
  | .pageFull object page => Sys2Proof.Machine.execPageFull object page s
  | .pageExpansion object page write => Sys2Proof.Machine.execPageExpansion object page write s
  | .expansionWait object page => Sys2Proof.Machine.execExpansionWait object page s
  | .stackTempReport stack temp => Sys2Proof.Machine.execStackTempReport stack temp s
  | .stackSensorTimeout stack => Sys2Proof.Machine.execStackSensorTimeout stack s
  | .patrolScrub stack object page granule outcome => Sys2Proof.Machine.execPatrolScrub stack object page granule outcome s
  | .read h tag addr granules => Sys2Proof.Machine.execRead h tag addr granules s
  | .readResp h tag data => Sys2Proof.Machine.execReadResp h tag data s
  | .write h addr data => Sys2Proof.Machine.execWrite h addr data s
  | .atomicAddI32 h addr data => Sys2Proof.Machine.execAtomicAddI32 h addr data s
  | .atomicAddI64 h addr data => Sys2Proof.Machine.execAtomicAddI64 h addr data s
  | .atomicAddF32 h addr data => Sys2Proof.Machine.execAtomicAddF32 h addr data s
  | .atomicAddBf16 h addr data => Sys2Proof.Machine.execAtomicAddBf16 h addr data s
  | .atomicSwap h tag addr data => Sys2Proof.Machine.execAtomicSwap h tag addr data s
  | .atomicCas h tag addr data => Sys2Proof.Machine.execAtomicCas h tag addr data s
  | .rowAdd h table row dfmt delta => Sys2Proof.Machine.execRowAdd h table row dfmt delta s
  | .rowStep h table row dfmt block gradient => Sys2Proof.Machine.execRowStep h table row dfmt block gradient s
  | .atomicResp h tag data => Sys2Proof.Machine.execAtomicResp h tag data s
  | .ack h upTo => Sys2Proof.Machine.execAck h upTo s
  | .walk h w => Sys2Proof.Machine.execWalk h w s
  | .cancel h index => Sys2Proof.Machine.execCancel h index s
  | .refused h shard => Sys2Proof.Machine.execRefused h shard s
  | .partialList h l => Sys2Proof.Machine.execPartialList h l s
  | .linkInfo link live => Sys2Proof.Machine.execLinkInfo link live s
  | .join link hallId member certOk => Sys2Proof.Machine.execJoin link hallId member certOk s
  | .badType h code => Sys2Proof.Machine.execBadType h code s
  | .transitForward h typ payload members => Sys2Proof.Machine.execTransitForward h typ payload members s
  | .pktResend dst pairSeq => Sys2Proof.Machine.execPktResend dst pairSeq s
  | .flitReplay link => Sys2Proof.Machine.execFlitReplay link s
  | .markerFlit link m errNs => Sys2Proof.Machine.execMarkerFlit link m errNs s
  | .linkControlFlit link kind value => Sys2Proof.Machine.execLinkControlFlit link kind value s
  | .leaderLost => Sys2Proof.Machine.execLeaderLost s
  | .linkLatencyMeasure link ns => Sys2Proof.Machine.execLinkLatencyMeasure link ns s
  | .tickRefEdge offsetNs => Sys2Proof.Machine.execTickRefEdge offsetNs s
  | .tickRefLost => Sys2Proof.Machine.execTickRefLost s
  | .laneErrorReport link lane failed => Sys2Proof.Machine.execLaneErrorReport link lane failed s
  | .linkTrained link lanes latency hallId member partnerLink certOk => Sys2Proof.Machine.execLinkTrained link lanes latency hallId member partnerLink certOk s
  | .agingMonitorRead readings => Sys2Proof.Machine.execAgingMonitorRead readings s
  | .telemetrySample readings => Sys2Proof.Machine.execTelemetrySample readings s
  | .controlBarSaturated => Sys2Proof.Machine.execControlBarSaturated s
  | .coalesceWindowClose code subject => Sys2Proof.Machine.execCoalesceWindowClose code subject s
  | .lockoutEnd => Sys2Proof.Machine.execLockoutEnd s
  | .mctpControl endpoint msg => Sys2Proof.Machine.execMctpControl endpoint msg s
  | .discardedMctpMessage typ => Sys2Proof.Machine.execDiscardedMctpMessage typ s
  | .dynamicAddressAssignment addr => Sys2Proof.Machine.execDynamicAddressAssignment addr s
  | .getVersion via msg => Sys2Proof.Machine.execGetVersion via msg s
  | .getCapabilities via msg => Sys2Proof.Machine.execGetCapabilities via msg s
  | .negotiateAlgorithms via msg => Sys2Proof.Machine.execNegotiateAlgorithms via msg s
  | .getDigests via msg => Sys2Proof.Machine.execGetDigests via msg s
  | .getCertificate via msg => Sys2Proof.Machine.execGetCertificate via msg s
  | .challenge via msg => Sys2Proof.Machine.execChallenge via msg s
  | .getMeasurements via msg => Sys2Proof.Machine.execGetMeasurements via msg s
  | .modEnRise f => Sys2Proof.Machine.execModEnRise f s
  | .stepWatchdog step f => Sys2Proof.Machine.execStepWatchdog step f s
  | .modEnFall => Sys2Proof.Machine.execModEnFall s
  | .modRstNLow => Sys2Proof.Machine.execModRstNLow s
  | .modRstNRise f => Sys2Proof.Machine.execModRstNRise f s
  | .vinRemoval => Sys2Proof.Machine.execVinRemoval s
  | .undervoltage => Sys2Proof.Machine.execUndervoltage s
  | .overvoltage => Sys2Proof.Machine.execOvervoltage s
  | .thermalTrip unit => Sys2Proof.Machine.execThermalTrip unit s
  | .fwActivateRestart f => Sys2Proof.Machine.execFwActivateRestart f s
  | .vinReturn f => Sys2Proof.Machine.execVinReturn f s
  | .hostLinkUp rate width flit cxlIo cxlCache => Sys2Proof.Machine.execHostLinkUp rate width flit cxlIo cxlCache s
  | .busMasterEnableSet port what => Sys2Proof.Machine.execBusMasterEnableSet port what s
  | .cxlCacheDisabled => Sys2Proof.Machine.execCxlCacheDisabled s
  | .flashEraseEnd => Sys2Proof.Machine.execFlashEraseEnd s

end Sys2Proof.Machine
end

