-- ==== Sys2Proof/WellFormed.lean ====
section
/-! DEFINITION. Which commands are well formed: every operand fits the field that carries it, or names something the block can have (R34, R36, R53,
R100, R214–R220, R302, R312, R321, R329, R354). An ill-formed term stands for nothing that can reach the block. -/

namespace Sys2Proof

/-- Every value fits the field of that many bits. -/
def fits : List (Nat × Nat) → Bool
  | [] => true
  | (v, w) :: rest => decide (v < 2 ^ w) && fits rest

/-- A command packet's header fields (R53), its access point (R34, R367) and stream (R36; on the management port an endpoint, R369), and its length:
the header and the parameters, in 16-byte units (R50). -/
def Pkt.wf (q : Pkt) : Bool :=
  decide (q.access ≤ 8) && (if q.access < 8 then decide (q.stream < 4) else decide (q.stream < 256))
    && fits [(q.archLevel, 8), (q.flags, 8), (q.pktLen, 16), (q.rsv, 16), (q.tag, 32), (q.handle, 32), (q.deadline, 32), (q.seq, 32), (q.growth, 64)]
    && q.params.length + 32 == 16 * q.pktLen && decide (q.pktLen ≤ 4096)

/-- A number of a cluster (R2). -/
def clusterOk (c : Nat) : Bool := decide (c < 8)

def CtrlOp.wf (o : CtrlOp) : Bool := fits [(o.guard, 4), (o.lreg, 4), (o.xreg, 4), (o.target, 14), (o.count, 16)]
def AddrOp.wf (o : AddrOp) : Bool := fits [(o.guard, 4), (o.d, 5), (o.s1, 5), (o.s2, 5), (o.aux, 4), (o.imm, 44)]
def MoveOp.wf (o : MoveOp) : Bool := fits [(o.side, 1), (o.guard, 4), (o.ring, 4), (o.areg, 5), (o.xreg, 4), (o.len, 16)]
def ArrayOp.wf (o : ArrayOp) : Bool :=
  fits [(o.guard, 4), (o.fmtA, 4), (o.fmtB, 4), (o.group, 2), (o.tile, 7), (o.ringA, 4), (o.ringB, 4), (o.steps, 16), (o.xsteps, 4), (o.accExp, 10),
    (o.ringSA, 4), (o.ringSB, 4), (o.ringOA, 4), (o.ringOB, 4), (o.splitId, 3), (o.list, 4)]
def EpiOp.wf (o : EpiOp) : Bool :=
  fits [(o.guard, 4), (o.tile, 7), (o.odesc, 4), (o.xrow, 4), (o.xcol, 4), (o.alphaMode, 2), (o.alphaRing, 4), (o.biasMode, 2), (o.biasRing, 4),
    (o.rowoffMode, 2), (o.rowoffRing, 4), (o.act, 4), (o.actP, 16), (o.splitId, 3), (o.imm, 44)]
def SelOp.wf (o : SelOp) : Bool := fits [(o.guard, 4), (o.k, 12), (o.xk, 4), (o.ringOut, 4), (o.splitId, 3)]

/-- A fabric packet's header (R321): class 3 is reserved. -/
def FabHdr.wf (h : FabHdr) : Bool :=
  decide (h.cls < 3) && fits [(h.src, 11), (h.dst, 11), (h.pairSeq, 16), (h.coord, 11), (h.query, 32), (h.admitTick, 48), (h.deadline, 8)]

/-- A host write lies in the 64-bit address space. -/
def HostWrite.wf (w : HostWrite) : Bool := decide (w.addr + w.data.length ≤ 2 ^ 64)
/-- Ports have numbers 0 to 7 (R34). -/
def portOk (p : Nat) : Bool := decide (p < 8)
/-- Links have numbers 0 to 35 (R312), lanes 0 to 4 (R329). -/
def linkOk (l : Nat) : Bool := decide (l < 36)
def WalkMsg.wf (w : WalkMsg) : Bool := fits [(w.index, 32), (w.k - 1, 12), (w.width - 1, 3), (w.budget, 11), (w.escalation, 11), (w.exact - 1, 8)]
def ListMsg.wf (l : ListMsg) : Bool :=
  decide (1 ≤ l.cause) && decide (l.cause ≤ 6) && fits [(l.shard, 11), (l.tier, 2), (l.candidates, 10), (l.exactScores, 9)]
def Marker.wf (m : Marker) : Bool := fits [(m.tick, 48), (m.period, 16), (m.guard, 16), (m.leader, 11)]
/-- A start finds at most eleven steps (R354), and rates of R357. -/
def StartFound.wf (f : StartFound) : Bool :=
  decide (f.steps.length ≤ 11) && decide (f.slotsPass < 4) && (f.rates.all fun r => decide (r < 4)) && decide (f.hostRate < 4) && decide (f.hostWidth ≤ 8)
    && (f.links.all fun l => linkOk l.link && decide (l.lanes < 32))

/-- Is a command well formed? -/
def Instr.wf : Instr → Bool
  | .pad q => q.wf
  | .negotiate q => q.wf
  | .identify q => q.wf
  | .nopEcho q => q.wf
  | .getTick q => q.wf
  | .redeliver q => q.wf
  | .channelCreate q => q.wf
  | .channelDestroy q => q.wf
  | .channelStatus q => q.wf
  | .channelRebind q => q.wf
  | .search q => q.wf
  | .searchBatch q => q.wf
  | .searchEncoded q => q.wf
  | .indexDefine q => q.wf
  | .insert q => q.wf
  | .delete q => q.wf
  | .merge q => q.wf
  | .bulkLoad q => q.wf
  | .indexStat q => q.wf
  | .tableDefine q => q.wf
  | .gather q => q.wf
  | .replaceRows q => q.wf
  | .addRows q => q.wf
  | .optimiseRows q => q.wf
  | .kernelLoad q => q.wf
  | .kernelRun q => q.wf
  | .kernelUnload q => q.wf
  | .objAlloc q => q.wf
  | .objFree q => q.wf
  | .objPlace q => q.wf
  | .prefetchPlan q => q.wf
  | .regionRegister q => q.wf
  | .regionRelease q => q.wf
  | .objCopy q => q.wf
  | .listMerge q => q.wf
  | .fabricStatus q => q.wf
  | .fabricJoin q => q.wf
  | .fabricLeave q => q.wf
  | .linkControl q => q.wf
  | .set q => q.wf
  | .get q => q.wf
  | .logRead q => q.wf
  | .countersRead q => q.wf
  | .alarmAck q => q.wf
  | .roleAssume q => q.wf
  | .roleDrop q => q.wf
  | .attest q => q.wf
  | .auditRead q => q.wf
  | .fwStage q => q.wf
  | .fwActivate q => q.wf
  | .fwStatus q => q.wf
  | .abort q => q.wf
  | .testMode q => q.wf
  | .fuseProgram q => q.wf
  | .identityProvision q => q.wf
  | .identityRotate q => q.wf
  | .decommission q => q.wf
  | .loop c o => clusterOk c && o.wf
  | .loopx c o => clusterOk c && o.wf
  | .branch c o => clusterOk c && o.wf
  | .brk c o => clusterOk c && o.wf
  | .wait c o => clusterOk c && o.wf
  | .phase c o => clusterOk c && o.wf
  | .kend c o => clusterOk c && o.wf
  | .aadd c o => clusterOk c && o.wf
  | .aaddi c o => clusterOk c && o.wf
  | .xadd c o => clusterOk c && o.wf
  | .xsub c o => clusterOk c && o.wf
  | .xshl c o => clusterOk c && o.wf
  | .xshr c o => clusterOk c && o.wf
  | .xsra c o => clusterOk c && o.wf
  | .xcmp c o => clusterOk c && o.wf
  | .xset c o => clusterOk c && o.wf
  | .xgetl c o => clusterOk c && o.wf
  | .pand c o => clusterOk c && o.wf
  | .por c o => clusterOk c && o.wf
  | .pnot c o => clusterOk c && o.wf
  | .start c o => clusterOk c && o.wf
  | .stop c o => clusterOk c && o.wf
  | .release c o => clusterOk c && o.wf
  | .mma c o => clusterOk c && o.op.wf
  | .binary c o => clusterOk c && o.op.wf
  | .lutBuild c o => clusterOk c && o.wf
  | .lutScan c o => clusterOk c && o.op.wf
  | .swap c o => clusterOk c && o.wf
  | .drain c o => clusterOk c && o.op.wf
  | .preloadTile c o => clusterOk c && o.wf
  | .preloadRow c o => clusterOk c && o.wf
  | .topk c o => clusterOk c && o.op.wf
  | .bottomk c o => clusterOk c && o.op.wf
  | .argmax c o => clusterOk c && o.op.wf
  | .argmin c o => clusterOk c && o.op.wf
  | .rowmax c o => clusterOk c && o.op.wf
  | .collect c o => clusterOk c && o.op.wf
  | .cmdStreamEnable port stream value => portOk port && decide (stream < 4) && decide (value < 2 ^ 64)
  | .cmdStreamDrain port stream value => portOk port && decide (stream < 4) && decide (value < 2 ^ 64)
  | .replyStreamEnable port stream value => portOk port && decide (stream < 2) && decide (value < 2 ^ 64)
  | .replyStreamDisable port stream value => portOk port && decide (stream < 2) && decide (value < 2 ^ 64)
  | .registerWrite port _ _ value => portOk port && decide (value < 2 ^ 64)
  | .msixUnmask port vector => portOk port && decide (vector < 4)
  | .snoopInvalidate port _ hw => portOk port && hw.all HostWrite.wf
  | .tailPoll port _ stream hw => portOk port && decide (stream < 4) && hw.all HostWrite.wf
  | .streamFault port stream cause tag => portOk port && decide (stream < 4) && decide (cause < 16) && decide (tag < 2 ^ 32)
  | .reserveReplyRecord port stream hw => portOk port && decide (stream < 4) && hw.all HostWrite.wf
  | .apertureWrite port _ _ _ _ => portOk port
  | .apertureRead port _ _ _ => portOk port
  | .perstNAssert _ => true
  | .perstNDeassert _ => true
  | .functionLevelReset port => portOk port
  | .vfEnableClear => true
  | .busMasterEnableClear port _ => portOk port
  | .completionTimeout => true
  | .hostRefclkLoss => true
  | .preparationComplete _ => true
  | .auditEntryDurable _ => true
  | .tickBoundary => true
  | .admissionWaitExpiry _ => true
  | .spaceRelease => true
  | .channelFree slot => decide (slot < 16384)
  | .cutOff => true
  | .exactLimit => true
  | .listLimit => true
  | .jobStalled _ => true
  | .adjacencyBlockReturn engine reg err => decide (engine < 64) && decide (reg < 8) && decide (err ≤ 2)
  | .walkSeed _ => true
  | .tombstoneReadReturn _ _ _ err => decide (err ≤ 2)
  | .sideListScanPass _ _ => true
  | .sideListPassComplete _ _ _ => true
  | .rescoring _ _ => true
  | .exactReadReturn _ _ _ => true
  | .exactReadsLate _ => true
  | .mergeSlice _ _ => true
  | .gatherRowReturn _ _ _ => true
  | .gatherRowLate _ _ => true
  | .kernelPhaseStart cluster => clusterOk cluster
  | .ringSlotArrival cluster ring _ _ => clusterOk cluster && decide (ring < 16)
  | .writeAck cluster ring => clusterOk cluster && decide (ring < 16)
  | .ringLate cluster ring => clusterOk cluster && decide (ring < 16)
  | .phaseDeclaredLate _ => true
  | .splitPartialArrival home _ _ => clusterOk home
  | .keepHoldExpiry _ => true
  | .pageCopy _ _ _ => true
  | .pageFull _ _ => true
  | .pageExpansion _ _ _ => true
  | .expansionWait _ _ => true
  | .stackTempReport stack _ => decide (stack < 12)
  | .stackSensorTimeout stack => decide (stack < 12)
  | .patrolScrub stack _ _ granule outcome => decide (stack < 12) && decide (granule < 256) && decide (outcome < 3)
  | .read h tag addr _ => h.wf && decide (tag < 2 ^ 16) && decide (addr < 2 ^ 64)
  | .readResp h tag _ => h.wf && decide (tag < 2 ^ 16)
  | .write h addr _ => h.wf && decide (addr < 2 ^ 64)
  | .atomicAddI32 h addr _ => h.wf && decide (addr < 2 ^ 64)
  | .atomicAddI64 h addr _ => h.wf && decide (addr < 2 ^ 64)
  | .atomicAddF32 h addr _ => h.wf && decide (addr < 2 ^ 64)
  | .atomicAddBf16 h addr _ => h.wf && decide (addr < 2 ^ 64)
  | .atomicSwap h tag addr _ => h.wf && decide (tag < 2 ^ 16) && decide (addr < 2 ^ 64)
  | .atomicCas h tag addr _ => h.wf && decide (tag < 2 ^ 16) && decide (addr < 2 ^ 64)
  | .rowAdd h _ _ _ _ => h.wf
  | .rowStep h _ _ _ _ _ => h.wf
  | .atomicResp h tag _ => h.wf && decide (tag < 2 ^ 16)
  | .ack h _ => h.wf
  | .walk h w => h.wf && w.wf
  | .cancel h _ => h.wf
  | .refused h _ => h.wf
  | .partialList h l => h.wf && l.wf
  | .linkInfo link _ => linkOk link
  | .join link hallId member _ => linkOk link && decide (hallId < 2 ^ 64) && decide (member < 2048)
  | .badType h _ => h.wf
  | .transitForward h _ _ _ => h.wf
  | .pktResend dst pairSeq => decide (dst < 2048) && decide (pairSeq < 2 ^ 16)
  | .flitReplay link => linkOk link
  | .markerFlit link m _ => linkOk link && m.wf
  | .linkControlFlit link _ _ => linkOk link
  | .leaderLost => true
  | .linkLatencyMeasure link _ => linkOk link
  | .tickRefEdge _ => true
  | .tickRefLost => true
  | .laneErrorReport link lane _ => linkOk link && decide (lane < 5)
  | .linkTrained link lanes _ hallId member partnerLink _ => linkOk link && decide (lanes < 32) && decide (hallId < 2 ^ 64) && decide (member < 2048) && linkOk partnerLink
  | .agingMonitorRead _ => true
  | .telemetrySample _ => true
  | .controlBarSaturated => true
  | .coalesceWindowClose _ _ => true
  | .lockoutEnd => true
  | .mctpControl endpoint _ => decide (endpoint < 256)
  | .discardedMctpMessage _ => true
  | .dynamicAddressAssignment addr => decide (addr < 128)
  | .getVersion _ _ => true
  | .getCapabilities _ _ => true
  | .negotiateAlgorithms _ _ => true
  | .getDigests _ _ => true
  | .getCertificate _ _ => true
  | .challenge _ _ => true
  | .getMeasurements _ _ => true
  | .modEnRise f => f.wf
  | .stepWatchdog step f => decide (step < 11) && f.wf
  | .modEnFall => true
  | .modRstNLow => true
  | .modRstNRise f => f.wf
  | .vinRemoval => true
  | .undervoltage => true
  | .overvoltage => true
  | .thermalTrip _ => true
  | .fwActivateRestart f => f.wf
  | .vinReturn f => f.wf
  | .hostLinkUp rate width _ _ _ => decide (rate < 4) && decide (width ≤ 8)
  | .busMasterEnableSet port what => portOk port && decide (what < 3)
  | .cxlCacheDisabled => true
  | .flashEraseEnd => true

end Sys2Proof
end

