-- ==== Sys2Proof/Safety.lean ====
section
/-! DEFINITION. The terms that claims use: the state a command leaves, what stays canonical, a safe run, and when a command packet is accepted. -/

namespace Sys2Proof.Machine

/-- The state that a command leaves which makes `t` of `s`: the queue as it stood, the writes to host memory made in order (R59). -/
def leaves (s t : State) : State := { t with pending := s.pending, hostMem := postAll s.hostMem t.posted, posted := [] }

/-- Host memory is in its canonical form, and no write of a finished step is left over. -/
def State.Canonical (s : State) : Prop := s.hostMem.wf = true ∧ s.posted = []

/-- A run that never stops: the manual ends every failure in a reply, an event or a counter (R61). -/
def Safe (s : State) : Prop := ∀ n, ∃ t, Host.Core.run Sys2Proof.core n s = .next t

/-- Commands that act on a module whose rails are off or whose start is not over: its power pins, PERST# and a watchdog. -/
def powerCommand : Instr → Bool
  | .modEnRise _ | .stepWatchdog _ _ | .modEnFall | .modRstNLow | .modRstNRise _ | .vinRemoval | .undervoltage | .overvoltage | .thermalTrip _
  | .vinReturn _ | .perstNAssert _ | .perstNDeassert _ => true
  | _ => false

/-! ## The management port before tick 1 (R367, R368, R380) -/

/-- Commands by which a message other than a command packet comes over the management bus, or an SPDM request over DOE. -/
def busCommand : Instr → Bool
  | .mctpControl _ _ | .discardedMctpMessage _ | .dynamicAddressAssignment _ | .getVersion _ _ | .getCapabilities _ _ | .negotiateAlgorithms _ _
  | .getDigests _ _ | .getCertificate _ _ | .challenge _ _ | .getMeasurements _ _ => true
  | _ => false

/-! ## Command packets (R50–R61) -/

/-- The module after a packet's SEQ is noted and a reply record reserved (R50, R52). -/
def State.noted (s : State) (q : Pkt) : State := (reserveRecord q (noteSeq q s)).1

/-- The command a packet becomes, in a given place of its life. -/
def State.cmdOf (s : State) (op : Nat) (q : Pkt) (st : CmdState) : Cmd :=
  let a := s.noted q
  { id := a.freshId, op := op, q := q, epoch := (a.port q.access).epoch, rstream := a.replyOf q, reserved := (reserveRecord q (noteSeq q s)).2, state := st
    decoded := a.tick }

/-- The module with the packet's command in its list. -/
def State.arrive (s : State) (op : Nat) (q : Pkt) (st : CmdState) : State :=
  { s.noted q with cmds := (s.noted q).cmds ++ [s.cmdOf op q st], nextId := (s.noted q).freshId + 1 }

/-- A packet reaches a module that can take it: the module is up, the access point exists, and SAFE takes only the management port (R359). -/
def State.reached (s : State) (q : Pkt) : Prop :=
  s.up = true ∧ q.access ≤ 8 ∧ (s.mgmt.moduleState = .safe → q.access = 8)

/-- The packet passes every decode check of R54 and is not answered BUSY (R55). -/
def State.decodes (s : State) (op : Nat) (q : Pkt) : Prop := decodeBad op q (s.noted q) = none ∧ busy op q (s.noted q) = none

/-- The command of a slow-path packet as it takes hold, with its channel's binding and the index or table it uses (R56, R70, R72). -/
def State.holder (s : State) (op : Nat) (q : Pkt) : Cmd :=
  let c := s.cmdOf op q .ready
  let a := s.arrive op q .ready
  let ch := a.handleChan q.handle
  { c with state := .running, admitTick := a.tick, deadline := a.dOf c, strict := a.strictOf c, binding := (ch.map Channel.binding).getD 0
           uses := if op = 0x1002 ∨ op = 0x1004 then [] else (ch.map Channel.primary).toList }

/-- The module as a slow-path command takes hold. -/
def State.holding (s : State) (op : Nat) (q : Pkt) : State := (s.arrive op q .ready).setCmd (s.cmdOf op q .ready).id fun _ => s.holder op q

/-- A slow-path packet is accepted and takes hold: it decodes, no FENCE keeps it back, and the checks of its boundary pass (R54, R56, R57, R61). -/
def State.takesHold (s : State) (op : Nat) (q : Pkt) : Prop :=
  s.reached q ∧ s.decodes op q ∧ (s.arrive op q .ready).fenced (s.cmdOf op q .ready) = false
    ∧ handleBad op q (s.arrive op q .ready) = none ∧ paramsBad op q (s.arrive op q .ready) = none

/-- A fast-path packet is accepted and admitted at once with stages `l`: it decodes, no FENCE keeps it back, the checks of its boundary pass, and its
stages have room (R19, R22, R54, R57). -/
def State.admits (s : State) (op : Nat) (q : Pkt) (l : List Stage) (a : Ask) : Prop :=
  s.reached q ∧ s.decodes op q ∧ (s.arrive op q .waiting).fenced (s.cmdOf op q .waiting) = false
    ∧ boundaryBad (s.cmdOf op q .waiting) (s.arrive op q .waiting) = none
    ∧ placedFrom (s.cmdOf op q .waiting) (s.arrive op q .waiting).tick (s.arrive op q .waiting) = some (l, a)

/-- What a slow-path packet leaves that takes hold and does `f`: it is pending no longer, and its writes to host memory are made (R20, R56, R59). -/
def State.after (s : State) (op : Nat) (q : Pkt) (f : State → State) : State :=
  leaves s (departed (s.holder op q) (f (s.holding op q)))

/-- The same where what it did is to answer with `f` after making `g` of the module. -/
def State.answering (s : State) (op : Nat) (q : Pkt) (f : State → Final) (g : State → State) : State :=
  s.after op q fun t => finish (s.holder op q) (f t) (g t)

/-- What a packet leaves that is admitted with stages `l` (R19, R22). -/
def State.admitted (s : State) (op : Nat) (q : Pkt) (l : List Stage) (a : Ask) : State :=
  leaves s (placeCmd (s.cmdOf op q .waiting) l a (s.arrive op q .waiting))

/-- The packet rows with their opcodes (R407). -/
def packetOf : Instr → Option (Nat × Pkt)
  | .pad q => some (0x0000, q) | .negotiate q => some (0x0001, q) | .identify q => some (0x0002, q) | .nopEcho q => some (0x0003, q)
  | .getTick q => some (0x0004, q) | .redeliver q => some (0x0005, q) | .channelCreate q => some (0x1001, q) | .channelDestroy q => some (0x1002, q)
  | .channelStatus q => some (0x1003, q) | .channelRebind q => some (0x1004, q) | .search q => some (0x2001, q) | .searchBatch q => some (0x2002, q)
  | .searchEncoded q => some (0x2003, q) | .indexDefine q => some (0x3001, q) | .insert q => some (0x3002, q) | .delete q => some (0x3003, q)
  | .merge q => some (0x3004, q) | .bulkLoad q => some (0x3005, q) | .indexStat q => some (0x3006, q) | .tableDefine q => some (0x4001, q)
  | .gather q => some (0x4002, q) | .replaceRows q => some (0x4003, q) | .addRows q => some (0x4004, q) | .optimiseRows q => some (0x4005, q)
  | .kernelLoad q => some (0x5001, q) | .kernelRun q => some (0x5002, q) | .kernelUnload q => some (0x5003, q) | .objAlloc q => some (0x6001, q)
  | .objFree q => some (0x6002, q) | .objPlace q => some (0x6003, q) | .prefetchPlan q => some (0x6004, q) | .regionRegister q => some (0x6005, q)
  | .regionRelease q => some (0x6006, q) | .objCopy q => some (0x6007, q) | .listMerge q => some (0x6008, q) | .fabricStatus q => some (0x7001, q)
  | .fabricJoin q => some (0x7002, q) | .fabricLeave q => some (0x7003, q) | .linkControl q => some (0x7004, q) | .set q => some (0x8001, q)
  | .get q => some (0x8002, q) | .logRead q => some (0x9001, q) | .countersRead q => some (0x9002, q) | .alarmAck q => some (0x9003, q)
  | .roleAssume q => some (0xA001, q) | .roleDrop q => some (0xA002, q) | .attest q => some (0xA003, q) | .auditRead q => some (0xA004, q)
  | .fwStage q => some (0xB001, q) | .fwActivate q => some (0xB002, q) | .fwStatus q => some (0xB003, q) | .abort q => some (0xC001, q)
  | .testMode q => some (0xE001, q) | .fuseProgram q => some (0xE002, q) | .identityProvision q => some (0xE003, q)
  | .identityRotate q => some (0xE004, q) | .decommission q => some (0xE005, q)
  | _ => none

/-! ## Kernel operations (R214–R220) -/

/-- The kernel rows: the cluster, and the operation of the bundle at its pc. -/
def kernelOp : Instr → Option (Nat × KOp)
  | .loop c o => some (c, .ctrl 1 o) | .loopx c o => some (c, .ctrl 2 o) | .branch c o => some (c, .ctrl 3 o) | .brk c o => some (c, .ctrl 4 o)
  | .wait c o => some (c, .ctrl 5 o) | .phase c o => some (c, .ctrl 6 o) | .kend c o => some (c, .ctrl 7 o)
  | .aadd c o => some (c, .addr 1 o) | .aaddi c o => some (c, .addr 2 o) | .xadd c o => some (c, .addr 3 o) | .xsub c o => some (c, .addr 4 o)
  | .xshl c o => some (c, .addr 5 o) | .xshr c o => some (c, .addr 6 o) | .xsra c o => some (c, .addr 7 o) | .xcmp c o => some (c, .addr 8 o)
  | .xset c o => some (c, .addr 9 o) | .xgetl c o => some (c, .addr 10 o) | .pand c o => some (c, .addr 11 o) | .por c o => some (c, .addr 12 o)
  | .pnot c o => some (c, .addr 13 o)
  | .start c o => some (c, .move 1 o) | .stop c o => some (c, .move 2 o) | .release c o => some (c, .move 3 o)
  | .mma c o => some (c, .array 1 o.op) | .lutBuild c o => some (c, .array 2 o) | .lutScan c o => some (c, .array 3 o.op) | .binary c o => some (c, .array 4 o.op)
  | .swap c o => some (c, .array 5 o)
  | .drain c o => some (c, .epi 1 o.op) | .preloadTile c o => some (c, .epi 2 o) | .preloadRow c o => some (c, .epi 3 o)
  | .topk c o => some (c, .sel 1 o.op) | .bottomk c o => some (c, .sel 2 o.op) | .argmax c o => some (c, .sel 3 o.op) | .argmin c o => some (c, .sel 4 o.op)
  | .rowmax c o => some (c, .sel 5 o.op) | .collect c o => some (c, .sel 6 o.op)
  | _ => none

/-- The operation may issue on the cluster, as one of `r`'s phase, and its guard is true (R214, R215). -/
def State.issues (s : State) (c : Nat) (op : KOp) (r : Running) : Prop :=
  s.up = true ∧ canIssue s c op = some r ∧ (s.cluster c).guard (opGuard op) = true

/-- What an operation leaves that issues and does `f`: its slot is marked, and every cluster goes on as far as it can (R215, R232). -/
def State.issuing (s : State) (c : Nat) (op : KOp) (f : State → State) : State := leaves s (drive (issued c op (f s)))

/-! ## Fabric packets (R319–R326) -/

/-- The header of a packet that acts in its source's order: every TYPE but ACK, and what only passes through (R320). -/
def fabHdr : Instr → Option FabHdr
  | .read h _ _ _ | .readResp h _ _ | .write h _ _ | .atomicAddI32 h _ _ | .atomicAddI64 h _ _ | .atomicAddF32 h _ _ | .atomicAddBf16 h _ _
  | .atomicSwap h _ _ _ | .atomicCas h _ _ _ | .rowAdd h _ _ _ _ | .rowStep h _ _ _ _ _ | .atomicResp h _ _ | .walk h _ | .cancel h _
  | .refused h _ | .partialList h _ | .badType h _ => some h
  | _ => none

/-- The next PAIR_SEQ this member awaits from a source (R320). -/
def State.nextSeq (s : State) (src : Nat) : Nat := (assocGet src s.fabric.rxSeq).getD 0

/-- The packet's turn: its PAIR_SEQ counts as taken (R320). -/
def State.taken (s : State) (h : FabHdr) : State :=
  s.setFabric fun f => { f with rxSeq := assocPut h.src ((s.nextSeq h.src + 1) % 65536) f.rxSeq }

/-- `t` differs from `s` only in what replies, events, audit entries and the command list touch: everything that commands work on stands. -/
def State.sameWork (s t : State) : Prop :=
  t.power = s.power ∧ t.windows = s.windows ∧ t.channels = s.channels ∧ t.settings = s.settings ∧ t.jobs = s.jobs ∧ t.objs = s.objs ∧ t.mem = s.mem
    ∧ t.stackList = s.stackList ∧ t.indexes = s.indexes ∧ t.walks = s.walks ∧ t.queries = s.queries ∧ t.tables = s.tables ∧ t.gathers = s.gathers
    ∧ t.updates = s.updates ∧ t.kernels = s.kernels ∧ t.clusters = s.clusters ∧ t.units = s.units ∧ t.fabric = s.fabric

end Sys2Proof.Machine
end

