-- ==== Sys2Proof/Certificates/Slice0/Obligations.lean ====
section
/-! DEFINITION. The statements for the provers: what the manual's rules say that commands do, row family by row family, the block's own step, frames and
invariants. A packet's statements hold where the packet reaches the front end and takes hold (State.takesHold, State.admits), and the refusals' statements
where a check refuses it. Each docstring names the rules it rests on; a clause that is the model's own choice names its log entry. -/

open Sys2Proof Sys2Proof.Machine

/-- The command at the front of the queue is the one that runs, with the queue's rest (the block's queue is first in, first out: DESIGN CHOICE, log entry 1).
-/
def Obligations.StepRunsQueueFront : Prop :=
  ∀ (c : Instr) (rest : List Instr) (s : State), s.pending = c :: rest → step s = exec c { s with pending := rest }

/-- An empty queue leaves the block as it is: the model's own choice (DESIGN CHOICE, log entry 13). -/
def Obligations.EmptyQueueIdles : Prop := ∀ s : State, s.pending = [] → step s = .next s

/-- Every command answers a next state: the manual ends each failure in a reply, an event or a counter. The queue stands as it stood, and the writes to host
memory have been made. No run ever stops, from any state (the model raises no fault; the dispatcher refuses no command). -/
def Obligations.EveryCommandAnswers : Prop :=
  (∀ (i : Instr) (s : State), ∃ t, exec i s = .next t ∧ t.pending = s.pending ∧ t.posted = [])
  ∧ (∀ s : State, Safe s)

/-- Host memory keeps its canonical form, and no step leaves a write behind. -/
def Obligations.StepKeepsCanonical : Prop := ∀ s t : State, s.Canonical → step s = .next t → t.Canonical

/-- The state after reset is canonical and its queue empty. What the manual gives the module after a start with every unit present: tick 1, standalone as
member 0 and its own leader, FULL, every port at operator with epoch 1 and its streams DISABLED, no channel, object, index, table or kernel (R13, R15, R36,
R38, R359). The members of the state whose reset value the manual leaves open are not named here (DESIGN CHOICE, log entry 2). -/
def Obligations.ResetLeaves : Prop :=
  (State.reset.Canonical ∧ State.reset.pending = [])
  ∧ (let s := State.reset
   s.frame.tick = 1 ∧ s.fabric.joined = false ∧ s.fabric.member = 0 ∧ s.fabric.leader = 0 ∧ s.mgmt.moduleState = .full ∧ s.up = true
     ∧ (∀ p ∈ s.ports, p.role = 0 ∧ p.epoch = 1 ∧ p.negotiated = none ∧ (∀ c ∈ p.cmds, c.state = .disabled) ∧ ∀ r ∈ p.replies, r.enable = false)
     ∧ s.channels = [] ∧ s.objs = [] ∧ s.indexes = [] ∧ s.tables = [] ∧ s.kernels = [] ∧ s.cmds = [] ∧ s.period = 250 ∧ s.guard = 10
     ∧ s.rights 0 = 7 ∧ s.rights 1 = 1)

/-- With the rails off, or while a start is in progress, only the power pins, PERST#, a watchdog and the like act, and from the end of S2 the management port
(R367): every other command leaves the module as it is. -/
def Obligations.UnpoweredModuleKeeps : Prop :=
  ∀ (i : Instr) (s : State), powerCommand i = false → s.up = false → s.posted = [] →
    (s.mgmtUp = true → busCommand i = false ∧ ∀ op q, packetOf i = some (op, q) → q.access ≠ 8) → exec i s = .next s

/-- R54: a packet that a decode check refuses gets the reply of the first check that fails, and becomes no command: the checks in their order are level,
reserved bytes, parameters, role, handle, quota. R62 checks 1 and 2 of a packet's level: before agreement every opcode but NEGOTIATE (and PAD) is refused with
REJECTED/LEVEL and reason 1; a NEGOTIATE that carries a level byte other than the part's lowest is refused with reason 2. -/
def Obligations.RefusedPacketIsAnswered : Prop :=
  (∀ (i : Instr) (op : Nat) (q : Pkt) (s : State) (f : Final), packetOf i = some (op, q) → op ≠ 0 → s.reached q → decodeBad op q (s.noted q) = some f →
     exec i s = .next (leaves s (refusePkt op q (reserveRecord q (noteSeq q s)).2 f (s.noted q))))
  ∧ (∀ (op : Nat) (q : Pkt) (s : State), op ≠ 0 →
     (s.agreed q = none → op ≠ 0x0001 → decodeBad op q s = some { status := status 2 4, detail := 0x110 })
     ∧ (s.agreed q = none → op = 0x0001 → q.archLevel ≠ 0x10 → decodeBad op q s = some { status := status 2 4, detail := 0x210 })
     ∧ (∀ l, s.agreed q = some l → op ≠ 0x0001 → q.archLevel ≠ l → decodeBad op q s = some { status := status 2 4, detail := 0x200 + l }))

/-- The frame of a refusal (R54, R60): whatever the module works on stands as it stood. -/
def Obligations.RefusedPacketKeepsWork : Prop :=
  ∀ (i : Instr) (op : Nat) (q : Pkt) (s t : State), packetOf i = some (op, q) → op ≠ 0 → s.reached q → decodeBad op q (s.noted q) ≠ none → exec i s = .next t →
    s.sameWork t

/-- The frame of the packets that only read: IDENTIFY, NOP_ECHO, GET_TICK, CHANNEL_STATUS, INDEX_STAT, FABRIC_STATUS, GET, LOG_READ, COUNTERS_READ, ATTEST,
AUDIT_READ and FW_STATUS leave all that commands work on as it stood, in every state and for every operand. -/
def Obligations.ReadingPacketsKeepWork : Prop :=
  ∀ (i : Instr) (op : Nat) (q : Pkt) (s t : State), packetOf i = some (op, q) →
    [0x0000, 0x0002, 0x0003, 0x0004, 0x1003, 0x3006, 0x7001, 0x8002, 0x9001, 0x9002, 0xA003, 0xA004, 0xB003].contains op = true → exec i s = .next t → s.sameWork t

/-- PAD takes its SEQ and nothing else; NEGOTIATE agrees level 1, minor 0; IDENTIFY, NOP_ECHO and GET_TICK write their reports; REDELIVER starts its job and
runs the first slice (R48, R62, R353, R366, R407). ABORT (R64's table of outcomes): the command named ends with ABORTED/BY_ABORT and its reply precedes the
ABORT's; one that is over answers OK with status OK/ALREADY_DONE; one that has not been fetched, another ABORT, a PAD, or a wrong tag is rejected. -/
def Obligations.SessionPackets : Prop :=
  (∀ (s : State) (q : Pkt),
     (s.reached q → exec (.pad q) s = .next (leaves s (track 0 q (s.port q.access).epoch (noteSeq q s))))
     ∧ (s.reached q → q.access < 8 → exec (.pad q) s = .next (leaves s (track 0 q (s.port q.access).epoch (s.setPort q.access fun x => { x with
       cmds := modifyAt x.cmds q.stream fun c => { c with nextSeq := (q.seq + 1) % 2 ^ 32 } }))))
     ∧ (s.takesHold 0x0001 q
         → ((s.holding 0x0001 q).agreed q = none ∨ ∀ d ∈ (s.holding 0x0001 q).cmds ++ (s.holding 0x0001 q).frame.decided.map Decided.cmd,
             d.id ≠ (s.holder 0x0001 q).id → d.q.access ≠ q.access ∨ (q.access = 8 ∧ d.q.stream ≠ q.stream))
         → fld q.params 1 1 ≤ 0x10 → 0x10 ≤ fld q.params 0 1
         → (q.access = 8 → exec (.negotiate q) s = .next (s.answering 0x0001 q (fun _ => { status := status 0 0, detail := 0x10 })
             (State.setMgmt fun m => { m with endpoints := modifyIf m.endpoints (fun e => e.eid == q.stream) fun e => { e with negotiated := some 0x10 } })))
         ∧ (q.access ≠ 8 → exec (.negotiate q) s = .next (s.answering 0x0001 q (fun _ => { status := status 0 0, detail := 0x10 })
             (State.setPort q.access fun x => { x with negotiated := some 0x10 }))))
     ∧ (s.takesHold 0x0002 q → exec (.identify q) s = .next (s.answering 0x0002 q
         (fun t => okDone 128 [⟨fld q.params 8 8, identifyReport q.access t⟩]) id))
     ∧ (s.takesHold 0x0003 q → exec (.nopEcho q) s = .next (s.answering 0x0003 q
         (fun _ => if q.access ≠ 8 ∧ fld q.params 8 8 = 0 then okDone 0 else okDone (q.params.drop 16).length [⟨fld q.params 8 8, q.params.drop 16⟩]) id))
     ∧ (s.takesHold 0x0004 q → exec (.getTick q) s = .next (s.answering 0x0004 q
         (fun t => okDone (t.tick % 2 ^ 32) (if q.access ≠ 8 ∧ fld q.params 8 8 = 0 then []
           else [⟨fld q.params 8 8, tickReport (Config.freeNat t.free % (1000 * t.period + 1)) t⟩])) fun t => { t with free := t.free + 1 }))
     ∧ (s.takesHold 0x0005 q → exec (.redeliver q) s = .next (s.after 0x0005 q fun t =>
         redeliverSlice { id := t.freshJob, kind := .redeliver, cmd := some (s.holder 0x0005 q).id, port := q.access, args := [fld q.params 0 1] }
           (startJob (s.holder 0x0005 q) .redeliver [fld q.params 0 1] t).1)))
  ∧ (∀ (s : State) (q : Pkt), s.takesHold 0xC001 q →
     let t := s.holding 0xC001 q
     let c := s.holder 0xC001 q
     (t.abortTarget q = none → t.abortOver q = none → t.notFetched q = true → exec (.abort q) s = .next (s.answering 0xC001 q (fun _ => badParam 3 4) id))
     ∧ (t.abortTarget q = none → t.abortOver q = none → t.notFetched q = false →
         exec (.abort q) s = .next (s.answering 0xC001 q (fun _ => { status := status 0 1 }) id))
     ∧ (∀ (op tag : Nat) (ended : Bool), t.abortTarget q = none → t.abortOver q = some (op, tag, ended) → exec (.abort q) s =
         .next (s.answering 0xC001 q (fun _ => if op = 0xC001 ∨ op = 0 then badParam 2 4 else if tag ≠ fld q.params 8 4 then badParam 3 8
             else if ended then okDone 0 else { status := status 0 1 })
           (reEnd 1 (q.seq % 65536) fun d => d.named q t && d.q.tag == fld q.params 8 4)))
     ∧ (∀ d : Cmd, t.abortTarget q = some d → d.op = 0xC001 → exec (.abort q) s = .next (s.answering 0xC001 q (fun _ => badParam 2 4) id))
     ∧ (∀ d : Cmd, t.abortTarget q = some d → d.op ≠ 0xC001 → d.q.tag ≠ fld q.params 8 4 → exec (.abort q) s = .next (s.answering 0xC001 q (fun _ => badParam 3 8) id))
     ∧ (∀ d : Cmd, t.abortTarget q = some d → d.op ≠ 0xC001 → d.q.tag = fld q.params 8 4 → d.q.access = q.access →
         exec (.abort q) s = .next (s.answering 0xC001 q (fun _ => okDone 0) fun t => endCmd 1 (q.seq % 65536) t d.id))
     ∧ (∀ d : Cmd, t.abortTarget q = some d → d.op ≠ 0xC001 → d.q.tag = fld q.params 8 4 → d.q.access ≠ q.access →
         exec (.abort q) s = .next (s.answering 0xC001 q (fun _ => okDone 0)
           fun t => endCmd 1 (q.seq % 65536) (auditFor 9 0 q (afield d.q.access ++ afield d.q.tag) t) d.id))
     ∧ ∀ (d : Cmd) (u : State), c.id ≠ d.id → u.cmd d.id = some d → d.state ≠ .running →
         endCmd 1 (q.seq % 65536) u d.id = finish d { status := status 4 1, detail := q.seq % 65536 } (if d.op = 0x3002 then releaseStaged d.id u else u))

/-- The four channel packets where they take hold and are not refused: CREATE takes the lowest FREE slot with its generation and charges the port's channels;
REBIND changes the binding and answers the commands that run on it; STATUS reports; DESTROY ends the channel's commands, leaves the slot DESTROYING for two
boundaries and refunds it (R66, R67, R69, R71, R73, R75). -/
def Obligations.ChannelPackets : Prop :=
  ∀ (s : State) (q : Pkt),
    (∀ (ch : Channel) (slot gen : Nat), s.takesHold 0x1001 q → checkCreate q (s.holding 0x1001 q) = none
        → applyOverrides q.params (s.holding 0x1001 q) 4 0
            { slot := 0, state := .live, type := fld q.params 0 1, port := q.access, reply := fld q.params 1 1, primary := fld q.params 4 4
              encoder := fld q.params 8 4, sinkBase := fld q.params 16 8, sinkBytes := fld q.params 24 4
              settings := freshSettings (fld q.params 0 1) (s.holding 0x1001 q).fabric.members.length (s.holding 0x1001 q).tick
              bindTick := (s.holding 0x1001 q).tick } = .inl ch
        → (ch.type = 1 → 16 * ch.setting 0x0304 + 64 ≤ ch.sinkBytes) → (s.holding 0x1001 q).quotaAllows q.access 4 1 = true
        → (s.holding 0x1001 q).freeSlot = some (slot, gen)
        → exec (.channelCreate q) s = .next (s.answering 0x1001 q
            (fun _ => { status := status 0 0, handle := some ({ ch with slot := slot, gen := gen } : Channel).handle })
            fun t => chargeQuota q.access 4 1 { t with channels := t.channels.filter (fun d => d.slot != slot) ++ [{ ch with slot := slot, gen := gen }] }))
    ∧ (∀ ch : Channel, s.takesHold 0x1002 q → (s.holding 0x1002 q).handleChan q.handle = some ch
        → exec (.channelDestroy q) s = .next (s.answering 0x1002 q (fun t =>
            { okDone ((t.destroyed (s.holder 0x1002 q)).length + (t.frame.decided.filter (Decided.overtaken 2 fun d => d.id != (s.holder 0x1002 q).id
                && d.q.handle == q.handle)).length) with refund := some ch.port }) fun t =>
            let u := unloadKernel ch.slot ((t.destroyed (s.holder 0x1002 q)).foldl (endCmd 2 0)
              (reEnd 2 0 (fun d => d.id != (s.holder 0x1002 q).id && d.q.handle == q.handle) t))
            u.setChan ch.slot fun h => { h with state := .destroying, freeAt := u.tick + 2 }))
    ∧ (∀ ch : Channel, s.takesHold 0x1003 q → (s.holding 0x1003 q).handleChan q.handle = some ch
        → exec (.channelStatus q) s = .next (s.answering 0x1003 q (fun t => okDone 64 [⟨fld q.params 8 8,
            leBytes 4 ch.state.code ++ leBytes 4 ((t.chanUnreplied q.handle).filter fun d => d.id != (s.holder 0x1003 q).id).length
              ++ leBytes 4 (((t.chanUnreplied q.handle).filter fun d => d.id != (s.holder 0x1003 q).id).filter fun d => decide (d.binding < ch.binding)).length
              ++ leBytes 4 ch.overrun ++ leBytes 4 ch.escalations ++ leBytes 6 ch.bindTick ++ zeros 38⟩]) id))
    ∧ (∀ ch ch' : Channel, s.takesHold 0x1004 q → (s.holding 0x1004 q).handleChan q.handle = some ch → rebind ch q (s.holding 0x1004 q) = .inl ch'
        → exec (.channelRebind q) s = .next (s.answering 0x1004 q (fun t => okDone ((t.chanRunning q.handle).filter fun d => d.id != (s.holder 0x1004 q).id).length) fun t =>
            t.setChan ch.slot fun _ => { ch' with bindTick := t.tick, binding := ch.binding + 1 }))

/-- INDEX_DEFINE, where no rule refuses it, makes the index its packet describes: number, shape, slots, placement and owner, with its regions as objects, and
answers the number (R81, R82, R84). -/
def Obligations.IndexDefineMakesIndex : Prop :=
  ∀ (s : State) (q : Pkt), s.takesHold 0x3001 q → defineRefused q (s.holding 0x3001 q) = none →
    exec (.indexDefine q) s = .next (s.answering 0x3001 q (fun t => okDone (makeIndex q { t with free := t.free + 2 }).1.num)
        fun t => (makeIndex q { t with free := t.free + 2 }).2)
    ∧ ∀ t : State, let x := (makeIndex q t).1
      x.owner = q.access ∧ x.dims = fld q.params 0 2 ∧ x.degree = fld q.params 3 1 ∧ x.subspaces = fld q.params 4 2 ∧ x.form = fld q.params 6 1
        ∧ x.metric = fld q.params 7 1 ∧ x.slots = fld q.params 32 5 ∧ x.mode = fld q.params 38 1 ∧ x.count = fld q.params 42 2
        ∧ x.routeSince = t.tick ∧ (makeIndex q t).2.indexes = t.indexes ++ [x]
        ∧ x.shard.isSome = (defineMembers q t).contains t.self

/-- INSERT, DELETE, MERGE, BULK_LOAD and INDEX_STAT where they take hold: an INSERT's entries are reserved and written on this member's shard and it is
decided at the next boundary; a DELETE too is decided there; a MERGE sets the shard's parameters and, where it names the shard, waits for its snapshot; a
BULK_LOAD starts its job; INDEX_STAT writes one record for each shard asked for (R144, R145, R148, R149, R158, R161). What shards on other members answer is
open (DESIGN CHOICE, log entry 9). -/
def Obligations.IngestPackets : Prop :=
  ∀ (s : State) (q : Pkt) (ch : Channel) (x : Index),
    (s.takesHold 0x3002 q → (s.holding 0x3002 q).ingest (s.holder 0x3002 q) = some (ch, x) →
      let t := s.holding 0x3002 q
      let rows := insertRows q x t
      let id := (s.holder 0x3002 q).id
      x.loading = false → (∀ y ∈ t.indexes, ∀ sh, y.shard = some sh → sh.mine id = []) →
      insertRefused q x rows = none → (∀ r ∈ rows, t.shardReachable x r.shard = true) →
        remoteAnswer (insertRemote x rows) (t.free + insertDraws q x) = none →
      let prepared := fun (u : State) => u.setCmd id fun d => { d with shards := rows.map InsRow.shard, reservedIn := u.tick }
      (x.shard = none → exec (.insert q) s = .next (s.after 0x3002 q fun t => admitInsert (s.holder 0x3002 q) ch (prepared (insertDrawn q x t))))
      ∧ ∀ (sh sh' : Shard) (slots : List Nat), x.shard = some sh → (insertOwn x rows).length ≤ sh.room
        → sh.issuable x.slots t.tick (insertOwn x rows).length = some (slots, sh')
        → exec (.insert q) s = .next (s.after 0x3002 q fun t =>
          admitInsert (s.holder 0x3002 q) ch (prepared (reserveLocal x id sh' (insertOwn x rows) slots (insertDrawn q x t)))))
    ∧ (s.takesHold 0x3003 q → (s.holding 0x3003 q).ingest (s.holder 0x3003 q) = some (ch, x) → x.loading = false →
        exec (.delete q) s = .next (s.after 0x3003 q (awaitCommit (s.holder 0x3003 q) ch)))
    ∧ (s.takesHold 0x3004 q → (s.holding 0x3004 q).ingest (s.holder 0x3004 q) = some (ch, x) → x.loading = false →
        exec (.merge q) s = .next (s.after 0x3004 q fun t =>
          (t.setCmd (s.holder 0x3004 q).id fun d => { d with state := .running, admitTick := t.tick, binding := ch.binding, uses := [ch.primary] }).setShard x.num
            fun sh => { sh with
                allowance := pickVal (fld q.params 2 2) 4096, sweepBlocks := pickVal (fld q.params 4 2) 32768, width := pickVal (fld q.params 6 1) 2
                alpha := pickVal (fld q.params 7 1) 20, hopCharge := chargeFor ch (ch.setting 0x0306), hopBudget := ch.setting 0x0306
                waits := if fld q.params 0 2 = 0xFFFF ∨ fld q.params 0 2 = sh.number
                  then sh.waits ++ [{ cmd := (s.holder 0x3004 q).id, upTo := sh.tail }] else sh.waits }))
    ∧ (s.takesHold 0x3005 q → (s.holding 0x3005 q).ingest (s.holder 0x3005 q) = some (ch, x) →
        loadBad (fld q.params 0 4) x q (s.holding 0x3005 q) = none → loadOver (fld q.params 0 4) x (s.holding 0x3005 q) = none →
        exec (.bulkLoad q) s = .next (s.after 0x3005 q fun t =>
          let src := fld q.params 0 4
          let t := ({ t with free := t.free + 1 + x.count } : State)
          let p := loadPlan (t.readObj src 0 64)
          (((startJob (s.holder 0x3005 q) (.bulkLoad x.num) [src, pickVal (fld q.params 4 2) 4096, pickVal (fld q.params 6 1) 2,
              pickVal (fld q.params 7 1) 20, chargeFor ch (ch.setting 0x0306), ch.setting 0x0306] t).1.setCmd (s.holder 0x3005 q).id fun d =>
                { d with uses := [ch.primary, src], binding := ch.binding }).setIndex x.num fun y => { y with
                  loading := true, loadRecs := [], loadEntry := [], staged := [t.loadProj src p x, t.loadBooks src p x, t.loadRoute src p x] })))
    ∧ (s.takesHold 0x3006 q → (s.holding 0x3006 q).handleChan q.handle = some ch → (s.holding 0x3006 q).index ch.primary = some x →
        let asked := if fld q.params 0 2 = 0xFFFF then List.range x.count else [fld q.params 0 2]
        let open_ := fun (t : State) (i : Nat) => (List.range 48).map (fun k => Config.freeByte (t.free + 64 * i + k)) ++ zeros 16
        let record := fun (t : State) (p : Nat × Nat) => match x.shard with
          | some sh => if sh.number = p.1 then statRecord x sh t else open_ t p.2
          | none => open_ t p.2
        exec (.indexStat q) s = .next (s.answering 0x3006 q (fun t => okDone asked.length [⟨fld q.params 8 8, (asked.zipIdx.map (record t)).flatten⟩])
          fun t => { t with free := t.free + 64 * asked.length }))

/-- TABLE_DEFINE, where no rule refuses it, makes the table its packet describes and starts the job that fills it; KERNEL_LOAD places the image on the
clusters and answers the largest bound; KERNEL_UNLOAD marks the kernel as leaving and audits it (R208, R223, R227, R229, R247, R249). -/
def Obligations.TableAndKernelPackets : Prop :=
  ∀ (s : State) (q : Pkt),
    (s.takesHold 0x4001 q → tableRefused q (s.holding 0x4001 q) = none →
      exec (.tableDefine q) s = .next (s.after 0x4001 q fun t =>
        (startJob (s.holder 0x4001 q) (.fillTable (makeTable q { t with free := t.free + 2 }).1.num) [] (makeTable q { t with free := t.free + 2 }).2).1)
      ∧ ∀ t : State, let b := (makeTable q t).1
        b.owner = q.access ∧ b.elems = fld q.params 0 2 ∧ b.fmt = fld q.params 2 1 ∧ b.rows = fld q.params 4 5 ∧ b.spare = fld q.params 12 4
          ∧ b.usableFrom = none ∧ (makeTable q t).2.tables = t.tables ++ [b])
    ∧ (s.takesHold 0x5001 q → loadRefused q (s.holding 0x5001 q) = none →
      exec (.kernelLoad q) s = .next (s.after 0x5001 q fun t =>
        let k := loadedKernel q t
        let h := kHead k.image
        let u := auditKernel q k.digest h.bundles k.clusters (chargeQuota q.access 5 (h.bundles * h.clusters) t)
        finish (s.holder 0x5001 q) (okDone (k.bounds.foldl max 0) (reportLoad q (loadReport k.digest none k.clusters k.bounds u.free)))
          { u with kernels := u.kernels ++ [k], nextId := u.nextId + 1, free := u.free + k.bounds.length }))
    ∧ (∀ k : Kernel, s.takesHold 0x5003 q → (s.holding 0x5003 q).loaded (handleSlot q.handle) = some k →
      exec (.kernelUnload q) s = .next (s.answering 0x5003 q (fun _ => okDone 0)
        fun t => unloadKernel k.slot (auditKernel q k.digest (kHead k.image).bundles k.clusters t)))

/-- OBJ_ALLOC, OBJ_FREE, OBJ_PLACE, OBJ_COPY and PREFETCH_PLAN where they take hold and no rule refuses them: an object is created and its number, pages and
base answered; an object, or an index or table with its family, is freed; an object is placed anew; a copy and a plan start their jobs (R26, R279, R280, R284,
R285, R288, R289, R292). -/
def Obligations.ObjectPackets : Prop :=
  ∀ (s : State) (q : Pkt) (o : Obj),
    (∀ h : List Nat, s.takesHold 0x6001 q →
      allocHomes (fld q.params 8 1 % 4) (fld q.params 9 1 % 4) (fld q.params 12 2 % 2048) (fld q.params 14 2 % 4096) (s.holding 0x6001 q) = .inl h →
      o = { num := (s.holding 0x6001 q).objNumber 0, owner := q.access, pages := ceilDiv (fld q.params 0 8) 65536, base := 0, tier := fld q.params 8 1 % 4
            fulled := bit (fld q.params 8 1) 2, hint := bits (fld q.params 8 1) 4 3, staged := bit (fld q.params 8 1) 5, spread := fld q.params 9 1 % 4
            homes := h } →
      roomFor q.access 1 [o] (s.holding 0x6001 q) = none →
      exec (.objAlloc q) s = .next (s.after 0x6001 q fun t =>
        let r := createObj (fun n b => { o with num := n, base := b }) { t with free := t.free + 1 }
        finish (s.holder 0x6001 q) (okDone r.1 (if fld q.params 16 8 = 0 ∧ q.access ≠ 8 then []
          else [⟨fld q.params 16 8, leBytes 4 r.1 ++ leBytes 4 o.pages ++ leBytes 8 t.mem.nextBase⟩])) r.2))
    ∧ (let t := s.holding 0x6002 q
       let n := fld q.params 0 4
       s.takesHold 0x6002 q → t.inUse n = false →
        ((t.indexes.any (fun x => x.num == n && x.owner == q.access && !x.freed) || t.tables.any (fun x => x.num == n && x.owner == q.access && !x.freed)) = true →
          exec (.objFree q) s = .next (s.answering 0x6002 q (fun _ => okDone 0) fun t =>
            let u := (t.family n).foldl (fun t m => freeObj m t) t
            { u with indexes := modifyIf u.indexes (fun x => x.num == n) fun x => { x with freed := true }
                     tables := modifyIf u.tables (fun x => x.num == n) fun x => { x with freed := true } }))
        ∧ ((t.indexes.any (fun x => x.num == n && x.owner == q.access && !x.freed) || t.tables.any (fun x => x.num == n && x.owner == q.access && !x.freed)) = false →
          t.ownObj q.access n = some o → o.parent = 0 → exec (.objFree q) s = .next (s.answering 0x6002 q (fun _ => okDone 0) (freeObj n))))
    ∧ (∀ o' : Obj, s.takesHold 0x6003 q → (s.holding 0x6003 q).ownObj q.access (fld q.params 0 4) = some o →
        placed o (fld q.params 4 1) (s.holding 0x6003 q) = .inl o' →
        (o.samePlace o' = true → exec (.objPlace q) s = .next (s.after 0x6003 q (placeSame (s.holder 0x6003 q) o)))
        ∧ (o.samePlace o' = false → placeRefused q.access o o' (s.holding 0x6003 q) = none →
            exec (.objPlace q) s = .next (s.after 0x6003 q (placeChanged (s.holder 0x6003 q) o o'))))
    ∧ (s.takesHold 0x6007 q → copyRefused q (s.holding 0x6007 q) = none →
        exec (.objCopy q) s = .next (s.after 0x6007 q fun t =>
          (startJob (s.holder 0x6007 q) .copy [fld q.params 0 4, fld q.params 4 4, fld q.params 8 8, fld q.params 16 8, fld q.params 24 8] { t with free := t.free + 1 }).1.setCmd
            (s.holder 0x6007 q).id fun x => { x with uses := [fld q.params 0 4, fld q.params 4 4] }))
    ∧ (s.takesHold 0x6004 q → checkPrefetch q (s.holding 0x6004 q) = none →
        exec (.prefetchPlan q) s = .next (s.after 0x6004 q fun t =>
          let es := (List.range (planCount q.params)).map (planEntry q.params)
          let id := (s.holder 0x6004 q).id
          let u := (startJob (s.holder 0x6004 q) .prefetch (es.map fun _ => 0) t).1.setCmd id fun x => { x with
            deadline := planD q t, uses := dedupBy (fun n => n) (es.flatMap fun e => if e.dst = 0 then [e.src] else [e.src, e.dst]) }
          let u := es.foldl (fun u e => if e.dst = 0 then u else markPages e.dst (e.dstOff / 65536) e.pages (fun p => { p with unplaced := true, stale := false }) u) u
          let holds := es.filterMap fun e => if e.dst = 0 then some (id, u.tick + planD q t + e.hold, e.src, e.srcOff / 256, 256 * e.pages) else none
          u.setMem fun m => { m with holds := m.holds ++ holds }))

/-- REGION_REGISTER and REGION_RELEASE in each of their forms: a host region takes the lowest free number; a placement window opens over an own object; the
bias of a range of pages changes; a region is confirmed; a window closes; a region is released, which faults the command streams in it (R341–R344, R352). -/
def Obligations.RegionPackets : Prop :=
  ∀ (s : State) (q : Pkt) (n : Nat),
    (let t := s.holding 0x6005 q
     s.takesHold 0x6005 q →
      (fld q.params 0 1 = 0 → t.regions.any (fun r => r.overlaps q.access (fld q.params 8 8) (fld q.params 16 8)) = false →
        lowestFree ((t.regions.filter fun r => r.port == q.access && decide (r.number < 4094)).map Region.number) 4094 = some n →
        exec (.regionRegister q) s = .next (s.answering 0x6005 q (fun _ => okDone n) fun t => { t with regions := t.regions ++
          [{ port := q.access, number := n, base := fld q.params 8 8, bytes := fld q.params 16 8
             owned := if fld q.params 1 1 = 1 then List.range (fld q.params 16 8 / 4096) else [] }] }))
      ∧ (∀ o : Obj, fld q.params 0 1 = 1 → t.ownObj q.access (fld q.params 4 4) = some o → o.tier ≠ 2 → o.spread = 0 →
        fld q.params 8 8 + fld q.params 16 8 ≤ o.pages * 65536 → fld q.params 24 8 + fld q.params 16 8 ≤ 64 * 2 ^ 30 →
        t.windows.any (fun w => w.port == q.access && decide (w.aperture < fld q.params 24 8 + fld q.params 16 8)
          && decide (fld q.params 24 8 < w.aperture + w.bytes)) = false →
        lowestFree ((t.windows.filter fun w => w.port == q.access).map Window.number) 64 = some n →
        exec (.regionRegister q) s = .next (s.answering 0x6005 q (fun _ => okDone n) fun t => { t with windows := t.windows ++
          [⟨q.access, n, o.num, fld q.params 8 8, fld q.params 16 8, fld q.params 24 8,
            (List.range 4).filterMap fun i => if fld q.params (32 + 4 * i + 2) 2 = 0 then none
              else some (fld q.params (32 + 4 * i) 2, fld q.params (32 + 4 * i + 2) 2)⟩] }))
      ∧ (∀ r : Region, fld q.params 0 1 = 2 → n = fld q.params 2 2 → t.regions.find? (fun r => r.port == q.access && r.number == n) = some r →
        fld q.params 8 8 + fld q.params 16 8 ≤ r.bytes →
        (fld q.params 1 1 = 1 → (t.port q.access).areas.any (fun a => decide (a.1 < r.base + fld q.params 8 8 + fld q.params 16 8)
          && decide (r.base + fld q.params 8 8 < a.1 + a.2)) = false) →
        exec (.regionRegister q) s = .next (s.answering 0x6005 q (fun _ => okDone 0) fun t =>
          let pages := (List.range (fld q.params 16 8 / 4096)).map (· + fld q.params 8 8 / 4096)
          { t with regions := modifyIf t.regions (fun x => x.port == q.access && x.number == n) fun x => { x with
              owned := if fld q.params 1 1 = 1 then (r.owned.filter fun i => !pages.contains i) ++ pages else r.owned.filter fun i => !pages.contains i } }))
      ∧ (fld q.params 0 1 = 3 → n = fld q.params 2 2 → t.regions.any (fun r => r.port == q.access && r.number == n) = true →
        exec (.regionRegister q) s = .next (s.answering 0x6005 q (fun _ => okDone 0) fun t =>
          { t with regions := modifyIf t.regions (fun x => x.port == q.access && x.number == n) fun x => { x with suspended := false } })))
    ∧ (let t := s.holding 0x6006 q
       s.takesHold 0x6006 q → n = fld q.params 2 2 →
        (fld q.params 0 1 = 1 → t.windows.any (fun w => w.port == q.access && w.number == n) = true →
          exec (.regionRelease q) s = .next (s.answering 0x6006 q (fun _ => okDone 0) fun t =>
            { t with windows := t.windows.filter fun w => !(w.port == q.access && w.number == n) }))
        ∧ (∀ r : Region, fld q.params 0 1 ≠ 1 → t.regions.find? (fun r => r.port == q.access && r.number == n) = some r →
          t.channels.any (fun ch => ch.state == .live && ch.port == q.access && ch.sinkBase != 0 && r.holds q.access ch.sinkBase ch.sinkBytes) = false →
          exec (.regionRelease q) s = .next (s.answering 0x6006 q (fun _ => okDone 0) fun t =>
            let hit := (List.range 4).filter fun i => match ((t.port q.access).cmds.getD i {}).area with
              | some a => r.overlaps q.access a.1 a.2
              | none => false
            let u := hit.foldl (fun u i => faultStream q.access i 1 0 u) t
            { u with regions := u.regions.filter fun x => !(x.port == q.access && x.number == n) })))

/-- FABRIC_STATUS reports; FABRIC_JOIN of a free number in a hall is audited and takes effect at the next boundary; FABRIC_LEAVE makes the module standalone;
LINK_CONTROL leaves its action for the next boundary (R13, R330–R332). -/
def Obligations.FabricPackets : Prop :=
  ∀ (s : State) (q : Pkt),
    (s.takesHold 0x7001 q → exec (.fabricStatus q) s = .next (s.answering 0x7001 q
        (fun t => okDone (Config.freeNat t.free % 2 ^ 32) [⟨fld q.params 8 8, fabricReport { t with free := t.free + 1 }⟩]) fun t => { t with free := t.free + 1 }))
    ∧ (let t := s.holding 0x7002 q
       s.takesHold 0x7002 q → t.fabric.joined = false → (t.fabric.reached (fld q.params 8 8)).contains (fld q.params 0 2 % 2048) = false →
        exec (.fabricJoin q) s = .next (s.after 0x7002 q fun t =>
          let u := auditFor 8 0 q (afield (fld q.params 0 2 % 2048) ++ afield 0xFF ++ afield 0) t
          (u.setFabric fun f => { f with joining := some (fld q.params 0 2 % 2048, fld q.params 8 8) }).setCmd (s.holder 0x7002 q).id fun d =>
            { d with state := .running, admitTick := u.tick, stages := [{ kind := .slow, tick := u.tick + 1, charge := [] }] }))
    ∧ (s.takesHold 0x7003 q → exec (.fabricLeave q) s = .next (s.answering 0x7003 q (fun _ => okDone 0)
        fun t => leaveFabric (auditFor 8 0 q (afield t.self ++ afield 0xFF ++ afield 1) t)))
    ∧ (s.takesHold 0x7004 q → exec (.linkControl q) s = .next (s.answering 0x7004 q (fun _ => okDone 0)
        fun t => (auditFor 8 0 q (afield t.self ++ afield (fld q.params 0 1) ++ afield (2 + fld q.params 1 1)) t).setLink (fld q.params 0 1)
          fun k => { k with action := some (fld q.params 1 1, fld q.params 2 1) }))
    ∧ ∀ t : State, let u := leaveFabric t
        u.fabric.joined = false ∧ u.fabric.members = [t.fabric.member] ∧ u.fabric.leader = t.fabric.member ∧ u.fabric.routes = []

/-- SET puts the value in force at its boundary, with its audit entry (of a member-wide or per-port setting, or of a setting of the packet's channel); GET
reports the value in force, since when, and whether an accepted value waits (R76–R79). A setting that no other one constrains takes hold with no further
condition, and so does a channel setting without one. What SETs put in force (R33, R39, R76, R79): an unconstrained member-wide setting takes the value from
this boundary on; PORT_RIGHTS of port 0 keeps ENABLE; TICK_PERIOD and TAIL_GUARD are the leader's and keep the period at four guards or more; BW_FLOOR_B and
BW_FLOOR_C together are at most 32. -/
def Obligations.SettingPackets : Prop :=
  (∀ (s : State) (q : Pkt),
     (let t := s.holding 0x8001 q
      let sid := fld q.params 0 2
      let v := fld q.params 8 8
      s.takesHold 0x8001 q →
       (∀ u : State, chanSetting sid = false → setMember sid v t = .inl u →
         exec (.set q) s = .next (s.answering 0x8001 q (fun _ => okDone 0) fun t => resolveSettings (auditSet q (t.setting sid) false u)))
       ∧ (sid ∈ [0x0103, 0x0104, 0x0105, 0x0405, 0x0406, 0x0407, 0x0601, 0x0611, 0x0612, 0x0613, 0x0614, 0x0615, 0x0616] →
         exec (.set q) s = .next (s.answering 0x8001 q (fun _ => okDone 0) fun t => resolveSettings (auditSet q (t.setting sid) false
           { t with settings := assocPut sid { value := v, since := t.tick } t.settings })))
       ∧ (∀ ch : Channel, sid ∈ [0x0301, 0x0302, 0x0303, 0x0309, 0x030B, 0x030C, 0x030D] → t.handleChan q.handle = some ch → (settingTypes sid).contains ch.type = true →
         exec (.set q) s = .next (s.answering 0x8001 q (fun _ => okDone 0) fun t =>
           (auditSet q (ch.setting sid) false t).setChan ch.slot fun _ => (ch.put sid v t.tick).resolve t.tick))
       ∧ (∀ ch ch' : Channel, chanSetting sid = true → t.handleChan q.handle = some ch → (settingTypes sid).contains ch.type = true → setChan ch sid v 8 t = .inl ch' →
         exec (.set q) s = .next (s.answering 0x8001 q (fun _ => okDone 0) fun t => (auditSet q (ch.setting sid) false t).setChan ch.slot fun _ => ch')))
     ∧ (let t := s.holding 0x8002 q
        let sid := fld q.params 0 2
        ∀ sv : SetVal, s.takesHold 0x8002 q →
         (if chanSetting sid then (t.handleChan q.handle).bind fun ch => assocGet sid ch.settings else assocGet sid t.settings) = some sv →
         exec (.get q) s = .next (s.answering 0x8002 q (fun _ => okDone (sv.value % 2 ^ 32)
           [⟨fld q.params 8 8, leBytes 8 sv.value ++ leBytes 6 sv.since ++ leBytes 1 (flag sv.awaiting.isSome 0) ++ zeros 1⟩]) id)))
  ∧ (∀ (v : Nat) (s : State),
     (∀ sid ∈ [0x0103, 0x0104, 0x0105, 0x0405, 0x0406, 0x0407, 0x0601, 0x0611, 0x0616], setMember sid v s = .inl (putSetting sid v s))
     ∧ (v % 2 = 0 → setMember 0x0200 v s = .inr (badParam 2 8))
     ∧ (s.fabric.leader ≠ s.self → setMember 0x0101 v s = .inr (badParam 2 0) ∧ setMember 0x0102 v s = .inr (badParam 2 0))
     ∧ (s.fabric.leader = s.self → 4 * s.guard ≤ v → setMember 0x0101 v s = .inl (putSetting 0x0101 v s))
     ∧ (s.fabric.leader = s.self → v < 4 * s.guard → setMember 0x0101 v s = .inr (badParam 2 8))
     ∧ (32 < v + s.setting 0x0403 → setMember 0x0402 v s = .inr (badParam 2 8))
     ∧ (∀ sid, (putSetting sid v s).setting sid = v)
     ∧ ∀ sid k, k ≠ sid → (putSetting sid v s).setting k = s.setting k)

/-- LOG_READ, COUNTERS_READ and ALARM_ACK (R385, R388–R390): records of the ring asked for, or sectors of the boot ledger, or repair entries; the counters of
a scope; the alarms named acknowledged. The count of LOG_READ and COUNTERS_READ is open (DESIGN CHOICE, log entry 12). -/
def Obligations.TelemetryPackets : Prop :=
  ∀ (s : State) (q : Pkt),
    (s.takesHold 0x9001 q → exec (.logRead q) s = .next (s.answering 0x9001 q
        (fun t =>
          let all := decide (1 ≤ t.role q.access)
          okDone (Config.freeNat t.free % 2 ^ 32) [⟨fld q.params 16 8, match fld q.params 0 1 with
            | 0 => (ringRead t.mgmt.general t.mgmt.generalSeq (fld q.params 8 8) (fld q.params 4 4) q.access all t.tick).flatMap EventRec.bytes
            | 1 => (ringRead t.mgmt.alarms t.mgmt.alarmSeq (fld q.params 8 8) (fld q.params 4 4) q.access all t.tick).flatMap EventRec.bytes
            | 2 => (List.range (min (fld q.params 4 4) (256 - fld q.params 8 8))).flatMap fun i => t.mgmt.ledgerSector (fld q.params 8 8 + i)
            | _ => ((t.mgmt.repairs.drop (fld q.params 8 8)).take (fld q.params 4 4)).flatMap RepairEntry.bytes⟩])
        fun t => { t with free := t.free + 1 }))
    ∧ (s.takesHold 0x9002 q → exec (.countersRead q) s = .next (s.answering 0x9002 q
        (fun t =>
          let cs := scopeCounters (fld q.params 0 1) (s.holder 0x9002 q) (decide (1 ≤ t.role q.access)) t
          okDone (Config.freeNat t.free % 2 ^ 32) [⟨fld q.params 8 8, leBytes 6 t.tick ++ leBytes 2 cs.length ++ zeros 8 ++ cs.flatMap (leBytes 8)⟩])
        fun t => { t with free := t.free + 1 }))
    ∧ (s.takesHold 0x9003 q → exec (.alarmAck q) s = .next (s.answering 0x9003 q (fun _ => okDone 0) (ackAlarms (fld q.params 0 2) (fld q.params 4 4))))

/-- ROLE_ASSUME's challenge and its answer, and ROLE_DROP (R38, R42, R43): outside a lockout the challenge is written and remembered, and an answer that both
signatures verify grants the role (installer on the management port takes it from port 0 at once), any other counts against the lockout; a ROLE_ASSUME that
takes hold in a lockout begun since its decode is refused (that it counts as no failed answer is the model's choice, log entry 67); a dropped role falls to
operator. -/
def Obligations.RolePackets : Prop :=
  ∀ (s : State) (q : Pkt),
    (let role := fld q.params 1 1
     let slot := fld q.params 2 1
     let p := q.access
     s.takesHold 0xA001 q →
      ((s.holding 0xA001 q).mgmt.lockout = none → fld q.params 0 1 = 0 → exec (.roleAssume q) s = .next (s.answering 0xA001 q
          (fun t => okDone 128 [⟨fld q.params 8 8, challengeBytes p role t.free t⟩])
          fun t => ({ t with free := t.free + 1 }).setPort p fun x => { x with challenge := some ⟨role, challengeBytes p role t.free t, t.frame.elapsed⟩ }))
      ∧ (∀ (ch : Challenge) (key : Bytes), (s.holding 0xA001 q).mgmt.lockout = none → fld q.params 0 1 ≠ 0 → (p = 0 → (s.holding 0xA001 q).role 8 = 0) →
          ((s.holding 0xA001 q).port p).challenge = some ch → answerKey role slot (s.holding 0xA001 q) = some key →
          ch.role = role → (s.holding 0xA001 q).frame.elapsed - ch.issuedAt ≤ 60000000 →
          exec (.roleAssume q) s = .next (s.after 0xA001 q fun t =>
            if dualVerifies key ch.bytes (slice q.params 16 384) (slice q.params 400 16224) then
              let u := auditFor 1 0 q (afield role ++ afield slot ++ afield 0)
                ((t.setPort p fun x => { x with challenge := none }).setMgmt fun m => { m with failedAnswers := 0 })
              finish (s.holder 0xA001 q) (okDone 0)
                (setRole p role slot (if p = 8 ∧ role = 1 ∧ u.role 0 = 1 then loseRole 0 2 u else u))
            else refuseRole (s.holder 0xA001 q) 0 2 true t)))
    ∧ (s.takesHold 0xA002 q → exec (.roleDrop q) s = .next (s.answering 0xA002 q (fun t => okDone (t.role q.access)) fun t =>
          loseRole q.access 1 (if t.role q.access = 2 then t.setMgmt fun m => { m with testMode := false } else t)))
    ∧ (∀ (c : Cmd) (t : State), t.mgmt.lockout ≠ none →
        let refused := auditFor 1 1 c.q (afield (fld c.q.params 1 1) ++ afield (fld c.q.params 2 1) ++ afield 0)
        (fld c.q.params 0 1 = 0 → holdRoleAssume c t = finish c (badRole 0) (refused t))
        ∧ (fld c.q.params 0 1 ≠ 0 → holdRoleAssume c t = finish c (badRole 0) (refused (t.setPort c.q.access fun x => { x with challenge := none }))))
    ∧ ∀ (p cause : Nat) (t : State), p < t.ports.length → (loseRole p cause t).role p = 0

/-- ATTEST and AUDIT_READ (R379, R384): the evidence over the host's nonce is written with both signatures; of the audit entries kept from the number asked
for, those that fit are written behind the page's header, and remembered as returned. -/
def Obligations.EvidencePackets : Prop :=
  ∀ (s : State) (q : Pkt),
    (s.takesHold 0xA003 q → exec (.attest q) s = .next (s.answering 0xA003 q (fun t =>
          let body := evidence (slice q.params 0 32) t
          okDone 17120 [⟨fld q.params 32 8, body ++ slice (Config.rsaSign t.identityDigest body) 0 384 ++ slice (Config.slhSign t.identityDigest body) 0 16224⟩]) id))
    ∧ (s.takesHold 0xA004 q →
        let oldest := fun (t : State) => ((t.mgmt.audit.head?).map AuditEntry.seq).getD 0
        let es := fun (t : State) => takeEntries (t.mgmt.audit.filter fun e => decide (max (fld q.params 0 4) (oldest t) ≤ e.seq)) (fld q.params 4 4 - 64)
        exec (.auditRead q) s = .next (s.answering 0xA004 q
          (fun t => okDone (es t).length [⟨fld q.params 8 8, leBytes 4 (oldest t) ++ leBytes 4 (((t.mgmt.audit.getLast?).map AuditEntry.seq).getD 0)
            ++ slice t.mgmt.auditHead 0 48 ++ zeros 8 ++ (es t).flatMap AuditEntry.bytes⟩])
          fun t => t.setMgmt fun m => { m with auditReturned := match (es t).getLast? with
            | some e => max m.auditReturned (e.seq + 1)
            | none => m.auditReturned }))

/-- FW_STAGE in its four steps, FW_ACTIVATE at the next start and now, and FW_STATUS (R374–R376): BEGIN starts the erase of the slot that is not running, DATA
programs a range once, FINISH starts the verification, CANCEL empties the slot; an activation names the slot for the next start, or begins the 256-tick drain
with the ports disabled and the fabric left. The maker packets (R44, R378, R381): TEST_MODE and DECOMMISSION first end all work and scrub T0, walk context and
T1, of which nothing is left; FUSE_PROGRAM programs what its parameters name (their layout is open, PRESUMED, log entry 10) and never lowers the rollback
count; an identity is made when none exists, and made anew by IDENTITY_ROTATE. Each is audited. -/
def Obligations.FirmwarePackets : Prop :=
  (∀ (s : State) (q : Pkt),
     (let t := s.holding 0xB001 q
      let slot := 1 - t.mgmt.running
      let off := fld q.params 8 8
      let len := fld q.params 4 4
      s.takesHold 0xB001 q →
       (fld q.params 0 1 = 0 → t.mgmt.draining = none →
         exec (.fwStage q) s = .next (s.after 0xB001 q fun t =>
           let u := if t.mgmt.ledger.activeSlot = slot then writeLedger (fun l => { l with activeSlot := t.mgmt.running }) t else t
           (auditFw q slot 0 (u.setMgmt fun m => { m.setSlot slot fun _ => { state := 1 } with eraseSlot := some (slot, (s.holder 0xB001 q).id) })).setCmd
             (s.holder 0xB001 q).id fun d => { d with state := .running, admitTick := u.tick }))
       ∧ (fld q.params 0 1 = 1 → (t.mgmt.slot slot).state = 1 → off + len ≤ 100663296 →
           (t.mgmt.slot slot).ranges.any (fun r => decide (r.1 < off + len) && decide (off < r.1 + r.2)) = false →
           exec (.fwStage q) s = .next (s.answering 0xB001 q (fun _ => okDone 0) fun t => auditFw q slot 0 (t.setMgmt fun m => m.setSlot slot fun f => { f with
             ranges := f.ranges ++ [(off, len)]
             image := f.image.write off (if fld q.params 16 8 = 0 then slice q.params 32 len else t.hostView.read (fld q.params 16 8) len) })))
       ∧ (fld q.params 0 1 = 2 →
           exec (.fwStage q) s = .next (s.after 0xB001 q fun t =>
             (t.setMgmt fun m => { m with verifySlot := some (slot, (s.holder 0xB001 q).id) }).setCmd (s.holder 0xB001 q).id fun d =>
               { d with state := .running, admitTick := t.tick }))
       ∧ (fld q.params 0 1 = 3 → exec (.fwStage q) s = .next (s.answering 0xB001 q (fun _ => okDone 0)
           fun t => auditFw q slot 0 (t.setMgmt fun m => m.setSlot slot fun _ => {}))))
     ∧ (let t := s.holding 0xB002 q
        let slot := fld q.params 0 1
        s.takesHold 0xB002 q → ((t.mgmt.slot slot).state = 2 ∨ slot = t.mgmt.running) → t.mgmt.draining = none →
         (fld q.params 1 1 = 0 → exec (.fwActivate q) s = .next (s.answering 0xB002 q (fun _ => okDone 0)
             fun t => writeLedger (fun l => { l with activeSlot := slot }) (auditFw q slot 0 t)))
         ∧ (fld q.params 1 1 ≠ 0 → exec (.fwActivate q) s = .next (s.after 0xB002 q fun t =>
             let u := leaveFabric (disablePorts (writeLedger (fun l => { l with activeSlot := slot }) (auditFw q slot 0 t)))
             (u.setMgmt fun m => { m with draining := some (slot, (s.holder 0xB002 q).id, 256) }).setCmd (s.holder 0xB002 q).id fun d =>
               { d with state := .running, admitTick := u.tick })))
     ∧ (s.takesHold 0xB003 q → exec (.fwStatus q) s = .next (s.answering 0xB003 q (fun t =>
         okDone (Config.freeNat t.free % 2 ^ 32) [⟨fld q.params 8 8,
           leBytes 1 t.mgmt.running ++ leBytes 1 t.mgmt.ledger.activeSlot ++ leBytes 1 t.mgmt.rollback
             ++ leBytes 1 (if t.mgmt.draining.isSome then 2 else if t.mgmt.ledger.activeSlot ≠ t.mgmt.running then 1 else 0) ++ zeros 60
             ++ t.mgmt.slotA.entry (t.mgmt.running == 0) ++ t.mgmt.slotB.entry (t.mgmt.running == 1)⟩]) fun t => { t with free := t.free + 1 })))
  ∧ (∀ (s : State) (q : Pkt),
     (s.takesHold 0xE001 q → exec (.testMode q) s = .next (s.answering 0xE001 q (fun _ => okDone 0) fun t =>
         (enterMaker (s.holder 0xE001 q) (auditMaker (s.holder 0xE001 q) 0 t)).setMgmt fun m => { m with testMode := true }))
     ∧ (s.takesHold 0xE002 q → exec (.fuseProgram q) s = .next (s.answering 0xE002 q (fun _ => okDone 0) fun t =>
         (auditMaker (s.holder 0xE002 q) 0 t).setMgmt fun m => match Config.fuseTarget q.params % 3 with
           | 0 => { m with repairFuses := Config.fuseValue q.params }
           | 1 => { m with key2 := some (slice (Config.fuseValue q.params) 0 48) }
           | _ => { m with rollback := max m.rollback (leVal (Config.fuseValue q.params)) }))
     ∧ (s.takesHold 0xE003 q → (s.holding 0xE003 q).mgmt.identity = none →
         exec (.identityProvision q) s = .next (s.answering 0xE003 q (fun _ => okDone 0) fun t =>
           (auditMaker (s.holder 0xE003 q) 0 t).setMgmt fun m => { m with
             identity := some (leBytes 48 (Config.identityKey m.identities).toNat), identities := m.identities + 1
             certificate := (Config.certificates q.params).1, chain := (Config.certificates q.params).2 }))
     ∧ (s.takesHold 0xE004 q → exec (.identityRotate q) s = .next (s.answering 0xE004 q (fun _ => okDone 0) fun t =>
           (auditMaker (s.holder 0xE004 q) 0 t).setMgmt fun m => { m with
             identity := some (leBytes 48 (Config.identityKey m.identities).toNat), identities := m.identities + 1
             certificate := (Config.certificates q.params).1, chain := (Config.certificates q.params).2 }))
     ∧ (s.takesHold 0xE005 q → exec (.decommission q) s = .next (s.answering 0xE005 q (fun _ => okDone 0) fun t =>
           (enterMaker (s.holder 0xE005 q) (auditMaker (s.holder 0xE005 q) 0 t)).setMgmt fun m => { m with
             credentials := m.credentials.take 1 ++ [none, none, none], identity := none, certificate := [], chain := [], decommissioned := true }))
     ∧ ∀ (c : Cmd) (t : State), (scrubAll c t).walks = [] ∧ (scrubAll c t).mem.cache = [] ∧ ∀ o ∈ (scrubAll c t).objs,
         (∀ e ∈ o.data, o.pageTier (e.1 / 65536) = 2) ∧ (∀ g ∈ o.poison, o.pageTier (256 * g / 65536) = 2) ∧ (o.fresh = [] ∨ o.tier = 2))

/-- A command's record once it is admitted with stages `l` (R19, R22, R70). -/
def Obligations.AdmittedPackets : Prop :=
  ∀ (s : State) (q : Pkt) (l : List Stage) (a : Ask),
    let u := fun (op : Nat) =>
      let t := s.arrive op q .waiting
      let c := s.cmdOf op q .waiting
      chargeNow ((l.filter fun g => g.tick == t.tick).flatMap Stage.charge) (chargeQuota q.access 3 a.slots
        ((countDeparture q.access t).setCmd c.id fun x => { x with
          state := .running, admitTick := t.tick, deadline := (countDeparture q.access t).dOf c, strict := (countDeparture q.access t).strictOf c, stages := l
          work := a.work, uses := a.uses, routes := a.routes, binding := ((t.handleChan q.handle).map Channel.binding).getD 0 }))
    (s.admits 0x2001 q l a → exec (.search q) s = .next (leaves s (beginStage (s.cmdOf 0x2001 q .waiting).id (u 0x2001))))
    ∧ (s.admits 0x2002 q l a → exec (.searchBatch q) s = .next (leaves s (beginStage (s.cmdOf 0x2002 q .waiting).id (u 0x2002))))
    ∧ (s.takesHold 0x2003 q → s.admits 0x2003 q l a → exec (.searchEncoded q) s = .next (leaves s (beginStage (s.cmdOf 0x2003 q .waiting).id (u 0x2003))))
    ∧ (s.admits 0x4002 q l a → exec (.gather q) s = .next (leaves s (beginStage (s.cmdOf 0x4002 q .waiting).id (u 0x4002))))
    ∧ (s.admits 0x5002 q l a → exec (.kernelRun q) s = .next (leaves s (beginStage (s.cmdOf 0x5002 q .waiting).id (u 0x5002))))
    ∧ (fld q.params 5 1 ≠ 1 →
        (s.admits 0x4003 q l a → exec (.replaceRows q) s = .next (leaves s (beginStage (s.cmdOf 0x4003 q .waiting).id (u 0x4003))))
        ∧ (s.admits 0x4004 q l a → exec (.addRows q) s = .next (leaves s (beginStage (s.cmdOf 0x4004 q .waiting).id (u 0x4004))))
        ∧ (s.takesHold 0x4005 q → s.admits 0x4005 q l a → exec (.optimiseRows q) s = .next (leaves s (beginStage (s.cmdOf 0x4005 q .waiting).id (u 0x4005)))))
    ∧ (fld q.params 5 1 = 1 →
        (s.admits 0x4003 q l a → ∃ c, (u 0x4003).cmd (s.cmdOf 0x4003 q .waiting).id = some c ∧ c.q = q ∧ c.state = .running
            ∧ exec (.replaceRows q) s = .next (leaves s (startUpdateJob c (u 0x4003))))
        ∧ (s.admits 0x4004 q l a → ∃ c, (u 0x4004).cmd (s.cmdOf 0x4004 q .waiting).id = some c ∧ c.q = q ∧ c.state = .running
            ∧ exec (.addRows q) s = .next (leaves s (startUpdateJob c (u 0x4004))))
        ∧ (s.takesHold 0x4005 q → s.admits 0x4005 q l a → ∃ c, (u 0x4005).cmd (s.cmdOf 0x4005 q .waiting).id = some c ∧ c.q = q ∧ c.state = .running
            ∧ exec (.optimiseRows q) s = .next (leaves s (startUpdateJob c (u 0x4005)))))
    ∧ (s.takesHold 0x6008 q → s.admits 0x6008 q l a → listMergeRefused q (u 0x6008) = none →
        exec (.listMerge q) s = .next (leaves s ((u 0x6008).setCmd (s.cmdOf 0x6008 q .waiting).id fun d => { d with
          state := .running, admitTick := (u 0x6008).tick, deadline := if q.deadline = 0 then 1 else q.deadline, uses := [fld q.params 0 4, fld q.params 4 4]
          stages := [{ kind := .slow, tick := (u 0x6008).tick + fld q.params 30 1
                       charge := [(.merge, fld q.params 16 2 * fld q.params 28 2 * fld q.params 24 4)] }] })))

/-- BUSY at decode (R20, R55): a port with 1,024 pending commands, or the management port with 16, is answered BUSY/PENDING_FULL; a slow-path packet of a port
meets BUSY/CONTROL_BAR when the Control Bar's queue holds 512, or 128 of that port. An ABORT is never refused so (R64). Admission with no room (R19, R20): a
pending command waits, counting boundaries, and after ADMISSION_WAIT of them is answered BUSY/ADMISSION; one that lacks row slots alone counts in SLOT_WAIT
(R266). -/
def Obligations.BusyAndWaiting : Prop :=
  (∀ (op : Nat) (q : Pkt) (s : State),
     (op ≠ 0xC001 → q.access ≠ 8 → 1024 ≤ s.pendingCount q.access → ∃ f, busy op q s = some f ∧ f.status = status 3 2)
     ∧ (op ≠ 0xC001 → q.access = 8 → 16 ≤ s.pendingCount q.access → ∃ f, busy op q s = some f ∧ f.status = status 3 2)
     ∧ (op ≠ 0xC001 → q.access ≠ 8 → s.pendingCount q.access < 1024 → fastPath op = false →
         (512 ≤ s.cbQueue.length ∨ 128 ≤ (s.cbQueue.filter fun c => c.q.access == q.access).length) → ∃ f, busy op q s = some f ∧ f.status = status 3 3)
     ∧ busy 0xC001 q s = none)
  ∧ (∀ (s : State) (id : Nat) (c : Cmd), s.cmd id = some c → c.state = .waiting → s.fenced c = false → boundaryBad c s = none → placedFrom c s.tick s = none →
     let t := if slotsShort c s then countChan (handleSlot c.q.handle) 21 1 s else s
     (t.setting 0x0105 ≤ c.waited → admitOne s id = finish c { status := status 3 1, detail := max 1 (retryAfter c t) } t)
     ∧ (c.waited < t.setting 0x0105 → admitOne s id = t.setCmd id fun d => { d with waited := d.waited + 1 }))

/-- R214, R215: an operation that may not issue, because its slot is not of the bundle at the pc, has issued, must wait for another slot, or its unit or a
BARRIER holds the bundle, does nothing; one whose guard is false issues and has no effect of its own. -/
def Obligations.KernelIssueRules : Prop :=
  ∀ (i : Instr) (c : Nat) (op : KOp) (s : State), kernelOp i = some (c, op) → s.up = true →
    (canIssue s c op = none → exec i s = .next (leaves s s))
    ∧ (∀ r : Running, canIssue s c op = some r → (s.cluster c).guard (opGuard op) = false → exec i s = .next (leaves s (drive (issued c op s))))

/-- CTRL operations (R215, R216): LOOP takes its COUNT, LOOPX its index register clamped to COUNT with LOOP_CLAMP counted, BRANCH and BREAK are taken, WAIT,
PHASE and END act as the bundle is left; all but the trips is the sequencer's, which leaves the bundle once its last slot has issued. ADDR operations (R212,
R216's table): each writes its one register and nothing else of the cluster: an address register keeps its source's binding and adds modulo 2^48; index
arithmetic is modulo 2^32; shifts take five bits; P0 is never written. -/
def Obligations.KernelScalarOps : Prop :=
  (∀ (s : State) (c : Nat) (o : CtrlOp) (r : Running),
     let take := fun (n : Nat) (t : State) => t.setCluster c fun k => { k with taken := n }
     let x := ((s.cluster c).xr o.xreg).toNat
     (s.issues c (.ctrl 1 o) r → exec (.loop c o) s = .next (s.issuing c (.ctrl 1 o) (take o.count)))
     ∧ (s.issues c (.ctrl 2 o) r → x ≤ o.count → exec (.loopx c o) s = .next (s.issuing c (.ctrl 2 o) (take x)))
     ∧ (s.issues c (.ctrl 2 o) r → o.count < x → exec (.loopx c o) s = .next (s.issuing c (.ctrl 2 o) fun t => take o.count (countChan r.chan 13 1 t)))
     ∧ (s.issues c (.ctrl 3 o) r → exec (.branch c o) s = .next (s.issuing c (.ctrl 3 o) (take 1)))
     ∧ (s.issues c (.ctrl 4 o) r → exec (.brk c o) s = .next (s.issuing c (.ctrl 4 o) (take 1)))
     ∧ (s.issues c (.ctrl 5 o) r → exec (.wait c o) s = .next (s.issuing c (.ctrl 5 o) (take 1)))
     ∧ (s.issues c (.ctrl 6 o) r → exec (.phase c o) s = .next (s.issuing c (.ctrl 6 o) (take 1)))
     ∧ (s.issues c (.ctrl 7 o) r → exec (.kend c o) s = .next (s.issuing c (.ctrl 7 o) (take 1))))
  ∧ (∀ (s : State) (c : Nat) (o : AddrOp) (r : Running),
     let sum := fun (by_ : Int) (k : Cluster) => (((((k.a.getD o.s1 (none, 0)).2 : Nat) : Int) + by_) % (2 ^ 48)).toNat
     let setA := fun (by_ : Cluster → Int) (t : State) =>
       t.setCluster c fun k => { k with a := k.a.set o.d ((k.a.getD o.s1 (none, 0)).1, sum (by_ k) k) }
     let setX := fun (v : Cluster → Word) (t : State) => t.setCluster c fun k => { k with x := k.x.set o.d (v k) }
     let setP := fun (v : Cluster → Bool) (t : State) => t.setCluster c fun k => if o.d = 0 then k else { k with p := k.p.set o.d (v k) }
     let x1 := fun (k : Cluster) => k.x.getD o.s1 0
     let x2 := fun (k : Cluster) => if o.immen then BitVec.ofNat 32 o.imm else k.x.getD o.s2 0
     (s.issues c (.addr 1 o) r → exec (.aadd c o) s = .next (s.issuing c (.addr 1 o) (setA fun k => (k.x.getD o.s2 0).toInt * 2 ^ o.aux)))
     ∧ (s.issues c (.addr 2 o) r → exec (.aaddi c o) s = .next (s.issuing c (.addr 2 o) (setA fun _ => (BitVec.ofNat 44 o.imm).toInt)))
     ∧ (s.issues c (.addr 3 o) r → exec (.xadd c o) s = .next (s.issuing c (.addr 3 o) (setX fun k => x1 k + x2 k)))
     ∧ (s.issues c (.addr 4 o) r → exec (.xsub c o) s = .next (s.issuing c (.addr 4 o) (setX fun k => x1 k - x2 k)))
     ∧ (s.issues c (.addr 5 o) r → exec (.xshl c o) s = .next (s.issuing c (.addr 5 o) (setX fun k => x1 k <<< ((x2 k).toNat % 32))))
     ∧ (s.issues c (.addr 6 o) r → exec (.xshr c o) s = .next (s.issuing c (.addr 6 o) (setX fun k => x1 k >>> ((x2 k).toNat % 32))))
     ∧ (s.issues c (.addr 7 o) r → exec (.xsra c o) s = .next (s.issuing c (.addr 7 o) (setX fun k => (x1 k).sshiftRight ((x2 k).toNat % 32))))
     ∧ (s.issues c (.addr 8 o) r → exec (.xcmp c o) s = .next (s.issuing c (.addr 8 o) (setP fun k => match o.aux with
         | 0 => x1 k == x2 k
         | 1 => x1 k != x2 k
         | 2 => decide ((x1 k).toNat < (x2 k).toNat)
         | 3 => decide ((x2 k).toNat ≤ (x1 k).toNat)
         | 4 => decide ((x1 k).toInt < (x2 k).toInt)
         | _ => decide ((x2 k).toInt ≤ (x1 k).toInt))))
     ∧ (s.issues c (.addr 9 o) r → exec (.xset c o) s = .next (s.issuing c (.addr 9 o) (setX fun _ => BitVec.ofNat 32 o.imm)))
     ∧ (s.issues c (.addr 10 o) r → exec (.xgetl c o) s = .next (s.issuing c (.addr 10 o) (setX fun k => BitVec.ofNat 32 (k.l.getD o.s1 0))))
     ∧ (s.issues c (.addr 11 o) r → exec (.pand c o) s = .next (s.issuing c (.addr 11 o) (setP fun k => k.p.getD o.s1 false && k.p.getD o.s2 false)))
     ∧ (s.issues c (.addr 12 o) r → exec (.por c o) s = .next (s.issuing c (.addr 12 o) (setP fun k => k.p.getD o.s1 false || k.p.getD o.s2 false)))
     ∧ (s.issues c (.addr 13 o) r → exec (.pnot c o) s = .next (s.issuing c (.addr 13 o) (setP fun k => !k.p.getD o.s1 false))))

/-- MOVE, ARRAY, EPI and SEL operations (R215, R216, R217–R220): an operation that issues enters its unit with the registers it read at issue: a move its
slots (XREG, LEN, or for LEN 0 the ring's length) and its address, an array operation its steps clamped with LOOP_CLAMP, an epilogue operation its row, column
and its descriptor's addresses, a selection its K clamped likewise. `bad` says that its unit will meet an uncorrectable error; `since` is the model's clock of
due cycles. What units do with their operations (R197, R217, R237, R244): SWAP changes the active set once no epilogue operation is in its unit; STOP ends a
ring's fetching; RELEASE frees head slots; a START waits on a ring with unreleased slots or unwritten data; a selection but COLLECT opens its span once the
drains issued before it are through and there is room for what its predecessor left. -/
def Obligations.KernelUnitOps : Prop :=
  (∀ (s : State) (c : Nat) (r : Running) (bad : Bool),
     let enter := fun (i : Issued) (t : State) => t.setCluster c fun k => { k with busy := k.busy ++ [{ i with since := s.frame.cycle }] }
     let k := s.cluster c
     (∀ o : MoveOp,
       let n := if o.xen then (k.xr o.xreg).toNat else if o.len = 0 then (r.ring o.ring).length else o.len
       let i := fun (op : Nat) => ({ op := .move op o, row := n, at_ := k.a.getD o.areg (none, 0) } : Issued)
       (s.issues c (.move 1 o) r → exec (.start c o) s = .next (s.issuing c (.move 1 o) (enter (i 1))))
       ∧ (s.issues c (.move 2 o) r → exec (.stop c o) s = .next (s.issuing c (.move 2 o) (enter (i 2))))
       ∧ (s.issues c (.move 3 o) r → exec (.release c o) s = .next (s.issuing c (.move 3 o) (enter (i 3)))))
     ∧ (∀ o : ArrayOp,
       let x := (k.xr o.xsteps).toNat
       let n := if o.xsEn then min x o.steps else o.steps
       let clamp := fun (t : State) => if o.xsEn = true ∧ o.steps < x then countChan r.chan 13 1 t else t
       let i := fun (op : Nat) (b : Bool) => ({ op := .array op o, row := n, bad := b } : Issued)
       (s.issues c (.array 1 o) r → exec (.mma c ⟨o, bad⟩) s = .next (s.issuing c (.array 1 o) fun t => enter (i 1 bad) (clamp t)))
       ∧ (s.issues c (.array 2 o) r → exec (.lutBuild c o) s = .next (s.issuing c (.array 2 o) fun t => enter (i 2 false) (clamp t)))
       ∧ (s.issues c (.array 3 o) r → exec (.lutScan c ⟨o, bad⟩) s = .next (s.issuing c (.array 3 o) fun t => enter (i 3 bad) (clamp t)))
       ∧ (s.issues c (.array 4 o) r → exec (.binary c ⟨o, bad⟩) s = .next (s.issuing c (.array 4 o) fun t => enter (i 4 bad) (clamp t)))
       ∧ (s.issues c (.array 5 o) r → exec (.swap c o) s = .next (s.issuing c (.array 5 o) (enter (i 5 false)))))
     ∧ (∀ o : EpiOp,
       let d := oDesc r.kern.image r.run.phase o.odesc
       let i := fun (n : Nat) (b : Bool) => ({ op := .epi n o, row := (k.xr o.xrow).toNat, col := (k.xr o.xcol).toNat, at_ := k.a.getD d.atomicReg (none, 0)
                                               list := k.a.getD d.listReg (none, 0), bad := b } : Issued)
       (s.issues c (.epi 1 o) r → exec (.drain c ⟨o, bad⟩) s = .next (s.issuing c (.epi 1 o) (enter (i 1 bad))))
       ∧ (s.issues c (.epi 2 o) r → exec (.preloadTile c o) s = .next (s.issuing c (.epi 2 o) (enter (i 2 false))))
       ∧ (s.issues c (.epi 3 o) r → exec (.preloadRow c o) s = .next (s.issuing c (.epi 3 o) (enter (i 3 false)))))
     ∧ (∀ o : SelOp,
       let x := (k.xr o.xk).toNat
       let kk := if o.k = 0 then min x 65535 else o.k
       let clamp := fun (t : State) => if o.k = 0 ∧ 65535 < x then countChan r.chan 13 1 t else t
       let i := fun (op n : Nat) => ({ op := .sel op o, row := n, bad := bad } : Issued)
       (s.issues c (.sel 1 o) r → exec (.topk c ⟨o, bad⟩) s = .next (s.issuing c (.sel 1 o) fun t => enter (i 1 kk) (clamp t)))
       ∧ (s.issues c (.sel 2 o) r → exec (.bottomk c ⟨o, bad⟩) s = .next (s.issuing c (.sel 2 o) fun t => enter (i 2 kk) (clamp t)))
       ∧ (s.issues c (.sel 3 o) r → exec (.argmax c ⟨o, bad⟩) s = .next (s.issuing c (.sel 3 o) (enter (i 3 1))))
       ∧ (s.issues c (.sel 4 o) r → exec (.argmin c ⟨o, bad⟩) s = .next (s.issuing c (.sel 4 o) (enter (i 4 1))))
       ∧ (s.issues c (.sel 5 o) r → exec (.rowmax c ⟨o, bad⟩) s = .next (s.issuing c (.sel 5 o) (enter (i 5 0))))
       ∧ (s.issues c (.sel 6 o) r → exec (.collect c ⟨o, bad⟩) s = .next (s.issuing c (.sel 6 o) fun t => enter (i 6 kk) (clamp t)))))
  ∧ (∀ (r : Running) (k : Nat) (i : Issued) (s : State),
     (∀ o : ArrayOp, i.op = .array 5 o → (s.cluster k).unitBusy 5 = false → tryOp r k i s = .ok (s.setCluster k fun c => { c with active := 1 - c.active }))
     ∧ (∀ o : ArrayOp, i.op = .array 5 o → (s.cluster k).unitBusy 5 = true → tryOp r k i s = .waits)
     ∧ (∀ m : MoveOp, i.op = .move 2 m → tryOp r k i s = .ok (setRing k m.ring (fun g => { g with stopped := true }) s))
     ∧ (∀ m : MoveOp, i.op = .move 3 m → tryOp r k i s = .ok (releaseSlots r k m.ring i.row s))
     ∧ (∀ m : MoveOp, i.op = .move 1 m → (r.ring m.ring).output = false → (s.ring k m.ring).slots ≠ [] → tryOp r k i s = .waits)
     ∧ (∀ m : MoveOp, i.op = .move 1 m → (r.ring m.ring).output = true → (s.ring k m.ring).buf ≠ [] → tryOp r k i s = .waits)
     ∧ (∀ (n : Nat) (o : SelOp), i.op = .sel n o → n ≠ 6 → ((s.cluster k).busy.takeWhile fun x => x != i).any (fun x => opSlot x.op == 5) = false →
         crownRoom r k s = true → i.bad = false → tryOp r k i s = .ok ((closeCrown r k s).setCluster k fun c => { c with
           span := some { op := n, k := i.row, ring := o.ringOut, exp := o.exp, split := if o.split then some o.splitId else none } })))

/-- Bringing a command or reply stream up and down (R37): a bad SIZE faults or reports; an area of stream 0 that overlaps no region of the port becomes a
bootstrap region; one in SHARED pages of a region in use starts as it is; any other placement faults a command stream and leaves a reply stream off. Setting
ENABLE again, or on a stream that drains, has no effect. A stream whose ENABLE is cleared drains; a write with ENABLE 0 sets POLL and REPLY, whatever the
state. BASE and SIZE take a write while ENABLE reads 0 and ignore it while it reads 1. SEQ starts again, so that no ABORT names an earlier packet any more
(R50, R64). -/
def Obligations.StreamBringUp : Prop :=
  ∀ (s : State) (p st v : Nat), s.up = true → s.linked p = true →
    (∀ c : CmdStream, (s.port p).cmds[st]? = some c → c.state ≠ .draining → c.enable = false →
      let t := setCmdStream p st (fun c => { c with poll := bit v 1, reply := bits v 2 2 }) (forgetTracked p st s)
      let run := setCmdStream p st fun c => { c with enable := true, state := .running, cause := 0, head := 0, tail := 0, nextSeq := 0, headMoved := false }
      (0 < c.size → c.size ≤ 4096 → st = 0 → s.regions.any (fun r => r.overlaps p c.base (c.size * 4096)) = false →
        exec (.cmdStreamEnable p st v) s = .next (leaves s (run { t with regions := s.regions ++ [{ port := p, number := 4094, base := c.base, bytes := c.size * 4096 }] })))
      ∧ (0 < c.size → c.size ≤ 4096 → (st ≠ 0 ∨ s.regions.any (fun r => r.overlaps p c.base (c.size * 4096)) = true) → s.sharedArea p c.base (c.size * 4096) = true →
        exec (.cmdStreamEnable p st v) s = .next (leaves s (run t)))
      ∧ (0 < c.size → c.size ≤ 4096 → (st ≠ 0 ∨ s.regions.any (fun r => r.overlaps p c.base (c.size * 4096)) = true) → s.sharedArea p c.base (c.size * 4096) = false →
        exec (.cmdStreamEnable p st v) s = .next (leaves s (setEvents p 4 (setCmdStream p st (fun c => { c with enable := true, state := .faulted, cause := 1 }) t))))
      ∧ (c.size = 0 ∨ 4096 < c.size →
        exec (.cmdStreamEnable p st v) s = .next (leaves s (setEvents p 4 (setCmdStream p st (fun c => { c with enable := true, state := .faulted, cause := 6 }) t)))))
    ∧ (∀ c : CmdStream, (s.port p).cmds[st]? = some c → c.state = .draining ∨ c.enable = true → exec (.cmdStreamEnable p st v) s = .next (leaves s s))
    ∧ (∀ c : CmdStream, (s.port p).cmds[st]? = some c →
        let t := setCmdStream p st (fun c => { c with poll := bit v 1, reply := bits v 2 2 }) s
        (c.enable = true → exec (.cmdStreamDrain p st v) s = .next (leaves s (settleStreams p (setCmdStream p st (fun c => { c with enable := false, state := .draining }) t))))
        ∧ (c.enable = false → exec (.cmdStreamDrain p st v) s = .next (leaves s t)))
    ∧ (∀ r : ReplyStream, (s.port p).replies[st]? = some r → bit v 0 = true → r.enable = false →
      let run := fun (t : State) => reattach p (setReplyStream p st (fun r =>
        { r with enable := true, stopping := false, tail := 0x40, consumed := 0, seq := 0, reserved := 0 }) t)
      (0 < r.size → r.size ≤ 4096 → st = 0 → s.regions.any (fun x => x.overlaps p r.base (r.size * 4096)) = false →
        exec (.replyStreamEnable p st v) s = .next (leaves s (run { s with regions := s.regions ++ [{ port := p, number := 4095, base := r.base, bytes := r.size * 4096 }] })))
      ∧ (0 < r.size → r.size ≤ 4096 → (st ≠ 0 ∨ s.regions.any (fun x => x.overlaps p r.base (r.size * 4096)) = true) → s.sharedArea p r.base (r.size * 4096) = true →
        exec (.replyStreamEnable p st v) s = .next (leaves s (run s)))
      ∧ (0 < r.size → r.size ≤ 4096 → (st ≠ 0 ∨ s.regions.any (fun x => x.overlaps p r.base (r.size * 4096)) = true) → s.sharedArea p r.base (r.size * 4096) = false →
        exec (.replyStreamEnable p st v) s = .next (leaves s (setEvents p 4 s)))
      ∧ (r.size = 0 ∨ 4096 < r.size → exec (.replyStreamEnable p st v) s = .next (leaves s (setEvents p 4 s))))
    ∧ (∀ r : ReplyStream, (s.port p).replies[st]? = some r → bit v 0 = true → r.enable = true → exec (.replyStreamEnable p st v) s = .next (leaves s s))
    ∧ (∀ r : ReplyStream, (s.port p).replies[st]? = some r → bit v 0 = false →
        (r.enable = true → exec (.replyStreamDisable p st v) s = .next (leaves s (settleStreams p (setReplyStream p st (fun r => { r with stopping := true }) s))))
        ∧ (r.enable = false → exec (.replyStreamDisable p st v) s = .next (leaves s s)))
    ∧ (∀ c : CmdStream, st < 4 → (s.port p).cmds[st]? = some c →
        (c.enable = false → exec (.registerWrite p (0x100 + 32 * st) 8 v) s = .next (leaves s (setCmdStream p st (fun c => { c with base := v % 2 ^ 64 / 4096 * 4096 }) s))
          ∧ exec (.registerWrite p (0x108 + 32 * st) 4 v) s = .next (leaves s (setCmdStream p st (fun c => { c with size := v % 2 ^ 16 }) s)))
        ∧ (c.enable = true → ∀ n, exec (.registerWrite p (0x100 + 32 * st) n v) s = .next (leaves s s) ∧ exec (.registerWrite p (0x108 + 32 * st) n v) s = .next (leaves s s)))
    ∧ (∀ r : ReplyStream, st < 2 → (s.port p).replies[st]? = some r →
        (r.enable = false → exec (.registerWrite p (0x180 + 32 * st) 8 v) s = .next (leaves s (setReplyStream p st (fun c => { c with base := v % 2 ^ 64 / 4096 * 4096 }) s))
          ∧ exec (.registerWrite p (0x188 + 32 * st) 4 v) s = .next (leaves s (setReplyStream p st (fun c => { c with size := v % 2 ^ 16 }) s)))
        ∧ (r.enable = true → ∀ n, exec (.registerWrite p (0x180 + 32 * st) n v) s = .next (leaves s s) ∧ exec (.registerWrite p (0x188 + 32 * st) n v) s = .next (leaves s s)))

/-- Register writes by their access codes (R5, R36, R339, R340): PCB_EVENTS and IRQ_STATUS clear the bits written as 1, POLL_INTERVAL takes 1 to 1,000,
IRQ_CTRL keeps the vectors the port has; the read-only identification, epoch and tick ignore a write. MSIX_UNMASK sends a vector's pending message. The BAR2
aperture (R344, R345): a permitted memory write lands in the window's object; any other, a configuration or I/O request among them, is discarded, counted in
WINDOW_DENIED and logged as an advisory error; a read, which completes once earlier writes are applied, changes nothing. -/
def Obligations.RegisterWrites : Prop :=
  (∀ (s : State) (p n v : Nat), s.up = true → s.linked p = true →
     exec (.registerWrite p 0x008 n v) s = .next (leaves s (s.setPort p fun x => { x with events := clearBits 4 x.events v }))
     ∧ (2 ≤ n → 1 ≤ v % 1024 → v % 1024 ≤ 1000 → exec (.registerWrite p 0x00C n v) s = .next (leaves s (s.setPort p fun x => { x with pollInterval := v % 1024 })))
     ∧ (2 ≤ n → 1000 < v % 1024 ∨ v % 1024 = 0 → exec (.registerWrite p 0x00C n v) s = .next (leaves s s))
     ∧ exec (.registerWrite p 0x2014 n v) s = .next (leaves s (s.setPort p fun x => { x with irqCtrl := v % (if p = 0 then 16 else 8) }))
     ∧ exec (.registerWrite p 0x2018 n v) s = .next (leaves s (s.setPort p fun x => { x with irqStatus := clearBits 4 x.irqStatus v }))
     ∧ (∀ off ∈ [0x000, 0x004, 0x010, 0x014, 0x240, 0x2000, 0x2004, 0x2008, 0x2020, 0x2024], exec (.registerWrite p off n v) s = .next (leaves s s))
     ∧ (∀ k, k < 4 → bit ((s.setPort p fun x => { x with msix := modifyAt x.msix k fun e => { e with masked := false } }).port p).pba k = false →
         exec (.msixUnmask p k) s = .next (leaves s (s.setPort p fun x => { x with msix := modifyAt x.msix k fun e => { e with masked := false } })))
     ∧ (∀ k, k < 4 → let t := s.setPort p fun x => { x with msix := modifyAt x.msix k fun e => { e with masked := false } }
         bit (t.port p).pba k = true → exec (.msixUnmask p k) s = .next (leaves s { (t.setPort p fun x => { x with pba := x.pba - 2 ^ k }) with
           msixSent := t.msixSent ++ [(p, k, ((t.port p).msix.getD k {}).addr, ((t.port p).msix.getD k {}).data)] })))
  ∧ (∀ (s : State) (p req off : Nat) (bs : Bytes), s.up = true →
     let here := s.windows.find? fun w => w.port == p && decide (w.aperture ≤ off) && decide (off + bs.length ≤ w.aperture + w.bytes)
     let turnedAway := s.setPort p fun x => { x with windowDenied := min (x.windowDenied + 1) 0xFFFFFFFF, advisory := true }
     (s.linked p = true → bs ≠ [] →
       (∀ w : Window, here = some w → w.permits req = true →
         exec (.apertureWrite p req true off bs) s = .next (leaves s (s.writeObj w.object (w.base + (off - w.aperture)) bs)))
       ∧ (∀ w : Window, here = some w → w.permits req = false → exec (.apertureWrite p req true off bs) s = .next (leaves s turnedAway))
       ∧ (here = none → exec (.apertureWrite p req true off bs) s = .next (leaves s turnedAway))
       ∧ exec (.apertureWrite p req false off bs) s = .next (leaves s turnedAway))
     ∧ ∀ n, exec (.apertureRead p req off n) s = .next (leaves s s))

/-- Finding packets (R49–R52, R58): a tail or consumed line that is read, by a poll or after a snoop of a watched line, is fetched up to; a stream that waited
for a record fetches one packet when the host has freed one. Framing faults in the order they are looked for (R50): a TAIL that names no packet position, a
length out of bounds, a SEQ that is not the next one. A stream that faults stops fetching, and PCB_EVENTS shows it. -/
def Obligations.PacketFetch : Prop :=
  (∀ (s : State) (p st : Nat) (hw : List HostWrite), s.up = true → s.masters p = true →
     let t := hostWrites hw s
     (∀ c : CmdStream, (s.port p).cmds[st]? = some c → c.state = .running →
       exec (.tailPoll p false st hw) s = .next (leaves s (
         let u := watchLine p st (t.setPower fun w => { w with timeouts := 0 })
         fetchSome p st (c.size * 128) (setCmdStream p st (fun c => { c with tail := u.hostView.num c.base 4 }) u))))
     ∧ (∀ r : ReplyStream, (s.port p).replies[st]? = some r → r.enable = true →
       exec (.tailPoll p true st hw) s = .next (leaves s (
         let u := watchLine p (4 + st) (t.setPower fun w => { w with timeouts := 0 })
         deliverOwed p (setReplyStream p st (fun r => { r with consumed := u.hostView.num r.base 4 }) u))))
     ∧ ((s.port p).watched.contains st = true → exec (.snoopInvalidate p st hw) s = .next (leaves s (
         let u := t.setPort p fun x => { x with watched := x.watched.filter fun w => w != st }
         if st < 4 then readTail p st u else readConsumed p (st - 4) u)))
     ∧ ((s.port p).watched.contains st = false → exec (.snoopInvalidate p st hw) s = .next (leaves s t))
     ∧ exec (.reserveReplyRecord p st hw) s = .next (leaves s (fetchSome p st 1 t)))
  ∧ (∀ (s : State) (p st : Nat) (c : CmdStream), (s.port p).cmds[st]? = some c →
     (c.state = .running → c.head ≠ c.tail → (c.tail % 16 ≠ 0 ∨ c.tail < 0x80 ∨ c.size * 4096 ≤ c.tail) → fetchOne p st s = (faultStream p st 4 0 s, false))
     ∧ (let pos := max c.head 0x80
        let hdr := s.hostView.read (c.base + pos) 32
        c.state = .running → c.head ≠ c.tail → c.tail % 16 = 0 → 0x80 ≤ c.tail → c.tail < c.size * 4096 → pos ≠ c.tail →
         (fld hdr 4 2 < 2 ∨ 4096 < fld hdr 4 2 ∨ c.size * 4096 < pos + 16 * fld hdr 4 2 → fetchOne p st s = (faultStream p st 3 (fld hdr 8 4) s, false))
         ∧ (2 ≤ fld hdr 4 2 → fld hdr 4 2 ≤ 4096 → pos + 16 * fld hdr 4 2 ≤ c.size * 4096 → fld hdr 20 4 ≠ c.nextSeq →
             fetchOne p st s = (faultStream p st 2 (fld hdr 8 4) s, false)))
     ∧ (∀ cause tag, c.state ≠ .running → faultStream p st cause tag s = s)
     ∧ (∀ cause tag, s.up = true → c.state = .running → s.recordFree p c.reply = false → p < s.ports.length →
         let u := event 1 "STREAM" p st (setEvents p 4 (s.setPort p fun x => { x with cmds := modifyAt x.cmds st fun c => { c with state := .faulted, cause := cause } }))
         u.recordFree p c.reply = false → exec (.streamFault p st cause tag) s = .next (leaves s u)))

/-- Losing and regaining the host (R349, R350, R399): which ports each event detaches, and with what cause; which events make a function ready again. What a
detach leaves (R349, R351, R352): the epoch advances and is never 0, the port reads as detached with the cause, its streams are as at reset, its regions are
suspended, and its role is marked as lost; other ports keep epoch, streams and role. -/
def Obligations.HostLoss : Prop :=
  (∀ (s : State) (p : Nat), s.up = true →
     let all := [0, 1, 2, 3, 4, 5, 6, 7]
     let off := fun (w : Power) => { w with linkUp := false, cxlIo := false, cxlCache := false, timeouts := 0 }
     (s.power.perstN = true → exec (.perstNAssert true) s = .next (leaves s (detachAll 1 all (s.setPower fun w => { off w with perstN := false }))))
     ∧ (s.power.linkUp = true → exec (.perstNAssert false) s = .next (leaves s (detachAll 1 all (s.setPower off))))
     ∧ (∀ k, exec (.perstNDeassert k) s = .next (leaves s (s.setPower fun w => { w with perstN := true, refclk := k })))
     ∧ (s.linked 0 = true → exec (.functionLevelReset 0) s = .next (leaves s (detachAll 2 all s)))
     ∧ (p ≠ 0 → s.linked p = true → exec (.functionLevelReset p) s = .next (leaves s (detach 3 p s)))
     ∧ (s.power.vfEnable = true → exec .vfEnableClear s = .next (leaves s (detachAll 2 [1, 2, 3, 4, 5, 6, 7] (s.setPower fun w => { w with vfEnable := false }))))
     ∧ (p < 8 → (s.port p).busMaster = true →
         exec (.busMasterEnableClear p false) s = .next (leaves s (detach 4 p (s.setPort p fun x => { x with busMaster := false }))))
     ∧ (p < 8 → (s.port p).d0 = true → exec (.busMasterEnableClear p true) s = .next (leaves s (detach 4 p (s.setPort p fun x => { x with d0 := false }))))
     ∧ (s.power.timeouts < 2 → exec .completionTimeout s = .next (leaves s (s.setPower fun w => { w with timeouts := w.timeouts + 1 })))
     ∧ (2 ≤ s.power.timeouts → exec .completionTimeout s = .next (leaves s (detachAll 5 all (s.setPower fun w => { w with timeouts := 0 }))))
     ∧ (s.power.linkUp = true → exec .hostRefclkLoss s = .next (leaves s (detachAll 1 all ((s.setPower fun w => { w with refclk := false }).setPower off))))
     ∧ (∀ rate width flit io cache, s.power.perstN = true → s.power.linkUp = false → 1 ≤ rate → rate ≤ 3 → 1 ≤ width → width ≤ 8 →
         exec (.hostLinkUp rate width flit io cache) s = .next (leaves s (all.foldl (fun t p => reattach p t) (s.setPower fun w => { w with
           linkUp := true, refclk := true, rate := rate, width := width, flit := flit || decide (2 ≤ rate), cxlIo := io && (flit || decide (2 ≤ rate))
           cxlCache := cache && io && (flit || decide (2 ≤ rate)), timeouts := 0 }))))
     ∧ exec (.busMasterEnableSet p 0) s = .next (leaves s (reattach p (s.setPort p fun x => { x with busMaster := true })))
     ∧ exec (.busMasterEnableSet p 1) s = .next (leaves s (reattach p (s.setPort p fun x => { x with d0 := true })))
     ∧ exec (.busMasterEnableSet p 2) s = .next (leaves s (all.foldl (fun t i => reattach i t) (s.setPower fun w => { w with vfEnable := true })))
     ∧ exec .cxlCacheDisabled s = .next (leaves s { (s.setPower fun w => { w with cxlCache := false }) with ports := s.ports.map fun x => { x with watched := [] } }))
  ∧ (∀ (s : State) (p cause : Nat), p < s.ports.length →
     let t := detach cause p s
     (t.port p).epoch = nextEpoch (s.port p).epoch ∧ (t.port p).epoch ≠ 0 ∧ (t.port p).attached = false ∧ (t.port p).detachCause = cause
       ∧ (t.port p).cmds = List.replicate 4 {} ∧ (t.port p).replies = List.replicate 2 {} ∧ (t.port p).negotiated = none
       ∧ (∀ r ∈ t.regions, r.port = p → r.suspended = true)
       ∧ ∀ k, k ≠ p → (t.port k).epoch = (s.port k).epoch ∧ (t.port k).cmds = (s.port k).cmds ∧ (t.port k).replies = (s.port k).replies ∧ (t.port k).role = (s.port k).role)

/-- Preparation and its audit entry (R47, R56, R144, R145, R383, R407): the Control Bar prepares one command at a time, an ABORT first and the others in order
of arrival. The one prepared goes to the frame sequencer, or first waits for its audit entry where the act is to be performed, or is rejected (an INSERT with
a vector that its index cannot hold); an INSERT reserves its slots and positions; GET_TICK takes hold at once; no other command's preparation ends. An entry
that cannot be programmed refuses its command with REJECTED/ROLE and DETAIL bit 15. -/
def Obligations.Preparation : Prop :=
  ∀ (s : State) (id : Nat), s.up = true →
    (∀ c : Cmd, s.takeNext.frame.preparing = some id →
      let t := s.takeNext.setFrame fun f => { f with preparing := none }
      let after := fun (u : State) => exec (.preparationComplete id) s = .next (leaves s u.takeNext)
      t.cmd id = some c → c.state = .queued →
      (c.op = 0x0004 → after (takeHold (t.setCmd id fun d => { d with state := .ready }) id))
      ∧ (∀ f, c.op ≠ 0x0004 → preparationBad c t = some f → after (finish c f t))
      ∧ (c.op = 0x3002 → preparationBad c t = none → after (prepareInsert c t))
      ∧ (c.op ≠ 0x0004 → c.op ≠ 0x3002 → audited c.op c.q t = true → performs c t = true →
          after ((t.setCmd id fun d => { d with state := .auditing }).setMgmt fun m => { m with auditPending := m.auditPending ++ [id] }))
      ∧ (c.op ≠ 0x0004 → c.op ≠ 0x3002 → audited c.op c.q t = false ∨ performs c t = false → after (t.setCmd id fun d => { d with state := .ready })))
    ∧ (s.takeNext.frame.preparing ≠ some id → exec (.preparationComplete id) s = .next (leaves s s.takeNext))
    ∧ (∀ (c : Cmd) (rest : List Nat), s.cmd id = some c → c.state = .auditing → s.mgmt.auditPending = id :: rest →
        let t := s.setMgmt fun m => { m with auditPending := rest }
        exec (.auditEntryDurable true) s = .next (leaves s (t.setCmd id fun d => { d with state := .ready }))
        ∧ exec (.auditEntryDurable false) s = .next (leaves s (finish c { status := status 2 3, detail := 0x8000 } t)))

/-- The order of a boundary (R7, R8, R15, R19, R22, R25, R26, R116, R139): the tick closes and the next begins, settings and bindings turn over, slow-path
commands take hold in admission order, repair swaps are made and space, channel slots and kernels are released, what is carried is charged (merges, placed
stages, overruns, walks), the scan's array cycles are reserved, stages of the tick begin and pending commands are admitted in order, then the jobs' slices
run; the hosts' messages and lines last. -/
def Obligations.BoundaryOrder : Prop :=
  ∀ s : State, s.up = true →
    let t := turnOver (openTick s)
    let held := t.admissionOrder.foldl takeHold t
    let swapped := repairBoundary (held.setFrame fun f => { f with elasticClusters := held.clustersElastic })
    let freed := releaseFreed swapped
    let free := releaseKernels ((freed.channels.map Channel.slot).foldl (fun s k => freeChannel k s) freed)
    let staged := chargeStages (chargeMerges free)
    let overrun := (staged.cmds.map Cmd.id).foldl chargeOverrun staged
    let charged := reserveScan ((overrun.walks.map Walk.id).foldl walkBoundary overrun)
    let begun := sendMarkers (beginStages (gatherAnswered charged))
    let admitted := begun.admissionOrder.foldl admitOne begun
    let ready := markReady (admitted.setFrame fun f => { f with scanSeq := 0 })
    exec .tickBoundary s = .next (leaves s (portsBoundary (driveWalks (dropQueries (jobSlices t.freshJob ready)))))

/-- R19's admission order: every command that is pending or ready to take hold stands in it once; REALTIME, which an ABORT ignores (R64), goes first, then the
smaller D, then the ports in rotation, then arrival. -/
def Obligations.AdmissionOrder : Prop :=
  ∀ s : State, ∃ l : List Cmd,
    s.admissionOrder = l.map Cmd.id
    ∧ l.Perm (s.cmds.filter fun c => c.state == .waiting || c.state == .ready)
    ∧ l.Pairwise fun a b =>
        let rot := fun (c : Cmd) => (c.q.access + 9 - s.frame.rotation % 9) % 9
        let rt := fun (c : Cmd) => bit c.q.flags 2 && c.op != 0xC001
        (rt b = true → rt a = true)
        ∧ (rt a = rt b → s.dOf a ≤ s.dOf b ∧ (s.dOf a = s.dOf b → rot a ≤ rot b ∧ (rot a = rot b → a.id ≤ b.id)))

/-- The tail's points (R18, R24, R61, R130, R328): the cut-off takes effect once a tick and ends a STRICT batch that is unfinished with DEADLINE_MISS, or
FAULT where an error was seen before; at the exact limit STRICT rescoring that waits is declared late, a stall under STALL; at the list limit shards send what
they have, coordinators stop waiting, collectives run, merged snapshots complete, and the replies that waited for the tail are issued in the order of their
decisions; which replies wait so is DEDUCED (log entry 27). Waiting and release (R7, R19, R26, R27, R66, R69, R156): a command that has waited ADMISSION_WAIT
boundaries is considered once more; a destroyed slot is freed with its next generation at its boundary and not before; space is released two ticks after it
was freed, or after the ELASTIC work that may read it is over, and reclaimed slots are held on likewise (side-list positions go to INSERTs, which write a tick
later, one tick before); a job without progress for 255 ticks raises its alarm. -/
def Obligations.TailAndRelease : Prop :=
  (∀ s : State, s.up = true →
     (s.frame.tail = true → exec .cutOff s = .next (leaves s s))
     ∧ (s.frame.tail = false →
         let w := walksCutOff (s.setFrame fun f => { f with tail := true })
         let p := (w.cmds.map Cmd.id).foldl phaseCutOff w
         let g := (p.gathers.map Gather.cmd).foldl gatherCutOff p
         let u := (g.updates.map Update.cmd).foldl updCutOff g
         exec .cutOff s = .next (leaves s { u with jobs := u.jobs.map fun j => match j.kind with
           | .migrate _ | .prefetch => { j with phase := 0 }
           | _ => j }))
     ∧ (∀ (id : Nat) (c : Cmd) (g : Gather), s.gather id = some g → s.cmd id = some c → c.strict = true →
         (c.faultTier = none → gatherCutOff s id = finish c { status := status 4 3, detail := match g.late with
           | some n => 0x8000 + n % 0x8000
           | none => 0 } (dropGather id s))
         ∧ (∀ tier, c.faultTier = some tier → gatherCutOff s id = finish c { status := status 5 1, detail := tier } (dropGather id s)))
     ∧ (∀ (id : Nat) (c : Cmd) (g : Gather), s.gather id = some g → s.cmd id = some c → c.strict = false → gatherCutOff s id = s)
     ∧ exec .exactLimit s = .next (leaves s ((s.walks.filter fun w => w.strict && w.phase == .exact && w.freedIn == some s.tick).foldl (fun t w =>
         declareLate w.id (if !w.degrade && w.cmd.isSome then t.setChan w.chan (fun h => { h with stalls := h.stalls + 1 }) else t)) s))
     ∧ (let sent := (s.walks.filter fun w => w.strict && (w.phase == .ended || w.phase == .exact) && w.freedIn == some s.tick).foldl
           (fun t w => declareLate w.id (rescoreWalk w.id [] t)) s
         let merged := (sent.queries.filter fun q => q.result.isNone && decide (q.admitTick + q.deadline ≤ sent.tick) && (q.strict || q.degrade)).foldl
           (fun t q => completeQuery t q.number) sent
         exec .listLimit s = .next (leaves s (issueDecided (eachIndex finishMerges (merged.listMerges.foldl runListMerge merged)))))
     ∧ ∀ (c : Cmd) (f : Final),
         (s.frame.tail = false → repliesInTail c.op f = true → answer c f s = s.setFrame fun x => { x with decided := x.decided ++ [⟨c, f⟩] })
         ∧ (s.frame.tail = true ∨ repliesInTail c.op f = false → answer c f s = issueReply c f s))
  ∧ (∀ s : State, s.up = true →
     (∀ (id : Nat) (c : Cmd), s.cmd id = some c → c.state = .waiting → s.setting 0x0105 ≤ c.waited →
       exec (.admissionWaitExpiry id) s = .next (leaves s (admitOne s id)))
     ∧ (∀ (id : Nat) (c : Cmd), s.cmd id = some c → c.waited < s.setting 0x0105 → exec (.admissionWaitExpiry id) s = .next (leaves s s))
     ∧ (∀ (k : Nat) (h : Channel), s.chan k = some h → ∃ t, exec (.channelFree k) s = .next t
         ∧ (h.state = .destroying → h.freeAt ≤ s.tick → t.chan k = some { slot := h.slot, gen := h.gen % 255 + 1 })
         ∧ (h.state ≠ .destroying ∨ s.tick < h.freeAt → t.chan k = some h)
         ∧ ∀ j, j ≠ k → t.chan j = s.chan j)
     ∧ (let since := fun (freedIn tick : Nat) => if s.elasticHolds freedIn then max tick s.tick else tick
         let held := s.frame.freed.map fun f => { f with tick := since f.freedIn f.tick }
         let due := fun (f : Freed) => match f.kind with
           | .positions _ _ => decide (f.tick + 1 ≤ s.tick)
           | _ => decide (f.tick + 2 ≤ s.tick)
         let t := { s with indexes := s.indexes.map fun (x : Index) => { x with
           shard := x.shard.map fun (h : Shard) => { h with reclaim := h.reclaim.map fun (r : Nat × Nat × Nat) => (r.1, r.2.1, since r.2.1 r.2.2) } } }
         exec .spaceRelease s = .next (leaves s ((held.filter due).foldl (fun t f => releaseKind f.kind t) (t.setFrame fun f => { f with freed := held.filter fun x => !due x }))))
     ∧ (∀ (id : Nat) (j : Job), s.jobs.find? (fun j => j.id == id) = some j →
         (255 ≤ j.stall → exec (.jobStalled id) s = .next (leaves s (raiseAlarm 0x004 id s)))
         ∧ (j.stall < 255 → exec (.jobStalled id) s = .next (leaves s s))))

/-- A slot's test (R110), in its order: an empty heap exhausts it; a best entry farther than the pool's worst converges it; a spent budget stops it; after the
cut-off and while no hop register is free nothing is issued; else the best entry is taken from the heap, and the hop counts for the slot and the walk. -/
def Obligations.SlotTests : Prop :=
  ∀ (s : State) (id j : Nat) (w : Walk) (k : WSlot), s.walk id = some w → w.slots[j]? = some k → w.phase = .walking → w.freedIn = none →
    let put := fun (g : WSlot) (t : State) => t.setWalk id fun v => { v with slots := v.slots.set j g }
    (k.state ≠ .walking ∨ k.hop.isSome = true → testSlot id j s = s)
    ∧ (k.state = .walking → k.hop = none →
      (k.heap = [] → testSlot id j s = put { k with state := .stopped, why := 1 } s)
      ∧ ∀ c rest, k.heap = c :: rest →
        (worstDist k.pool < c.dist → testSlot id j s = put { k with state := .stopped, why := 1 } s)
        ∧ (c.dist ≤ worstDist k.pool → w.walkHops = w.budget → testSlot id j s = put { k with state := .stopped, why := 2 } s)
        ∧ (c.dist ≤ worstDist k.pool → w.walkHops ≠ w.budget →
          (s.frame.tail = true → testSlot id j s = s)
          ∧ (s.frame.tail = false → s.freeReg k.engine = none → testSlot id j s = s)
          ∧ ∀ r, s.frame.tail = false → s.freeReg k.engine = some r →
            testSlot id j s = (put { k with heap := rest, hops := k.hops + 1, hop := some (c.slot, r) } s).setWalk id fun v =>
              { v with walkHops := v.walkHops + 1, usedNow := v.usedNow + 1 }))

/-- The order of a walk's end causes (R118): CANCELLED, FAULTED, TRUNCATED, STARVED, BUDGET, COMPLETE. BUDGET and STARVED mean that the hop budget in force
was reached; STARVED also needs a filter and, after the final check, fewer distinct pooled slots than K. The events of a walk (R109, R110, R115–R117, R120):
seeding from the entry points dealt to its slots; a block's return, whose records are scored into the slot; a tombstone line's return, which keeps or removes
the pending entry; a scan pass, which begins in its turn and never after the cut-off, and its end, which offers hits. What is read with an uncorrectable error
(err 1) is not scored and the walk carries the tier; a lost slot context (err 2) stops that slot alone. -/
def Obligations.WalkEvents : Prop :=
  (∀ (w : Walk) (s : State),
     let few := decide ((dedupBy WEntry.slot (w.finalPools s)).length < w.k)
     (w.cancelled = true → w.endCause s = 5)
     ∧ (w.cancelled = false → w.faultTier ≠ none → w.endCause s = 6)
     ∧ (w.cancelled = false → w.faultTier = none →
       (w.truncated = true → w.endCause s = 4)
       ∧ (w.truncated = false →
         (w.walkHops = w.budget → filtered w.predicate = true → few = true → w.endCause s = 3)
         ∧ (w.walkHops = w.budget → (filtered w.predicate = false ∨ few = false) → w.endCause s = 2)
         ∧ (w.walkHops ≠ w.budget → w.endCause s = 1))))
  ∧ (∀ s : State, s.up = true →
     let hurt := fun (tier : Nat) (v : Walk) => ({ v with faultTier := some (v.faultTier.getD tier) } : Walk)
     let lost := fun (id j : Nat) => driveWalks ((event 1 "UNCORRECTABLE" 0xFF 0 s).setWalk id fun v => { hurt 3 v with
       slots := modifyAt v.slots j fun k => { k with state := .stopped, why := 4, heap := [], pool := [], hop := none } })
     let known := fun (t : State) (sh : Shard) (n : Nat) => if t.lineHeld sh.tomb (n / 2048) then some (t.tombed sh n) else none
     (∀ (id : Nat) (w : Walk) (x : Index) (sh : Shard), s.walk id = some w → w.phase = .placed → w.tick ≤ s.tick → w.freedIn = none → w.slots ≠ [] →
       s.index w.index = some x → x.shard = some sh →
       exec (.walkSeed id) s = .next (leaves s (driveWalks (s.setWalk w.id fun v => { v with
         phase := .walking
         slots := v.slots.zipIdx.map fun p => (seedsOf v.width p.2 (w.seeds.map (parseRec x.sketchBytes))).foldl
           (scoreRec v.sketch v.predicate v.tagSet (known s sh) true false) { p.1 with state := .walking, visited := [] } }))))
     ∧ (∀ (e r j node err : Nat) (w : Walk) (x : Index) (sh : Shard) (k : WSlot),
       s.walks.findSome? (fun w => (w.slots.findIdx? fun k => k.engine == e && k.hop.any fun h => h.2 == r).map fun j => (w, j)) = some (w, j) →
       s.index w.index = some x → x.shard = some sh → w.slots[j]? = some k → k.hop = some (node, r) →
       let at_ := node * x.degree * x.recBytes
       let len := x.degree * x.recBytes
       let t := walkReads w sh.adj at_ len s
       (s.poisoned sh.adj at_ len = false → exec (.adjacencyBlockReturn e r 0) s = .next (leaves s (driveWalks (t.setWalk w.id fun v => { v with
           slots := v.slots.set j ((t.block x sh node).foldl (scoreRec w.sketch w.predicate w.tagSet (known t sh) false false) { k with hop := none }) }))))
       ∧ (err ≠ 2 → (err = 1 ∨ s.poisoned sh.adj at_ len = true) → exec (.adjacencyBlockReturn e r err) s = .next (leaves s (driveWalks
           ((uncorrectable sh.adj at_ len s).setWalk w.id fun v => { hurt 1 v with slots := v.slots.set j { k with hop := none } }))))
       ∧ exec (.adjacencyBlockReturn e r 2) s = .next (leaves s (lost w.id j)))
     ∧ (∀ (id j target err : Nat) (w : Walk) (x : Index) (sh : Shard), s.walk id = some w → s.index w.index = some x → x.shard = some sh →
       (w.slots.getD j { engine := 0, slot := 0 }).pool.any (fun e => e.slot == target && e.pendingTomb) = true →
       let at_ := target / 2048 * 256
       let t := walkReads w sh.tomb at_ 256 s
       let inSlot := fun (f : WSlot → WSlot) (v : Walk) => ({ v with slots := v.slots.zipIdx.map fun p => if p.2 != j then p.1 else f p.1 } : Walk)
       let gone := inSlot fun k => { k with pool := k.pool.filter fun e => !(e.slot == target && e.pendingTomb) }
       let stays := inSlot fun k => { k with pool := k.pool.map fun e => if e.slot = target then { e with pendingTomb := false } else e }
       (s.poisoned sh.tomb at_ 256 = false →
         (t.tombed sh target = true → exec (.tombstoneReadReturn id j target 0) s = .next (leaves s (driveWalks (t.setWalk id gone))))
         ∧ (t.tombed sh target = false → exec (.tombstoneReadReturn id j target 0) s = .next (leaves s (driveWalks (t.setWalk id stays)))))
       ∧ (err ≠ 2 → (err = 1 ∨ s.poisoned sh.tomb at_ 256 = true) → exec (.tombstoneReadReturn id j target err) s = .next (leaves s (driveWalks
           ((uncorrectable sh.tomb at_ 256 s).setWalk id fun v => gone (hurt 1 v)))))
       ∧ exec (.tombstoneReadReturn id j target 2) s = .next (leaves s (lost id j)))
     ∧ (∀ (n : Nat) (x : Index) (sh : Shard), s.index n = some x → x.shard = some sh →
       let others := s.indexes.any fun y => (y.shard.bind Shard.passWalks).isSome
       (s.frame.tail = false → others = false → s.passReady n ≠ [] → s.nextPass n = true → s.systemClusters ≠ [] →
         exec (.sideListScanPass n sh.number) s = .next (leaves s (s.setShard n fun h => { h with
           ready := none, passWalks := some ((s.passReady n).map Walk.id), passHead := h.scanHead, passTail := h.scanTail
           scanCycles := h.scanCycles + ceilDiv ((sh.scanTail - sh.scanHead) * (s.passReady n).length * 8 * x.sketchBytes) (s.systemClusters.length * 524288) })))
       ∧ (s.frame.tail = true ∨ others = true ∨ s.nextPass n = false → exec (.sideListScanPass n sh.number) s = .next (leaves s s))
       ∧ ∀ (ids bad : List Nat), sh.passWalks = some ids → s.idleSystem.length = s.systemClusters.length →
         let at_ := fun (p : Nat) => p % sideRing * x.recBytes
         let lines := ((List.range (sh.passTail - sh.passHead)).map (· + sh.passHead)).filter fun p => bad.contains p || s.poisoned sh.side (at_ p) x.recBytes
         let t := lines.foldl (fun t p => uncorrectable sh.side (at_ p) x.recBytes t) s
         exec (.sideListPassComplete n sh.number bad) s = .next (leaves s (driveWalks (markReady
           ((ids.foldl (offerHits x sh lines) t).setShard n fun h => { h with passWalks := none }))))))

/-- Rescoring (R121–R132, R134): it runs on a cluster that takes system work and has no phase in progress. Codes score every candidate and the best E are
read; an exact score is kept with its candidate; what is read with an uncorrectable error leaves the list, whose walk carries the tier; the list goes to the
coordinator with the last read, at once when nothing is to be read, or when the reads are declared late (under DEGRADE only). -/
def Obligations.RescoringEvents : Prop :=
  ∀ s : State, s.up = true → ∀ (id : Nat) (w : Walk), s.walk id = some w →
    (∀ bad, s.idleSystem = [] → exec (.rescoring id bad) s = .next (leaves s s))
    ∧ (∀ (bad : List Nat) (x : Index) (sh : Shard), s.idleSystem ≠ [] → s.index w.index = some x → x.shard = some sh → w.phase = .ended →
      let len := x.subspaces / 2
      let at_ := fun (c : Cand) => c.slot * len
      let wrong := (List.range w.cands.length).filter fun i => bad.contains i || (w.cands[i]?.any fun c => s.poisoned sh.codes (at_ c) len)
      let books := s.readObj sh.books 0 x.bookBytes
      let t := w.cands.zipIdx.foldl (fun t p => if wrong.contains p.2 then uncorrectable sh.codes (at_ p.1) len t else walkReads w sh.codes (at_ p.1) len t)
        (w.counts (tableCounts x books w.vector) s)
      let rated := w.cands.zipIdx.map fun p => ({ p.1 with
        removed := wrong.contains p.2, code := codeScore x books w.vector (t.readObj sh.codes (at_ p.1) len) } : Cand)
      let best := ((sortBy (fun (a b : Cand × Nat) => scoreBetter x.metric a.1.code b.1.code) (rated.zipIdx.filter fun p => !p.1.removed)).take w.exactCount).map
        fun p => p.2
      let cands := rated.zipIdx.map fun p => ({ p.1 with chosen := best.contains p.2, waiting := best.contains p.2 } : Cand)
      let u := t.setWalk id fun v => { v with
        phase := .exact, cands := cands, cause := if wrong = [] then v.cause else 6
        faultTier := if wrong = [] then v.faultTier else some (v.faultTier.getD (t.tierAt sh.codes 0)) }
      (best = [] → exec (.rescoring id bad) s = .next (leaves s (sendList id u)))
      ∧ (best ≠ [] → exec (.rescoring id bad) s = .next (leaves s u)))
    ∧ (∀ (n err : Nat) (c : Cand) (x : Index) (sh : Shard), w.cands[n]? = some c → s.index w.index = some x → x.shard = some sh → w.phase = .exact → c.waiting = true →
      let reads : List (Nat × Nat × Nat) :=
        [(sh.exact, c.slot * x.exactStride, x.exactStride), (sh.keys, 16 * c.slot, 16), (sh.outl, c.slot * x.outDims.length, x.outDims.length)]
      let wrong := (reads.find? fun r => r.2.2 != 0 && s.poisoned r.1 r.2.1 r.2.2) <|> (if err = 0 then none else reads.head?)
      let vec := s.readObj sh.exact (c.slot * x.exactStride) x.exactStride
      let key := s.readObj sh.keys (16 * c.slot) 16
      let outl := s.readObj sh.outl (c.slot * x.outDims.length) x.outDims.length
      let after := fun (d : Cand) (t : State) =>
        exec (.exactReadReturn id n err) s = .next (leaves s (if (w.cands.set n d).any Cand.waiting then t else sendList id t))
      (wrong = none →
        let d := { c with waiting := false, exact := some (exactScore x s.free w.vector vec key outl), removed := false }
        after d ((reads.foldl (fun t r => walkReads w r.1 r.2.1 r.2.2 t) (w.counts (exactCounts x vec key outl) { s with free := s.free + 2 })).setWalk id fun v =>
          { v with cands := v.cands.set n d }))
      ∧ (∀ r, wrong = some r →
        let d := { c with waiting := false, exact := none, removed := true }
        let t := uncorrectable r.1 r.2.1 r.2.2 { s with free := s.free + 2 }
        after d (t.setWalk id fun v => { v with
          cands := v.cands.set n d, cause := 6, faultTier := some (v.faultTier.getD (if err = 0 then t.tierAt r.1 r.2.1 else min (err - 1) 2)) })))
    ∧ (w.phase = .exact → w.degrade = true → exec (.exactReadsLate id) s = .next (leaves s (sendList id
        (s.setWalk id fun v => { v with cheaper := true, cands := v.cands.map fun c => { c with exact := none, waiting := false } }))))
    ∧ (w.degrade = false → exec (.exactReadsLate id) s = .next (leaves s s))

/-- R133: scored things stand in the order of their rank keys: an exact score outranks a codebook score, then the better score, then the earlier input order.
The same order ranks a shard's candidates and a coordinator's entries; a candidate is in the exact tier where it holds an exact score. -/
def Obligations.RankOrder : Prop :=
  (∀ (metric : Nat) (a b : Word), scoreBetter metric a b = if metric = 0 then f32Lt b a else f32Lt a b)
  ∧ (∀ c : Cand, c.rank = (c.exact.isSome, c.exact.getD c.code))
  ∧ ∀ (α : Type) (metric : Nat) (key : α → Bool × Word) (l : List α), ∃ r : List (α × Nat),
    sortBy (fun a b => rankLt metric (key a) (key b)) l = r.map Prod.fst ∧ r.Perm l.zipIdx
    ∧ r.Pairwise fun a b =>
        ((key b.1).1 = true → (key a.1).1 = true)
        ∧ ((key a.1).1 = (key b.1).1 → scoreBetter metric (key b.1).2 (key a.1).2 = false
            ∧ (scoreBetter metric (key a.1).2 (key b.1).2 = false → a.2 < b.2))

/-- The pruning rule (R151): the kept neighbours are a part of the candidates, in their order and at most DEGREE; of any two, the later is nearer to e than
ALPHA sixteenths of its distance from the earlier; a candidate is kept just where the list has room and no neighbour kept before it is that near to it. A
slice of a shard's maintenance job (R18, R26, R149, R150): one runs in a tick, in the tick it was admitted in; it starts nothing after the cut-off, and counts
as progress where it changed its shard. -/
def Obligations.MaintenanceRules : Prop :=
  (∀ (degree alpha : Nat) (cands : List (NRec × Nat)), ∃ chosen : List (NRec × Nat),
     prune degree alpha cands = chosen.map Prod.fst ∧ chosen.Sublist cands ∧ chosen.length ≤ degree
     ∧ chosen.Pairwise (fun k c => 16 * c.2 < alpha * ham k.1.sketch c.1.sketch)
     ∧ ∀ l c r, cands = l ++ c :: r →
         ((prune degree alpha l).length = degree ∨ (∃ k ∈ prune degree alpha l, alpha * ham k.sketch c.1.sketch ≤ 16 * c.2) →
           prune degree alpha (l ++ [c]) = prune degree alpha l)
         ∧ ((prune degree alpha l).length ≠ degree → (∀ k ∈ prune degree alpha l, 16 * c.2 < alpha * ham k.sketch c.1.sketch) →
           prune degree alpha (l ++ [c]) = prune degree alpha l ++ [c.1]))
  ∧ (∀ (s : State) (n : Nat) (x : Index) (sh : Shard), s.up = true → s.index n = some x → x.shard = some sh →
     (s.frame.tail = false → sh.slice ≠ none → sh.ran = false →
       let t := (sweepSlice n (sliceEntries n (sh.tail - sh.head + 1) s)).setShard n fun h => { h with ran := true }
       ((t.index n).bind Index.shard ≠ some { sh with ran := true } → exec (.mergeSlice n sh.number) s = .next (leaves s { t with
         jobs := t.jobs.map fun j => if j.kind == .mergeIndex n then { j with progressed := true } else j }))
       ∧ ((t.index n).bind Index.shard = some { sh with ran := true } → exec (.mergeSlice n sh.number) s = .next (leaves s t)))
     ∧ (s.frame.tail = true ∨ sh.slice = none ∨ sh.ran = true → exec (.mergeSlice n sh.number) s = .next (leaves s s)))

/-- A row read that returns or is late (R25, R256, R257): a row of this member is read by the entry read at issue or the one in force now (free, DESIGN
CHOICE, log entry 5), one elsewhere comes with the fabric's answers; it is de-quantised, or dropped where an error was met, which faults the batch with the
tier. A late row is dropped under DEGRADE and counted in ROWS_MISSING, waits under STALL, which counts on a STRICT channel, and names the stream. -/
def Obligations.GatherEvents : Prop :=
  ∀ (s : State) (id i : Nat) (g : Gather) (c : Cmd) (r : GRead) (t : Table), s.up = true → s.gather id = some g → s.cmd id = some c →
    g.reads[i]? = some r → s.table g.table = some t →
    let chan := handleSlot c.q.handle
    let dropped := fun (u : State) => countChan chan 19 1 (setRead c.id i (fun r => { r with state := .dropped, tags := [] }) u)
    (∀ err, r.state = .row → r.member = s.self →
      let j := t.localRow r.row
      let loc := if Config.freeBool s.free then r.loc else (s.dirEntry t j).1
      let badEntry := s.poisoned t.dir (8 * j) 8
      let bad := err || badEntry || s.poisoned t.heap (8 * loc) t.rowBytes
      let u := ({ s with free := s.free + 1 } : State)
      exec (.gatherRowReturn id i err) s = .next (leaves s (rowArrived c g t i r (s.readObj t.heap (8 * loc) t.rowBytes) bad
        (if badEntry then uncorrectable t.dir (8 * j) 8 u else if bad then uncorrectable t.heap (8 * loc) t.rowBytes u else u))))
    ∧ (∀ err, r.state = .row → r.member ≠ s.self → s.answered r.tags = true →
      exec (.gatherRowReturn id i err) s = .next (leaves s (rowArrived c g t i r (slice (s.answers r.tags) (8 * r.loc % 256) t.rowBytes) (err || s.answeredBad r.tags) s)))
    ∧ (∀ bs u, let v := decodeRow t.format t.elems bs
      let w := useRow c g r t (dropReads r.tags u)
      rowArrived c g t i r bs false u = gatherMerge c.id (countConv chan v.2 (setRead c.id i (fun x => { x with state := .arrived, vals := v.1, tags := [] }) w))
      ∧ rowArrived c g t i r bs true u = gatherMerge c.id (dropped (w.setCmd c.id fun d =>
          { d with faultTier := some (d.faultTier.getD (if r.member = w.self then 1 else 2)) })))
    ∧ (r.state ≠ .arrived → r.state ≠ .dropped →
      let late := s.setGather id fun x => { x with late := some (x.late.getD (0x200 + g.engines.getD r.window 0)) }
      (c.work.getD 0 0 = 1 → exec (.gatherRowLate id i) s = .next (leaves s (gatherMerge id (dropped (dropReads r.tags late)))))
      ∧ (c.work.getD 0 0 ≠ 1 → c.strict = true → exec (.gatherRowLate id i) s = .next (leaves s (late.setChan chan fun h => { h with stalls := h.stalls + 1 })))
      ∧ (c.work.getD 0 0 ≠ 1 → c.strict = false → exec (.gatherRowLate id i) s = .next (leaves s late)))

/-- The start of a queued phase on a cluster (R172, R191, R207, R209, R212, R270): none starts in the tail nor while system work comes first. Else pc is at
the phase's entry, X14 the logical cluster, X15 the cluster count, X registers below the kernel's arguments from the run, A registers on its bindings; the
rings are fresh and their generations stand; no unit is busy; the generator is seeded by the admission tick. The events of rings (R200, R213, R270, R274,
R277): the next slot of an input ring that arrives is held in order, or ends its stage where an error was met; one that is not expected, or of a page that a
plan has yet to place, changes nothing; a response of a stream that is over frees its tag, and counts LATE_RESPONSE once a boundary has retired it; an
acknowledged slot or atomic frees its room, unless a page of it waits for an expansion page; a slot larger than a mover's tags goes on with those that come
back. Late rings, a phase declared late and split partials (R199, R231, R274, R276): a slot that a waiting operation needs and that is past its due cycle
names its stream, once a phase with an event; 8 µs past it the phase is declared late, and under DEGRADE its fallback is placed, or the run ends with
DEADLINE_MISS; a split partial reaches its home. The event's layout is the model's choice (DESIGN CHOICE, log entry 91). -/
def Obligations.KernelPhases : Prop :=
  (∀ (s : State) (k : Nat) (w : PhaseWait) (rest : List PhaseWait) (kn : Kernel) (cmd : Cmd), s.up = true →
     (s.cluster k).run = none → (s.cluster k).queue = w :: rest → s.kernel w.kernel = some kn → s.cmd w.cmd = some cmd →
     (s.frame.tail = true ∨ s.systemFirst k = true → exec (.kernelPhaseStart k) s = .next (leaves s s))
     ∧ (s.frame.tail = false → s.systemFirst k = false →
       let binds := runBinds cmd s
       let seed := if cmd.kernelSetting 1 = 0 then (Config.seed s.free).toNat else cmd.kernelSetting 1
       let t := ({ s with free := s.free + 1 } : State)
       ∃ c : Cluster, exec (.kernelPhaseStart k) s = .next (leaves s (drive (t.setCluster k fun _ => c)))
         ∧ c.queue = rest ∧ c.pc = (kPhase kn.image w.phase).entry ∧ c.owner = some kn.slot
         ∧ c.rings = (s.cluster k).rings.map (fun g => { num := g.num, gen := g.gen }) ∧ c.owed = (s.cluster k).owed
         ∧ c.busy = [] ∧ c.issued = [] ∧ c.span = none ∧ c.active = 0
         ∧ c.partials = (s.cluster k).partials ∧ c.records = (s.cluster k).records ∧ c.delivered = (s.cluster k).delivered
         ∧ c.x.length = 16 ∧ c.a.length = 32
         ∧ c.x.getD 14 0 = BitVec.ofNat 32 (kn.clusters.idxOf k) ∧ c.x.getD 15 0 = BitVec.ofNat 32 (kHead kn.image).clusters
         ∧ (∀ i, i < 14 → i < (kHead kn.image).args → c.x.getD i 0 = BitVec.ofNat 32 (runArgs cmd i))
         ∧ (∀ i, i < 14 → (kHead kn.image).args ≤ i → c.x.getD i 0 = 0)
         ∧ (∀ i, i < 32 → i < (kHead kn.image).bindings → c.a.getD i (none, 0) = (some i, ((binds[i]?).map Prod.snd).getD 0))
         ∧ ∃ r, c.run = some r ∧ r.cmd = w.cmd ∧ r.kernel = w.kernel ∧ r.phase = w.phase ∧ r.binds = binds ∧ r.gen = genInit seed k cmd.admitTick))
  ∧ (∀ (s : State) (k i : Nat), s.up = true →
     let g := s.ring k i
     (∀ gen err late t, gen < g.gen → owedResponse k i gen false s = some (late, t) →
       exec (.ringSlotArrival k i gen err) s = .next (leaves s (drive (if late then countChan ((s.cluster k).owner.getD 0) 25 1 t else t))))
     ∧ (∀ late t, i ≠ 16 → owedResponse k i 0 true s = some (late, t) → exec (.writeAck k i) s = .next (leaves s (drive t)))
     ∧ exec (.writeAck k 16) s = .next (leaves s (drive (s.setCluster k fun c => { c with adds := c.adds - 1 })))
     ∧ (∀ r : Running, s.running k = some r →
       let d := r.ring i
       let n := g.head + g.slots.length
       let ps := slotPieces d g n
       let poison := match r.object g with
         | some o => ps.any fun p => s.poisoned o p.1 p.2
         | none => false
       (∀ err, d.output = false → slotUnplaced r d g n s = false → n < g.issued →
         (err = false → poison = false →
           let rd := ps.map fun p => bindRead r (r.bind g.bind) p.1 p.2 s
           let stale := match (r.object g).bind s.obj with
             | some o => ((piecePages ps).filter fun p => ((assocGet p o.pageInfo).map Page.stale).getD false).length
             | none => 0
           let t := countChan r.chan 28 stale s
           let u := if rd.any Prod.snd then countChan r.chan 12 1 t else t
           exec (.ringSlotArrival k i g.gen err) s = .next (leaves s (drive (setRing k i (fun g => { g with slots := g.slots ++ [(n, rd.flatMap Prod.fst)], back := 0 })
             (cacheSlot r d g n (countStall r k u i))))))
         ∧ (err = true ∨ poison = true →
           let t := match r.object g, ps.head? with
             | some o, some p => uncorrectable o p.1 p.2 s
             | _, _ => s
           exec (.ringSlotArrival k i g.gen err) s = .next (leaves s (endRun r.run.cmd 5 1 ((((r.object g).bind s.obj).map Obj.tier).getD 2)
             (event 1 "UNCORRECTABLE" r.cmd.q.access (r.stream k i) t)))))
       ∧ (∀ gen err, g.gen < gen ∨ (gen = g.gen ∧ (d.output = true ∨ slotUnplaced r d g n s = true ∨ (g.issued ≤ n ∧ g.granted ≤ g.back))) →
         exec (.ringSlotArrival k i gen err) s = .next (leaves s s))
       ∧ (∀ err, d.output = false → slotUnplaced r d g n s = false → g.issued ≤ n → g.back < g.granted →
         let t := regrant r k i (slotTags d g n) s
         (n < (t.ring k i).issued → exec (.ringSlotArrival k i g.gen err) s = .next (leaves s (slotArrives r k i err t)))
         ∧ ((t.ring k i).issued ≤ n → exec (.ringSlotArrival k i g.gen err) s = .next (leaves s t)))
       ∧ (i ≠ 16 → owedResponse k i 0 true s = none →
         let waits := match r.object g with
           | some o => (pieces d g (d.slotBytes / 16 + 2) (g.acked * d.slotBytes) (slotSize d g.acked)).any fun p => s.expanding o p.1 p.2
           | none => false
         (waits = true → exec (.writeAck k i) s = .next (leaves s s))
         ∧ (waits = false → g.acked < g.wrote → exec (.writeAck k i) s = .next (leaves s (drive (setRing k i (fun g => { g with acked := g.acked + 1, back := 0 }) s))))
         ∧ (waits = false → g.wrote ≤ g.acked → g.granted ≤ g.back ∨ d.output = false → exec (.writeAck k i) s = .next (leaves s s))
         ∧ (waits = false → g.wrote ≤ g.acked → g.back < g.granted → d.output = true →
           let t := regrant r k i (pieceTags (slotPieces d g g.wrote)) s
           (g.wrote < (t.ring k i).wrote → exec (.writeAck k i) s = .next (leaves s (drive (setRing k i (fun g => { g with acked := g.acked + 1, back := 0 }) t))))
           ∧ ((t.ring k i).wrote ≤ g.wrote → exec (.writeAck k i) s = .next (leaves s (drive t))))))
     ∧ (s.running k = none → (∀ err, exec (.ringSlotArrival k i g.gen err) s = .next (leaves s s))
       ∧ (i ≠ 16 → owedResponse k i 0 true s = none → exec (.writeAck k i) s = .next (leaves s s))))
  ∧ (∀ (s : State) (k i : Nat), s.up = true →
     let g := s.ring k i
     (s.running k = none → exec (.ringLate k i) s = .next (leaves s s))
     ∧ (∀ r : Running, s.running k = some r →
       (lateSlot r k i s = none → exec (.ringLate k i) s = .next (leaves s s))
       ∧ (∀ slot since, lateSlot r k i s = some (slot, since) →
         let m := r.stream k i
         let due := r.due g slot
         let now := max s.frame.cycle due
         let t := (({ s with frame := { s.frame with cycle := now } } : State).setCluster k fun c => { c with run := c.run.map fun p => { p with late := some (p.late.getD m) } }).setCmd
           r.cmd.id fun d => { d with lateStream := some (d.lateStream.getD m) }
         (r.run.named.contains m = true → exec (.ringLate k i) s = .next (leaves s t))
         ∧ (r.run.named.contains m = false → exec (.ringLate k i) s = .next (leaves s (logEvent 2 (Config.eventCode "STREAM_LATE" % 4096) r.cmd.q.access m
             (leBytes 8 slot ++ leBytes 8 due ++ leBytes 8 (now - due))
             (countChan r.chan 23 1 (t.setCluster k fun c => { c with run := c.run.map fun p => { p with named := p.named ++ [m] } })))))))
     ∧ (∀ (id : Nat) (c : Cmd) (ch : Channel) (kn : Kernel) (p : PhaseRun) (due : Nat), s.cmd id = some c → s.chan (handleSlot c.q.handle) = some ch →
         (s.lateRuns id).head? = some (p, due) → s.kernel p.kernel = some kn →
         let t := ({ s with frame := { s.frame with cycle := max s.frame.cycle (due + 16800) } } : State)
         let miss := fun (u : State) => endRun id 4 3 (missDetail c.lateStream) u
         (c.runSetting 0 ≠ 2 → exec (.phaseDeclaredLate id) s = .next (leaves s s))
         ∧ (c.runSetting 0 = 2 → c.fallback ≠ none ∨ s.kernelOn (c.runSetting 1) = none → exec (.phaseDeclaredLate id) s = .next (leaves s (miss t)))
         ∧ (∀ f, c.runSetting 0 = 2 → c.fallback = none → s.kernelOn (c.runSetting 1) = some f →
           (fallbackMeets kn.image f.image = false → exec (.phaseDeclaredLate id) s = .next (leaves s (miss (countChan ch.slot 15 1 t))))
           ∧ (fallbackMeets kn.image f.image = true →
             let need := phaseCharge f 0
             let u := dropPhases id t
             let put := fun (tick : Nat) => u.setCmd id fun d => { d with
               stages := (d.stages.filter fun g => g.finished) ++ [{ kind := .phase 0, tick := tick, charge := need }] ++ d.stages.filter fun g => g.kind == .walk
               fallback := some f.id }
             let now := !u.frame.tail && u.fitsTick u.tick need
             let later := findFrom (fun t => u.fitsTick t need) (c.admitTick + c.deadline - u.tick) (u.tick + 1)
             (now = true → exec (.phaseDeclaredLate id) s = .next (leaves s (queuePhase id f.id 0 (chargeNow need (put u.tick)))))
             ∧ (∀ n, now = false → later = some n → exec (.phaseDeclaredLate id) s = .next (leaves s (put n)))
             ∧ (now = false → later = none → exec (.phaseDeclaredLate id) s = .next (leaves s (miss u))))))
     ∧ (∀ src tile : Nat, (s.cluster k).partials.find? (fun p => p.src == src && p.tile == tile && !p.arrived) = none →
         exec (.splitPartialArrival k src tile) s = .next (leaves s s))
     ∧ (∀ (src tile : Nat) (p : Partial), (s.cluster k).partials.find? (fun p => p.src == src && p.tile == tile && !p.arrived) = some p →
         exec (.splitPartialArrival k src tile) s = .next (leaves s (drive (s.setCluster k fun c => { c with partials := c.partials.erase p ++ [{ p with arrived := true }] })))))

/-- The page mover (R280, R290, R293–R295): within its job's slice a page of a migration is copied, bad granules poisoned, and switches at the next boundary;
a plan's page is placed; nothing is copied after the cut-off. A page that compresses to at most 12 sectors is fulled and its direct page freed, another is
skipped; a write expands a fulled page, or waits with MEM_RESERVE when no page can be had; a read leaves it; the hold of a plan ends. -/
def Obligations.PageEvents : Prop :=
  ∀ (s : State) (n page : Nat) (o : Obj), s.up = true → s.obj n = some o →
    (∀ (m : Migration) (j : Job) (bad : List Nat), s.frame.tail = false → o.migration = some m → s.migrateJob n = some j → m.left.contains page = true →
      (o.page page).switching = none → j.phase ≠ 0 →
      let t := (bad.filter fun g => decide (g < 256)).foldl (fun t g => uncorrectable n (page * pageBytes + 256 * g) 256 t) s
      exec (.pageCopy n page bad) s = .next (leaves s
        ((t.setObj n fun o => o.setPage page fun x => { x with switching := some m.tier }).setJob j.id fun j => { j with phase := j.phase - 1, progressed := true })))
    ∧ (∀ bad c j e i k, s.frame.tail = false → s.migrateJob n = none → s.planFor n page = some (c, j, e, i, k) →
      exec (.pageCopy n page bad) s = .next (leaves s (placePage c j e i k bad s)))
    ∧ (∀ bad, s.frame.tail = true → exec (.pageCopy n page bad) s = .next (leaves s s))
    ∧ (s.frame.tail = false → o.canFull page = true → s.fullFirst o page = true → s.uncharged s.tick .pages ≠ 0 →
      let t := chargeNow [(.pages, 1)] s
      let z := fulledSize (t.pageData n page)
      (z ≤ 12 → exec (.pageFull n page) s = .next (leaves s ((freeSpace (.sectors 16 ((o.stackOf page).getD 12)) (t.setObj n fun o => o.setPage page fun p =>
        { p with fulled := some z })).setMem fun m => { m with fullSaved := satAdd m.fullSaved (16 - z) })))
      ∧ (12 < z → exec (.pageFull n page) s = .next (leaves s ((t.setObj n fun o => o.setPage page fun p => { p with skipped := true }).setMem fun m =>
        { m with fullSkipped := satAdd m.fullSkipped 1 }))))
    ∧ (s.frame.tail = true ∨ o.canFull page = false → exec (.pageFull n page) s = .next (leaves s s))
    ∧ (∀ bs : Bytes, bs.all (· == 0) = true → fulledSize bs = 1)
    ∧ exec (.pageExpansion n page false) s = .next (leaves s s)
    ∧ ((o.page page).fulled = none → exec (.pageExpansion n page true) s = .next (leaves s s))
    ∧ (∀ z, (o.page page).fulled = some z → z ≠ 0 →
      let t := (freeSpace (.sectors z ((o.stackOf page).getD 12)) s).setObj n fun o => o.setPage page fun p => { p with fulled := none, expandWait := false, directSince := s.tick }
      let settled := if t.objs.any fun x => x.pageInfo.any fun p => p.2.expandWait then t else clearAlarm 0x005 0 t
      (0 < s.t1Free → exec (.pageExpansion n page true) s = .next (leaves s settled))
      ∧ (0 < s.t1Free → (o.page page).expandWait = true → exec (.expansionWait n page) s = .next (leaves s settled))
      ∧ (s.t1Free = 0 → (o.page page).expandWait = false → exec (.pageExpansion n page true) s = .next (leaves s (raiseAlarm 0x005 0
          ((s.setObj n fun o => o.setPage page fun p => { p with expandWait := true }).setMem fun m => { m with expansionWait := satAdd m.expansionWait 1 }))))
      ∧ (s.t1Free = 0 → exec (.expansionWait n page) s = .next (leaves s s)))
    ∧ (∀ id, let due := s.mem.holds.filter fun h => h.1 == id && decide (h.2.1 ≤ s.tick)
      exec (.keepHoldExpiry id) s = .next (leaves s (s.setMem fun m => { m with
        holds := m.holds.filter fun h => !due.contains h
        cache := m.cache.map fun e =>
          if due.any (fun h => e.1 == h.2.2.1 && decide (h.2.2.2.1 ≤ e.2.1) && decide (e.2.1 < h.2.2.2.1 + h.2.2.2.2)) then (e.1, e.2.1, false) else e })))

/-- R302's refresh rates: 1x up to 85 °C, 2x above, 4x above 95 °C, stepping up at once and down only 3 °C below the threshold. Stack events (R283, R302,
R303, R305–R307): a report sets the rate and throttles above the stack's threshold until 5 °C below it, with STACK_HOT, and ends a sensor's silence; a silent
sensor counts as hot; the stack that a granule's page lies on scrubs it: one that was corrected is counted, one that is uncorrectable is poisoned and its page
retired, and poison already there raises nothing further. -/
def Obligations.StackEvents : Prop :=
  (∀ now temp : Nat,
     (95 < temp → refreshFor now temp = 4)
     ∧ (85 < temp → temp ≤ 95 → now ≠ 4 → refreshFor now temp = 2)
     ∧ (now = 4 → 92 < temp → refreshFor now temp = 4)
     ∧ (now = 4 → 85 < temp → temp ≤ 92 → refreshFor now temp = 2)
     ∧ (2 ≤ now → now ≤ 4 → 82 < temp → temp ≤ 85 → refreshFor now temp = 2)
     ∧ (temp ≤ 82 → refreshFor now temp = 1)
     ∧ (now = 1 → temp ≤ 85 → refreshFor now temp = 1))
  ∧ (∀ (s : State) (k : Nat) (st : Stack), s.up = true → s.stackList[k]? = some st → st.inService = true →
     (∀ temp,
       let hot := decide (st.throttleAt < temp) || (st.throttled && decide (st.throttleAt < temp + 5))
       let t := s.setStack k fun st => { st with temp := temp, refresh := refreshFor st.refresh temp, throttled := hot, sensorLost := false }
       let u := if st.sensorLost then clearAlarm 0x006 k t else t
       (st.throttled = false → hot = true → exec (.stackTempReport k temp) s = .next (leaves s (alertPin (raiseAlarm 0x007 k u))))
       ∧ (st.throttled = true → hot = false → exec (.stackTempReport k temp) s = .next (leaves s (alertPin (clearAlarm 0x007 k u))))
       ∧ (st.throttled = hot → exec (.stackTempReport k temp) s = .next (leaves s (alertPin u))))
     ∧ exec (.stackSensorTimeout k) s = .next (leaves s (alertPin (raiseAlarm 0x007 k (raiseAlarm 0x006 k
         (s.setStack k fun st => { st with refresh := 4, throttled := true, sensorLost := true })))))
     ∧ (∀ (n page gran : Nat) (o : Obj), s.obj n = some o → gran < 256 → page < o.pages → o.pageTier page = 1 → o.stackOf page = some k →
       let at_ := page * pageBytes + 256 * gran
       (s.poisoned n at_ 256 = false →
         exec (.patrolScrub k n page gran 0) s = .next (leaves s s)
         ∧ exec (.patrolScrub k n page gran 1) s = .next (leaves s (correctedError k n page gran s))
         ∧ exec (.patrolScrub k n page gran 2) s = .next (leaves s (retirePage k n page 4 (uncorrectable n at_ 256 s))))
       ∧ (s.poisoned n at_ 256 = true → ∀ out, exec (.patrolScrub k n page gran out) s = .next (leaves s s))))

/-- Delivery of a packet in its pair's order (R319, R320, R326), for every TYPE but ACK (READ, READ_RESP, WRITE, the six ATOMICs, ATOMIC_RESP, ROW_ADD,
ROW_STEP, WALK, CANCEL, REFUSED, PARTIAL_LIST and a reserved TYPE): a packet whose PAIR_SEQ is next acts, then those held behind it, and all are acknowledged;
an early one is held once; a duplicate is only acknowledged; a multicast copy acts at once. -/
def Obligations.PairOrder : Prop :=
  ∀ (i : Instr) (h : FabHdr) (s : State), fabHdr i = some h → s.up = true →
    let ahead := (h.pairSeq + 65536 - s.nextSeq h.src) % 65536
    (s.fabric.joined = true → h.mcast = true → exec i s = .next (leaves s (pktEffect i s)))
    ∧ (s.fabric.joined = true → h.mcast = false → h.dst = s.self → ahead = 0 →
        exec i s = .next (leaves s (sendAck h (releaseHeld h.src s.fabric.held.length (pktEffect i (s.taken h))))))
    ∧ (s.fabric.joined = true → h.mcast = false → h.dst = s.self → 0 < ahead → ahead < 4096 →
        (s.fabric.held.any (fun p => p.src == h.src && p.pairSeq == h.pairSeq) = false →
          exec i s = .next (leaves s (s.setFabric fun f => { f with held := f.held ++ [⟨h.src, h.pairSeq, i⟩] })))
        ∧ (s.fabric.held.any (fun p => p.src == h.src && p.pairSeq == h.pairSeq) = true → exec i s = .next (leaves s s)))
    ∧ (s.fabric.joined = true → h.mcast = false → h.dst = s.self → 4096 ≤ ahead → exec i s = .next (leaves s (sendAck h s)))
    ∧ (s.fabric.joined = false ∨ (h.mcast = false ∧ h.dst ≠ s.self) → exec i s = .next (leaves s s))

/-- Writes to an object (R252, R285): the bytes written read back, every other byte of the object and every other object reads as before. -/
def Obligations.ObjectWrites : Prop :=
  ∀ (s : State) (n off : Nat) (bs : Bytes) (o : Obj), s.obj n = some o → o.data.wf = true →
    let t := s.writeObj n off bs
    t.readObj n off bs.length = bs
    ∧ (∀ j, j < off ∨ off + bs.length ≤ j → t.readObj n j 1 = s.readObj n j 1)
    ∧ (∀ m j k, m ≠ n → t.readObj m j k = s.readObj m j k)

/-- Memory packets (R305, R313, R315, R316, R319, R321): a read of this member's memory is answered with its bytes and their poison, a write is applied, a
poisoned one leaving the granules it writes poisoned, a page homed elsewhere is forwarded; an address behind which nothing lies changes nothing. Row updates
over the fabric (R185, R251, R262, R263, R305, R324): a row of this member is read, updated and written at once with the packet's delta or gradient, and its
counts go to a channel; a poisoned slot is not; a row elsewhere, a table that is gone or a step without optimiser state changes nothing. The swap of a
directory entry frees the slot it displaces. The rounding mode, the seed and the channel's number are in no packet and are free (DESIGN CHOICE, log entry 93).
-/
def Obligations.MemoryPackets : Prop :=
  (∀ (s : State) (h : FabHdr) (addr : Nat),
     (∀ tag g p, 0 < g → g ≤ 64 → s.resolve addr (256 * g) = some p → (∀ m, p ≠ .away m) →
       pktEffect (.read h tag addr g) s = sendFab { typ := 0x02, cls := h.cls, mcast := false, dst := h.src, pairSeq := 0, coord := h.coord, query := h.query
                                                    admitTick := h.admitTick, deadline := h.deadline, poison := p.poisoned (256 * g) s
                                                    spec := leBytes 8 tag, payload := p.bytes (256 * g) s } s)
     ∧ (∀ tag g, 0 < g → g ≤ 64 → s.resolve addr (256 * g) = none → pktEffect (.read h tag addr g) s = s)
     ∧ (∀ tag g m, 0 < g → g ≤ 64 → s.resolve addr (256 * g) = some (.away m) →
       pktEffect (.read h tag addr g) s = redirect h 0x01 (leBytes 1 0 ++ leBytes 8 addr ++ leBytes 2 g) [] m s)
     ∧ (∀ data n off, s.resolve addr data.length = some (.here n off) →
       (h.poison = false → pktEffect (.write h addr data) s = s.writeObj n off data)
       ∧ (h.poison = true → pktEffect (.write h addr data) s
         = (s.writeObj n off data).setObj n fun o => { o with poison := dedupBy id (o.poison ++ granules off data.length) }))
     ∧ (∀ data a, s.resolve addr data.length = some (.held a) → pktEffect (.write h addr data) s = s.setMem fun m => { m with
         held := m.held.write a data
         heldPoison := if h.poison then dedupBy id (m.heldPoison ++ granules a data.length)
           else m.heldPoison.filter fun g => !(decide (a ≤ 256 * g) && decide (256 * g + 256 ≤ a + data.length)) })
     ∧ (∀ data m, s.resolve addr data.length = some (.away m) →
       pktEffect (.write h addr data) s = redirect h 0x03 (leBytes 1 0 ++ leBytes 8 addr ++ leBytes 2 ((data.length + 255) / 256)) data m s)
     ∧ (∀ data, s.resolve addr data.length = none → pktEffect (.write h addr data) s = s)
     ∧ (∀ tag data, pktEffect (.readResp h tag data) s = gatherAnswered (s.setFabric fun f => { f with
         reads := modifyIf f.reads (fun r => r.tag == tag && r.member == h.src && r.data.isNone) fun r => { r with data := some data, bad := h.poison } }))
     ∧ (∀ tag data, pktEffect (.atomicResp h tag data) s = pktEffect (.readResp h tag data) s))
  ∧ (∀ (s : State) (h : FabHdr) (num row dfmt : Nat) (block data : Bytes) (t : Table), s.table num = some t →
     let slot := 8 * (s.dirEntry t (t.localRow row)).1
     let chan := ((s.channels.map Channel.slot)[Config.freeNat (s.free + 2) % max s.channels.length 1]?).getD 0
     let run := fun (step : Option OptBlock) =>
       let d := remoteDelta t step.isSome dfmt data
       let r := rowUpdate t row { step := step, stochastic := Config.freeBool s.free } (cleanDelta d.1).1
         { member := h.src, cmd := h.query, seed := (Config.seed (s.free + 1)).toNat, tick := h.admitTick } { s with free := s.free + 3 }
       countConv chan (sumCounts [d.2, (cleanDelta d.1).2, r.2]) r.1
     (t.freed = false → row < t.rows → t.holds s.self row = true → s.poisoned t.heap slot t.slotBytes = false →
       pktEffect (.rowAdd h num row dfmt data) s = run none
       ∧ (t.opt = true → pktEffect (.rowStep h num row dfmt block data) s = run (some (optBlock block))))
     ∧ (t.freed = false → row < t.rows → t.holds s.self row = true → s.poisoned t.heap slot t.slotBytes = true →
       pktEffect (.rowAdd h num row dfmt data) s = uncorrectable t.heap slot t.slotBytes s
       ∧ (t.opt = true → pktEffect (.rowStep h num row dfmt block data) s = uncorrectable t.heap slot t.slotBytes s))
     ∧ (t.rows ≤ row ∨ t.holds s.self row = false ∨ t.freed = true →
       pktEffect (.rowAdd h num row dfmt data) s = s ∧ pktEffect (.rowStep h num row dfmt block data) s = s)
     ∧ (t.opt = false → pktEffect (.rowStep h num row dfmt block data) s = s)
     ∧ (∀ tag addr e, s.dirAt addr = some (t, e) → addr % 8 = 0 → data.length = 8 → pktEffect (.atomicSwap h tag addr data) s
       = dirSwapped t (match s.resolve addr 8 with | some p => leVal (p.bytes 8 s) | none => 0) (leVal data) (atomicApplied h 5 addr 8 data (some tag) (fun _ => data) s)))

/-- Atomics on an object of this member (R252, R324): the integer adds wrap element by element, the floating adds round each element once; SWAP and CAS send
the old value back, and CAS writes only if it is equal; all leave every other byte of every object as it was. On a poisoned granule the atomic fails: nothing
is written, and an old value goes back poisoned. An operand of wrong length or alignment changes nothing. A swap of a row directory's entry changes the
table's free slots too and stands in RowPackets. -/
def Obligations.AtomicResults : Prop :=
  ∀ (s : State) (h : FabHdr) (addr n off tag : Nat) (data : Bytes) (o : Obj), s.obj n = some o → o.data.wf = true →
    let old := s.readObj n off 8
    let answer := fun (t : State) => sendFab { typ := 0x05, cls := h.cls, mcast := false, dst := h.src, pairSeq := 0, coord := h.coord, query := h.query
                                               admitTick := h.admitTick, deadline := h.deadline, poison := false, spec := leBytes 8 tag, payload := old } t
    let others := fun (w : Nat) (t : State) => (∀ j, j < off ∨ off + w ≤ j → t.readObj n j 1 = s.readObj n j 1) ∧ ∀ m j k, m ≠ n → t.readObj m j k = s.readObj m j k
    (s.resolve addr data.length = some (.here n off) → s.poisoned n off data.length = false → 0 < data.length → data.length ≤ 256 →
      addr / 256 = (addr + data.length - 1) / 256 →
      (data.length % 4 = 0 → addr % 4 = 0 → let t := pktEffect (.atomicAddI32 h addr data) s
        (∀ k, 4 * k + 4 ≤ data.length → fld (t.readObj n off data.length) (4 * k) 4 = (fld (s.readObj n off data.length) (4 * k) 4 + fld data (4 * k) 4) % 2 ^ 32) ∧ others data.length t)
      ∧ (data.length % 8 = 0 → addr % 8 = 0 → let t := pktEffect (.atomicAddI64 h addr data) s
        (∀ k, 8 * k + 8 ≤ data.length → fld (t.readObj n off data.length) (8 * k) 8 = (fld (s.readObj n off data.length) (8 * k) 8 + fld data (8 * k) 8) % 2 ^ 64) ∧ others data.length t)
      ∧ (data.length % 4 = 0 → addr % 4 = 0 → let t := pktEffect (.atomicAddF32 h addr data) s
        (∀ k, 4 * k + 4 ≤ data.length → fld (t.readObj n off data.length) (4 * k) 4
          = ieeeAdd fmtF32 s.free (fld (s.readObj n off data.length) (4 * k) 4) (fld data (4 * k) 4) % 2 ^ 32) ∧ others data.length t)
      ∧ (data.length % 2 = 0 → addr % 2 = 0 → let t := pktEffect (.atomicAddBf16 h addr data) s
        (∀ k, 2 * k + 2 ≤ data.length → fld (t.readObj n off data.length) (2 * k) 2
          = ieeeAdd fmtBF16 s.free (fld (s.readObj n off data.length) (2 * k) 2) (fld data (2 * k) 2) % 2 ^ 16) ∧ others data.length t))
    ∧ (s.resolve addr 8 = some (.here n off) → s.poisoned n off 8 = false → addr % 8 = 0 → data.length = 16 →
      (old = data.take 8 → pktEffect (.atomicCas h tag addr data) s = answer (s.writeObj n off (data.drop 8)))
      ∧ (old ≠ data.take 8 → pktEffect (.atomicCas h tag addr data) s = answer (s.writeObj n off old) ∧ others 0 (pktEffect (.atomicCas h tag addr data) s)))
    ∧ (s.resolve addr 8 = some (.here n off) → s.poisoned n off 8 = false → addr % 8 = 0 → data.length = 8 → s.dirAt addr = none →
      pktEffect (.atomicSwap h tag addr data) s = answer (s.writeObj n off data))
    ∧ (s.resolve addr data.length = some (.here n off) → s.poisoned n off data.length = true → 0 < data.length → data.length ≤ 256 →
      addr / 256 = (addr + data.length - 1) / 256 → addr % 8 = 0 → data.length % 8 = 0 →
      pktEffect (.atomicAddI32 h addr data) s = uncorrectable n off data.length s ∧ pktEffect (.atomicAddI64 h addr data) s = uncorrectable n off data.length s
      ∧ pktEffect (.atomicAddF32 h addr data) s = uncorrectable n off data.length { s with free := s.free + 1 }
      ∧ pktEffect (.atomicAddBf16 h addr data) s = uncorrectable n off data.length { s with free := s.free + 1 })
    ∧ (s.resolve addr 8 = some (.here n off) → s.poisoned n off 8 = true → addr % 8 = 0 →
      let failed := sendFab { typ := 0x05, cls := h.cls, mcast := false, dst := h.src, pairSeq := 0, coord := h.coord, query := h.query
                              admitTick := h.admitTick, deadline := h.deadline, poison := true, spec := leBytes 8 tag, payload := old } (uncorrectable n off 8 s)
      (data.length = 16 → pktEffect (.atomicCas h tag addr data) s = failed)
      ∧ (data.length = 8 → s.dirAt addr = none → pktEffect (.atomicSwap h tag addr data) s = failed))
    ∧ (data.length % 4 ≠ 0 ∨ addr % 4 ≠ 0 → pktEffect (.atomicAddI32 h addr data) s = s ∧ pktEffect (.atomicAddF32 h addr data) s = s)
    ∧ (data.length ≠ 16 ∨ addr % 8 ≠ 0 → pktEffect (.atomicCas h tag addr data) s = s)

/-- Walks and lists over the fabric (R23, R64, R135, R138, R321, R326): a WALK is placed in the earliest tick from n to n + D that has capacity, or refused;
one whose CANCEL came first is discarded; what a CANCEL, a REFUSED, a PARTIAL_LIST and a reserved TYPE do. The charge of a WALK is its hop budget (DEDUCED,
log entry 25). -/
def Obligations.WalkPackets : Prop :=
  ∀ (s : State) (h : FabHdr),
    (∀ w, (∃ c ∈ s.fabric.cancels, c.1 = h.coord ∧ c.2.1 = h.query ∧ s.tick ≤ c.2.2) →
        pktEffect (.walk h w) s = s.setFabric fun f => { f with cancels := f.cancels.filter fun c => !(c.1 == h.coord && c.2.1 == h.query && decide (s.tick ≤ c.2.2)) })
    ∧ (∀ w, s.fabric.cancels = [] → (s.index w.index).bind Index.shard = none → pktEffect (.walk h w) s = refuseWalk h 0 s)
    ∧ (∀ (w : WalkMsg) (sh : Shard), s.fabric.cancels = [] → (s.index w.index).bind Index.shard = some sh → w.strict = true → h.admitTick + h.deadline < s.tick →
        pktEffect (.walk h w) s = refuseWalk h sh.number s)
    ∧ (∀ (w : WalkMsg) (sh : Shard), s.fabric.cancels = [] → (s.index w.index).bind Index.shard = some sh →
        let v : Walk :=
          { id := 0, coord := h.coord, query := h.query, index := w.index, shard := sh.number, k := w.k, width := w.width, budget := w.budget
            strict := w.strict, degrade := w.degrade, escalation := w.escalation, exactCount := w.exact, charge := w.budget, sketch := w.sketch
            predicate := w.predicate, tagSet := w.tagSet, vector := w.vector, admitTick := h.admitTick, deadline := h.deadline, tick := s.tick
            noEscalation := w.escalation == 0 }
        let patient := !w.strict && !w.degrade
        let first := max h.admitTick (if s.frame.tail then s.tick + 1 else s.tick)
        let fits := s.chargedAt s.tick .hops + w.budget ≤ s.capacity .hops ∧ (s.tick ≤ h.admitTick + h.deadline ∨ patient = true) ∧ (placeWalk v s.tick s).2 = true
        let next := s.walkTickFrom (if first = s.tick then s.tick + 1 else first) w.budget h.admitTick h.deadline patient
        (first = s.tick → fits → pktEffect (.walk h w) s = markReady (chargeNow [(.hops, w.budget)] (placeWalk v s.tick s).1))
        ∧ (first ≠ s.tick ∨ ¬ fits → ∀ t, next = some t → pktEffect (.walk h w) s = (placeWalk v t s).1)
        ∧ (first ≠ s.tick ∨ ¬ fits → next = none → pktEffect (.walk h w) s = refuseWalk h sh.number s))
    ∧ (∀ index, let mine := fun (w : Walk) => w.coord == h.coord && w.query == h.query && w.index == index
        (s.walks.any mine = true → pktEffect (.cancel h index) s = { s with walks := modifyIf s.walks (fun w => mine w && w.phase != .sent) fun w => { w with cancelled := true } })
        ∧ (s.walks.any mine = false → s.tick ≤ h.admitTick + h.deadline →
          pktEffect (.cancel h index) s = s.setFabric fun f => { f with cancels := f.cancels ++ [(h.coord, h.query, h.admitTick + h.deadline)] })
        ∧ (s.walks.any mine = false → h.admitTick + h.deadline < s.tick → pktEffect (.cancel h index) s = s))
    ∧ (∀ shard, h.coord = s.self → pktEffect (.refused h shard) s = shardAnswers h.query shard .missing s)
    ∧ (∀ l, h.coord = s.self → pktEffect (.partialList h l) s = shardAnswers h.query l.shard (.list l) s)
    ∧ (∀ (l : ListMsg) (q : Query), h.coord = s.self → s.queries.find? (fun q => q.number == h.query) = some q → q.result ≠ none →
        q.shards.any (fun p => p.1 == l.shard && p.2 == .waiting) = true →
        pktEffect (.partialList h l) s = (s.setQuery h.query fun v => { v with
          shards := v.shards.map fun p => if p.1 = l.shard then (p.1, .list l) else p }).setChan q.chan fun c => { c with lateLists := c.lateLists + 1 })
    ∧ (∀ code, pktEffect (.badType h code) s = s.setFabric fun f => { f with badType := satAdd f.badType 1 })

/-- Acknowledgement, resends, transit, neighbours (R317, R320, R325, R330): an ACK frees the window; a packet is sent again at most three times; a packet for
another member goes on by this member's route; LINK_INFO and JOIN change what is known of the fabric, the lowest member known leading (R13), and a partner of
another hall is refused; a gateway sends one copy of a multicast packet to each destination in its group. -/
def Obligations.LinkPackets : Prop :=
  ∀ s : State, s.up = true →
    (∀ (h : FabHdr) (upTo : Nat), s.fabric.joined = true → h.dst = s.self → exec (.ack h upTo) s = .next (leaves s (updAcked (sendBacklog h.src (s.setFabric fun f => { f with
        unacked := f.unacked.filter fun p => !(p.1.dst == h.src && decide ((upTo + 65536 - p.1.pairSeq) % 65536 < 32768) && !f.backlog.contains p.1) })))))
    ∧ (∀ (dst seq k : Nat) (p : FabPkt), s.fabric.unacked.find? (fun p => p.1.dst == dst && p.1.pairSeq == seq && !s.fabric.backlog.contains p.1) = some (p, k) →
        (k < 3 → exec (.pktResend dst seq) s = .next (leaves s (s.setFabric fun f => { f with
          sent := f.sent ++ [{ p with retry := true, link := assocGet dst f.routes }], unacked := modifyIf f.unacked (fun x => x == (p, k)) fun x => (x.1, k + 1)
          pktResend := satAdd f.pktResend 1 })))
        ∧ (3 ≤ k → exec (.pktResend dst seq) s = .next (leaves s (updAcked (sendBacklog dst ((updLost dst seq s).setFabric fun f => { f with
          unacked := f.unacked.filter fun x => x != (p, k), pktUnreachable := satAdd f.pktUnreachable 1 }))))))
    ∧ (∀ (h : FabHdr) (typ l : Nat) (bs : Bytes), h.mcast = false → h.dst ≠ s.self → s.routeTo h.dst = some l →
        exec (.transitForward h typ bs []) s = .next (leaves s (s.setFabric fun f => { f with
          sent := f.sent ++ [{ typ := typ, cls := h.cls, mcast := false, dst := h.dst, pairSeq := h.pairSeq, coord := h.coord, query := h.query, admitTick := h.admitTick
                               deadline := h.deadline, poison := h.poison, retry := h.retry, spec := bs.take 11, payload := bs.drop 11, src := some h.src
                               link := assocGet h.dst f.routes }] })))
    ∧ (∀ (h : FabHdr) (typ : Nat) (bs : Bytes) (ms : List Nat),
        (h.mcast = true → exec (.transitForward h typ bs ms) s = .next (leaves s ((ms.filter fun m => m / 32 == s.self / 32 && m != s.self && s.canReach m).foldl
          (fun t m => sendRaw { typ := typ, cls := h.cls, mcast := true, dst := m, pairSeq := h.pairSeq, coord := h.coord, query := h.query, admitTick := h.admitTick
                                deadline := h.deadline, poison := h.poison, retry := h.retry, spec := bs.take 11, payload := bs.drop 11, src := some h.src } t) s)))
        ∧ (h.mcast = false → s.routeTo h.dst = none → exec (.transitForward h typ bs ms) s = .next (leaves s s)))
    ∧ (∀ (k : Nat) (live : List LiveLink), (s.fabric.links.getD k {}).isUp = true →
        let t := s.setLink k fun l => { l with advertised := live }
        (s.fabric.joined = true → exec (.linkInfo k live) s = .next (leaves s (routesStale (learnOf (live.flatMap fun p => [p.a, p.b]) t))))
        ∧ (s.fabric.joined = false → exec (.linkInfo k live) s = .next (leaves s (routesStale t))))
    ∧ (∀ (ms : List Nat) (t : State), t.objs = [] →
        learnOf ms t = t.setFabric fun f => { f with members := dedupBy id (f.members ++ ms.map (· % 2048)), leader := (ms.map (· % 2048)).foldl min f.leader })
    ∧ (∀ (k hall member : Nat) (ok : Bool), k < 36 → s.fabric.joined = true → (s.fabric.links.getD k {}).isUp = true →
        (ok = false ∨ hall ≠ s.fabric.hallId →
          exec (.join k hall member ok) s = .next (leaves s (routesStale (s.setLink k fun l => { l with state := .refused, lanes := 0, hallId := hall }))))
        ∧ (ok = true → hall = s.fabric.hallId → member ≠ s.self →
          exec (.join k hall member ok) s = .next (leaves s (routesStale (learnOf [member] (s.setLink k fun l => { l with hallId := hall, partner := member }.settle))))))

/-- Lanes (R313, R329): of the lanes that are allowed and have not failed the lowest four carry the link, or two, or it is down. A failed lane with four good
ones left is replaced by the spare at the next boundary; with fewer the link narrows or goes down, its routes are recomputed, and the change is recorded; a
spare that carries nothing only counts as failed. A link held out or disabled does not train. -/
def Obligations.LaneRules : Prop :=
  (∀ l : Link,
    (4 ≤ l.good.length → l.settle.state = .up4 ∧ l.settle.lanes = (l.good.take 4).foldl (fun a i => a + 2 ^ i) 0)
    ∧ (2 ≤ l.good.length → l.good.length < 4 → l.settle.state = .up2 ∧ l.settle.lanes = (l.good.take 2).foldl (fun a i => a + 2 ^ i) 0)
    ∧ (l.good.length < 2 → l.settle.state = .down ∧ l.settle.lanes = 0))
  ∧ ∀ (s : State) (k lane : Nat), s.up = true →
    let l := s.fabric.links.getD k {}
    let cut := { l with failedLanes := l.failedLanes ++ [lane] }
    (exec (.laneErrorReport k lane false) s = .next (leaves s s))
    ∧ (lane < 5 → l.failedLanes.contains lane = false → l.isUp = true → bit l.lanes lane = false →
      exec (.laneErrorReport k lane true) s = .next (leaves s (s.setLink k fun _ => cut)))
    ∧ (5 ≤ lane ∨ l.failedLanes.contains lane = true ∨ l.isUp = false → exec (.laneErrorReport k lane true) s = .next (leaves s s))
    ∧ (l.isUp = false → exec (.flitReplay k) s = .next (leaves s s) ∧ ∀ ns, exec (.linkLatencyMeasure k ns) s = .next (leaves s s))
    ∧ (lane < 5 → l.failedLanes.contains lane = false → l.isUp = true → bit l.lanes lane = true →
      (4 ≤ cut.good.length → exec (.laneErrorReport k lane true) s = .next (leaves s (s.setLink k fun _ => { cut with swapLane := some lane })))
      ∧ (cut.good.length < 4 → exec (.laneErrorReport k lane true) s = .next (leaves s
          (event 5 (if cut.good.length < 2 then "LINK_DOWN" else "LINK_NARROWED") 0xFF k
            (recordRepair 8 3 (linkUnit k lane) 0xFFFFFFFF 0 (routesStale (s.setLink k fun _ => { cut with swapLane := none }.settle)))))))
    ∧ (l.isUp = true → l.consecutive ≠ 7 → exec (.flitReplay k) s = .next (leaves s ((s.setLink k fun l => { l with
        replays := satAdd l.replays 1, consecutive := if l.consecutive = 7 then 0 else l.consecutive + 1 }).setFabric fun f => { f with flitReplay := satAdd f.flitReplay 1 })))
    ∧ (l.isUp = true → l.consecutive = 7 →
        let t := (s.setLink k fun l => { l with replays := satAdd l.replays 1, consecutive := if l.consecutive = 7 then 0 else l.consecutive + 1 }).setFabric fun f =>
          { f with flitReplay := satAdd f.flitReplay 1 }
        exec (.flitReplay k) s = .next (leaves s (event 5 "LINK_RETRAIN" 0xFF k ((t.setLink k Link.settle).setFabric fun f => { f with linkRetrain := satAdd f.linkRetrain 1 }))))
    ∧ (∀ ns, l.isUp = true → exec (.linkLatencyMeasure k ns) s = .next (leaves s (s.setLink k fun l => if l.isUp then { l with latency := ns } else l)))
    ∧ (∀ lanes lat hall member pl ok, k < 36 →
        let found := { l with partner := member, partnerLink := pl, latency := lat, hallId := hall, consecutive := 0, advertised := []
                              failedLanes := (List.range 5).filter fun i => !bit lanes i }
        ((l.heldOut = true ∨ l.state = .disabled) → exec (.linkTrained k lanes lat hall member pl ok) s = .next (leaves s s))
        ∧ (l.heldOut = false → l.state ≠ .disabled → ok = false ∨ (s.hall ≠ 0 ∧ hall ≠ s.hall) →
          exec (.linkTrained k lanes lat hall member pl ok) s = .next (leaves s (routesStale (s.setLink k fun _ => { found with state := .refused, lanes := 0 }))))
        ∧ (l.heldOut = false → l.state ≠ .disabled → ok = true → (s.hall = 0 ∨ hall = s.hall) →
          exec (.linkTrained k lanes lat hall member pl ok) s = .next (leaves s (routesStale (s.setLink k fun _ => found.settle)))))

/-- What link control flits do in this model (DESIGN CHOICE, log entry 21: their layout is not given): the flit counts as intact; kind 0 retrains, kind 1
gives the partner's lanes, kind 2 a measured latency. -/
def Obligations.LinkControlFlits : Prop :=
  ∀ (s : State) (k v : Nat), s.up = true →
    let t := s.setLink k fun l => { l with consecutive := 0 }
    let l := t.fabric.links.getD k {}
    (l.isUp = true →
      (∀ kind, 3 ≤ kind → exec (.linkControlFlit k kind v) s = .next (leaves s t))
      ∧ exec (.linkControlFlit k 0 v) s = .next (leaves s (routesStale (t.setLink k fun l => { l with state := .training, lanes := 0 })))
      ∧ exec (.linkControlFlit k 1 v) s = .next (leaves s (routesStale (t.setLink k fun l =>
          { l with failedLanes := dedupBy id (l.failedLanes ++ (List.range 5).filter fun i => !bit v i) }.settle)))
      ∧ exec (.linkControlFlit k 2 v) s = .next (leaves s (t.setLink k fun l => { l with latency := v })))
    ∧ (l.isUp = false → ∀ kind, exec (.linkControlFlit k kind v) s = .next (leaves s t))

/-- The hall tick (R28–R31): of a tick's markers the one with the fewest hops, then of the lower link, gives the boundary; a marker of a lower leader, or any
while the leader is lost, is adopted with the higher tick number; two boundaries without a marker lose the leader; the reference paces the leader alone,
within 2 µs, and after a loss from the sixteenth edge on. -/
def Obligations.HallTick : Prop :=
  (∀ (l k : Nat) (m b : Marker) (e : Int), betterMarker l m none = true
    ∧ (m.hops < b.hops → betterMarker l m (some (k, b, e)) = true) ∧ (m.hops = b.hops → (betterMarker l m (some (k, b, e)) = true ↔ l < k))
    ∧ (b.hops < m.hops → betterMarker l m (some (k, b, e)) = false))
  ∧ ∀ s : State, s.up = true →
    (∀ (k : Nat) (m : Marker) (err : Int),
      let t := flitIntact k s
      (s.fabric.links.getD k {}).isUp = false → exec (.markerFlit k m err) s = .next (leaves s t))
    ∧ (∀ (k : Nat) (m : Marker) (err : Int),
      let t := flitIntact k s
      (s.fabric.links.getD k {}).isUp = true → s.fabric.joined = true →
      let u := takeFrame m (t.setFrame fun f => if betterMarker k m f.marker then { f with marker := some (k, m, err) } else f)
      (m.leader = s.fabric.leader → m.leader ≠ s.self → s.frame.align ≠ .freeRun → exec (.markerFlit k m err) s = .next (leaves s u))
      ∧ (m.leader = s.fabric.leader → m.leader ≠ s.self → s.frame.align = .freeRun →
        exec (.markerFlit k m err) s = .next (leaves s (u.setFrame fun f => { f with align := .locked, freeRunTicks := 0, missed := 0 })))
      ∧ (m.leader = s.fabric.leader → m.leader = s.self → exec (.markerFlit k m err) s = .next (leaves s t))
      ∧ (m.leader ≠ s.fabric.leader → m.leader < s.fabric.leader ∨ s.frame.align = .freeRun →
        let a := t.setFabric fun f => { f with leader := m.leader, members := dedupBy id (f.members ++ [m.leader]) }
        let b := takeFrame m ((adoptTick (max s.tick m.tick) a).setFrame fun f => { f with marker := some (k, m, err), missed := 0, freeRunTicks := 0, align := .locked })
        exec (.markerFlit k m err) s = .next (leaves s (if 40 < err.natAbs then slewTo err b else b)))
      ∧ (m.leader ≠ s.fabric.leader → s.fabric.leader < m.leader → s.frame.align ≠ .freeRun → exec (.markerFlit k m err) s = .next (leaves s t)))
    ∧ (∀ (k : Nat) (m : Marker) (err : Int),
      let t := flitIntact k s
      (s.fabric.links.getD k {}).isUp = true → s.fabric.joined = false →
      (s.fabric.joining ≠ none → exec (.markerFlit k m err) s = .next (leaves s (t.setFrame fun f => if betterMarker k m f.marker then { f with marker := some (k, m, err) } else f)))
      ∧ (s.fabric.joining = none → exec (.markerFlit k m err) s = .next (leaves s t)))
    ∧ (s.fabric.joined = true → s.fabric.leader ≠ s.self → s.frame.marker = none → 1 ≤ s.frame.missed → s.frame.align ≠ .freeRun →
      exec .leaderLost s = .next (leaves s (event 5 "LEADER_LOST" 0xFF s.fabric.leader
        ((s.setFrame fun f => { f with align := .freeRun, freeRunTicks := 0 }).setFabric fun f => { f with members := f.members.filter fun m => m != f.leader, stale := true }))))
    ∧ (s.frame.missed = 0 → exec .leaderLost s = .next (leaves s s))
    ∧ (s.usesRef = false → exec .tickRefLost s = .next (leaves s s) ∧ ∀ ns, exec (.tickRefEdge ns) s = .next (leaves s s))
    ∧ (s.usesRef = true →
      let lost := raiseAlarm 0x003 0 (s.setFrame fun f => { f with refUsed := false, refEdges := 0, refAlarm := true })
      exec .tickRefLost s = .next (leaves s lost)
      ∧ ∀ ns : Int, (2000 < ns.natAbs → exec (.tickRefEdge ns) s = .next (leaves s lost))
        ∧ (ns.natAbs ≤ 2000 → s.frame.refAlarm = false → exec (.tickRefEdge ns) s = .next (leaves s (s.setFrame fun f => { f with refUsed := true })))
        ∧ (ns.natAbs ≤ 2000 → s.frame.refAlarm = true → s.frame.refEdges + 1 < 16 →
          exec (.tickRefEdge ns) s = .next (leaves s (s.setFrame fun f => { f with refEdges := f.refEdges + 1 })))
        ∧ (ns.natAbs ≤ 2000 → s.frame.refAlarm = true → 16 ≤ s.frame.refEdges + 1 →
          exec (.tickRefEdge ns) s = .next (leaves s (clearAlarm 0x003 0 (s.setFrame fun f => { f with refUsed := true, refEdges := 0, refAlarm := false })))))

/-- Management events (R8, R42, R361, R368, R374, R387, R388): the first reading of a unit below AGING_WARN is an event; one below AGING_MARGIN swaps its
unit, or, of a unit with no spare, raises an alarm, and with AGING_POLICY leaving the swap to the operator is recorded and raises one; a window that has run
its length writes one COALESCED record of its repeats, which waits where its class's limit is spent; the lockout ends when its time is up; messages of other
types are counted; a flash erase that ends lets its command reply, and a verification that ends decides the slot. -/
def Obligations.MgmtEvents : Prop :=
  ∀ s : State, s.up = true →
    (∀ (u r : Nat), s.setting 0x0502 ≤ r →
      (s.setting 0x0503 ≤ r ∨ s.mgmt.agingWarned.contains u = true → exec (.agingMonitorRead [(u, r)]) s = .next (leaves s s))
      ∧ (r < s.setting 0x0503 → s.mgmt.agingWarned.contains u = false → exec (.agingMonitorRead [(u, r)]) s = .next (leaves s
          (event 3 "AGING_WARN" 0xFF (unitCode u) (s.setMgmt fun m => { m with agingWarned := m.agingWarned ++ [u] })))))
    ∧ (∀ (u r : Nat), s.mgmt.agingWarned.contains u = true → r < s.setting 0x0502 → spareless u = false → bit (s.setting 0x0501) 0 = true →
        s.mgmt.swaps.any (fun w => w.1 == u) = false →
        exec (.agingMonitorRead [(u, r)]) s = .next (leaves s (s.setMgmt fun m => { m with swaps := m.swaps ++ [(u, 1, r)] })))
    ∧ (∀ (u r : Nat), s.mgmt.agingWarned.contains u = true → r < s.setting 0x0502 → spareless u = true →
        exec (.agingMonitorRead [(u, r)]) s = .next (leaves s (raiseAlarm 0x00B (unitCode u) s)))
    ∧ (∀ (u r : Nat), s.mgmt.agingWarned.contains u = true → r < s.setting 0x0502 → spareless u = false → bit (s.setting 0x0501) 0 = false →
        (s.mgmt.alarmTable.any (fun e => e.code == 0x00A && e.subject == unitCode u && e.active) = false →
          exec (.agingMonitorRead [(u, r)]) s = .next (leaves s (raiseAlarm 0x00A (unitCode u) (recordRepair 11 1 (unitCode u) 0xFFFFFFFF r s))))
        ∧ (s.mgmt.alarmTable.any (fun e => e.code == 0x00A && e.subject == unitCode u && e.active) = true →
          exec (.agingMonitorRead [(u, r)]) s = .next (leaves s s)))
    ∧ (∀ (u r : Nat), s.mgmt.agingWarned.contains u = true → r < s.setting 0x0502 → spareless u = false → bit (s.setting 0x0501) 0 = true →
        s.mgmt.swaps.any (fun w => w.1 == u) = true → exec (.agingMonitorRead [(u, r)]) s = .next (leaves s s))
    ∧ (∀ (rs : List (Nat × Nat)), exec (.agingMonitorRead rs) s = .next (leaves s (rs.foldl agingRead s)))
    ∧ (∀ w : EventWindow, s.mgmt.windows.filter (fun x => x.code == w.code && x.subject == w.subject && decide (x.opened + x.length ≤ s.tick)) = [w] →
        let gone := s.setMgmt fun m => { m with windows := m.windows.filter fun x => !(x.code == w.code && x.subject == w.subject && x.opened == w.opened) }
        (w.repeats = 0 → exec (.coalesceWindowClose w.code w.subject) s = .next (leaves s gone))
        ∧ (w.repeats ≠ 0 → s.mgmt.classNow.getD (w.code / 4096) 0 < s.logLimit (w.code / 4096) →
          exec (.coalesceWindowClose w.code w.subject) s = .next (leaves s
            (putRecord (w.code / 4096) (w.code % 4096) 1 w.port w.repeats w.first w.last w.subject [] gone)))
        ∧ (w.repeats ≠ 0 → w.code / 4096 ≠ 0 → s.logLimit (w.code / 4096) ≤ s.mgmt.classNow.getD (w.code / 4096) 0 →
          exec (.coalesceWindowClose w.code w.subject) s = .next (leaves s (s.setMgmt fun m => { m with
            windows := modifyIf m.windows (fun x => x.code == w.code && x.subject == w.subject && x.opened == w.opened) fun x => { x with closing := true } }))))
    ∧ (∀ t, s.mgmt.lockout = some t → s.frame.elapsed + s.period < t → exec .lockoutEnd s = .next (leaves s s))
    ∧ (s.mgmt.lockout = none → exec .lockoutEnd s = .next (leaves s s))
    ∧ (∀ t, s.mgmt.lockout = some t → t ≤ s.frame.elapsed + s.period →
        exec .lockoutEnd s = .next (leaves s (clearAlarm 0x001 0 (auditWrite 3 0 8 (s.role 8) 0 0 (afield 4)
          (s.setMgmt fun m => { m with lockout := none, failedAnswers := 0 })))))
    ∧ exec .controlBarSaturated s = .next (leaves s (raiseAlarm 0x00F 0 (s.setMgmt fun m => { m with calmTicks := 0 })))
    ∧ (∀ typ, typ ≠ 0 → typ ≠ 5 → typ ≠ 0x7E → exec (.discardedMctpMessage typ) s = .next (leaves s (s.setMgmt fun m => { m with badMsg := satAdd m.badMsg 1 })))
    ∧ (∀ typ, typ = 0 ∨ typ = 5 ∨ typ = 0x7E → exec (.discardedMctpMessage typ) s = .next (leaves s s))
    ∧ (∀ addr, addr < 128 → exec (.dynamicAddressAssignment addr) s = .next (leaves s (s.setMgmt fun m => { m with dynAddr := addr })))
    ∧ (∀ (slot id : Nat) (c : Cmd), s.mgmt.eraseSlot = some (slot, id) → s.cmd id = some c →
        exec .flashEraseEnd s = .next (leaves s (finish c (okDone 0) (s.setMgmt fun m => { m with eraseSlot := none }))))
    ∧ (∀ slot id, s.mgmt.eraseSlot = none → s.mgmt.verifySlot = some (slot, id) → exec .flashEraseEnd s = .next (leaves s (fwVerified slot id s)))
    ∧ (s.mgmt.eraseSlot = none → s.mgmt.verifySlot = none → exec .flashEraseEnd s = .next (leaves s s))

/-- What a telemetry sample leaves (R391, R402): the readings as given, the others as they were, each warning with its hysteresis, and ALERT_N low while any
holds; a stack's report and the silence of its sensor move the pin in the same way. -/
def Obligations.AlertPin : Prop :=
  ∀ s : State, s.up = true →
    let pinRight := fun (t : State) => t.power.alertN = false ↔ (t.mgmt.dieHot.any id || t.mgmt.vinLow || t.mgmt.vinHigh
      || t.stackList.any fun k => k.inService && (k.sensorLost || decide (k.throttleAt < k.temp))) = true
    (∀ r : List Nat, ∃ t, exec (.telemetrySample r) s = .next t
      ∧ t.mgmt.cbLoad = r.getD 0 s.mgmt.cbLoad ∧ t.mgmt.mgmtLoad = r.getD 1 s.mgmt.mgmtLoad ∧ t.mgmt.vinMv = r.getD 7 s.mgmt.vinMv ∧ t.mgmt.vinMw = r.getD 8 s.mgmt.vinMw
      ∧ (∀ i, i < 5 → t.mgmt.dieTemps.getD i 0 = r.getD (2 + i) (s.mgmt.dieTemps.getD i 0))
      ∧ (∀ i, i < 5 → 1000 ≤ t.mgmt.dieTemps.getD i 0 → t.mgmt.dieHot.getD i false = true)
      ∧ (∀ i, i < 5 → t.mgmt.dieTemps.getD i 0 < 950 → t.mgmt.dieHot.getD i true = false)
      ∧ (∀ i, i < 5 → 950 ≤ t.mgmt.dieTemps.getD i 0 → t.mgmt.dieTemps.getD i 0 < 1000 → t.mgmt.dieHot.getD i false = s.mgmt.dieHot.getD i false)
      ∧ (t.mgmt.vinMv < 46000 → t.mgmt.vinLow = true) ∧ (47000 ≤ t.mgmt.vinMv → t.mgmt.vinLow = false)
      ∧ (46000 ≤ t.mgmt.vinMv → t.mgmt.vinMv < 47000 → t.mgmt.vinLow = s.mgmt.vinLow)
      ∧ (58000 < t.mgmt.vinMv → t.mgmt.vinHigh = true) ∧ (t.mgmt.vinMv ≤ 57000 → t.mgmt.vinHigh = false)
      ∧ (57000 < t.mgmt.vinMv → t.mgmt.vinMv ≤ 58000 → t.mgmt.vinHigh = s.mgmt.vinHigh)
      ∧ pinRight t ∧ t.sameWork { s with power := t.power })
    ∧ ∀ (k : Nat) (st : Stack), s.stackList[k]? = some st → st.inService = true →
      (∀ temp, ∃ t, exec (.stackTempReport k temp) s = .next t ∧ pinRight t ∧ ((t.stackList[k]?).map Stack.temp = some temp) ∧ (t.stackList[k]?).map Stack.sensorLost = some false)
      ∧ ∃ t, exec (.stackSensorTimeout k) s = .next t ∧ pinRight t ∧ (t.stackList[k]?).map Stack.sensorLost = some true

/-- The management bus (R367, R368, R380): each request of the responder is answered on the transport it came by, one out of its order with ERROR
UnexpectedRequest, one the module does not serve with UnsupportedRequest, a slot, offset or index it does not hold with InvalidRequest; DOE answers only while
the host link is up. The message layouts follow DMTF DSP0236 and DSP0274, which the manual names only (the model's choice, PRESUMED, log entries 23 and 24).
-/
def Obligations.BusAnswers : Prop :=
  ∀ (s : State) (via : Nat) (msg : Bytes), s.mgmtUp = true →
    let send := fun (typ : Nat) (bs : Bytes) (t : State) => t.setMgmt fun m => { m with responses := m.responses ++ [⟨via, typ, bs⟩] }
    let x := s.spdmAt via
    let early := send 5 ([0x12, 0x7F, 4, 0].flatMap (leBytes 1))
    let block := fun (i : Nat) => leBytes 1 i ++ leBytes 1 1 ++ leBytes 2 51 ++ slice (Config.deviceBytes "SPDM value type" i) 0 1 ++ leBytes 2 48
      ++ slice ((measurements s).getD (i - 1) []) 0 48
    (s.spdmUp via = false →
      exec (.getVersion via msg) s = .next (leaves s s) ∧ exec (.getCapabilities via msg) s = .next (leaves s s)
      ∧ exec (.negotiateAlgorithms via msg) s = .next (leaves s s) ∧ exec (.getDigests via msg) s = .next (leaves s s)
      ∧ exec (.getCertificate via msg) s = .next (leaves s s) ∧ exec (.challenge via msg) s = .next (leaves s s)
      ∧ exec (.getMeasurements via msg) s = .next (leaves s s))
    ∧ (s.spdmUp via = true →
      (fld msg 1 1 = 0x84 → let r := [0x10, 0x04, 0, 0, 0, 1, 0, 0x12].flatMap (leBytes 1)
        exec (.getVersion via msg) s = .next (leaves s (send 5 r (setSpdm { via := via, stage := 1, vca := msg ++ r } s))))
      ∧ (fld msg 1 1 ≠ 0x84 → exec (.getVersion via msg) s = .next (leaves s (send 5 ([0x12, 0x7F, 7, fld msg 1 1].flatMap (leBytes 1)) s)))
      ∧ (fld msg 1 1 = 0xE1 → 1 ≤ x.stage →
        let r := leBytes 1 0x12 ++ leBytes 1 0x61 ++ zeros 3 ++ slice (Config.deviceBytes "SPDM CTExponent" 1) 0 1 ++ zeros 2 ++ leBytes 4 0x16
          ++ slice (Config.deviceBytes "SPDM sizes" 8) 0 8
        exec (.getCapabilities via msg) s = .next (leaves s (send 5 r (setSpdm { x with stage := 2, vca := x.vca ++ msg ++ r } s))))
      ∧ (fld msg 1 1 = 0xE1 → x.stage < 1 → exec (.getCapabilities via msg) s = .next (leaves s (send 5 ([0x12, 0x7F, 4, 0].flatMap (leBytes 1)) s)))
      ∧ (fld msg 1 1 = 0xE3 → 2 ≤ x.stage →
        let r := leBytes 1 0x12 ++ leBytes 1 0x63 ++ zeros 2 ++ leBytes 2 36 ++ leBytes 1 1 ++ zeros 1 ++ leBytes 4 4 ++ leBytes 4 8 ++ leBytes 4 2 ++ zeros 16
        exec (.negotiateAlgorithms via msg) s = .next (leaves s (send 5 r (setSpdm { x with stage := 3, vca := x.vca ++ msg ++ r } s))))
      ∧ (fld msg 1 1 = 0x81 → 3 ≤ x.stage → let r := leBytes 1 0x12 ++ leBytes 1 1 ++ zeros 1 ++ leBytes 1 1 ++ sha384 s.mgmt.chain
        exec (.getDigests via msg) s = .next (leaves s (send 5 r (setSpdm { x with certs := x.certs ++ msg ++ r } s))))
      ∧ (fld msg 1 1 = 0x82 → 3 ≤ x.stage → fld msg 2 1 % 16 = 0 → fld msg 4 2 < s.mgmt.chain.length →
        let n := min (fld msg 6 2) (s.mgmt.chain.length - fld msg 4 2)
        let r := leBytes 1 0x12 ++ leBytes 1 2 ++ zeros 2 ++ leBytes 2 n ++ leBytes 2 (s.mgmt.chain.length - fld msg 4 2 - n) ++ slice s.mgmt.chain (fld msg 4 2) n
        exec (.getCertificate via msg) s = .next (leaves s (send 5 r (setSpdm { x with certs := x.certs ++ msg ++ r } s))))
      ∧ (fld msg 1 1 = 0x83 → 3 ≤ x.stage → fld msg 2 1 = 0 → fld msg 3 1 = 0 →
        let body := leBytes 1 0x12 ++ leBytes 1 3 ++ leBytes 1 0 ++ leBytes 1 1 ++ sha384 s.mgmt.chain ++ leBytes 32 (Config.nonce s.free).toNat ++ zeros 2
        exec (.challenge via msg) s = .next (leaves s (send 5 (body ++ spdmSign (x.vca ++ x.certs ++ msg ++ body) s)
          (setSpdm { x with certs := [] } { s with free := s.free + 1 }))))
      ∧ (fld msg 1 1 = 0x83 → 3 ≤ x.stage → fld msg 2 1 = 0 → fld msg 3 1 = 0xFF →
        let body := leBytes 1 0x12 ++ leBytes 1 3 ++ leBytes 1 0 ++ leBytes 1 1 ++ sha384 s.mgmt.chain ++ leBytes 32 (Config.nonce s.free).toNat
          ++ sha384 ((List.range 6).flatMap fun i => block (i + 1)) ++ zeros 2
        exec (.challenge via msg) s = .next (leaves s (send 5 (body ++ spdmSign (x.vca ++ x.certs ++ msg ++ body) s)
          (setSpdm { x with certs := [] } { s with free := s.free + 1 }))))
      ∧ (fld msg 1 1 = 0x83 → 3 ≤ x.stage → fld msg 2 1 = 0 → fld msg 3 1 ≠ 0 → fld msg 3 1 ≠ 0xFF →
        exec (.challenge via msg) s = .next (leaves s (send 5 ([0x12, 0x7F, 7, fld msg 1 1].flatMap (leBytes 1)) s)))
      ∧ (fld msg 1 1 = 0x83 → 3 ≤ x.stage → fld msg 2 1 ≠ 0 → exec (.challenge via msg) s = .next (leaves s (send 5 ([0x12, 0x7F, 1, 0].flatMap (leBytes 1)) s)))
      ∧ (fld msg 1 1 = 0x82 → 3 ≤ x.stage → fld msg 2 1 % 16 ≠ 0 ∨ s.mgmt.chain.length ≤ fld msg 4 2 →
        exec (.getCertificate via msg) s = .next (leaves s (send 5 ([0x12, 0x7F, 1, 0].flatMap (leBytes 1)) s)))
      ∧ (fld msg 1 1 = 0xE3 → x.stage < 2 → exec (.negotiateAlgorithms via msg) s = .next (leaves s (early s)))
      ∧ (x.stage < 3 → (fld msg 1 1 = 0x81 → exec (.getDigests via msg) s = .next (leaves s (early s)))
        ∧ (fld msg 1 1 = 0x82 → exec (.getCertificate via msg) s = .next (leaves s (early s)))
        ∧ (fld msg 1 1 = 0x83 → exec (.challenge via msg) s = .next (leaves s (early s)))
        ∧ (fld msg 1 1 = 0xE0 → exec (.getMeasurements via msg) s = .next (leaves s (early s))))
      ∧ (fld msg 1 1 = 0xE0 → 3 ≤ x.stage → 6 < fld msg 3 1 → fld msg 3 1 ≠ 0xFF →
        exec (.getMeasurements via msg) s = .next (leaves s (send 5 ([0x12, 0x7F, 1, 0].flatMap (leBytes 1)) s)))
      ∧ (∀ op, fld msg 1 1 = 0xE0 → 3 ≤ x.stage → fld msg 3 1 = op → op ≠ 0 → op ≤ 6 ∨ op = 0xFF →
        let record := if op = 0xFF then (List.range 6).flatMap fun i => block (i + 1) else block op
        let body := leBytes 1 0x12 ++ leBytes 1 0x60 ++ leBytes 1 0 ++ zeros 1 ++ leBytes 1 (if op = 0xFF then 6 else 1) ++ leBytes 3 record.length ++ record
          ++ leBytes 32 (Config.nonce s.free).toNat ++ zeros 2
        (bit (fld msg 2 1) 0 = false →
          exec (.getMeasurements via msg) s = .next (leaves s (send 5 body (setSpdm { x with meas := x.meas ++ msg ++ body } { s with free := s.free + 1 }))))
        ∧ (bit (fld msg 2 1) 0 = true → exec (.getMeasurements via msg) s = .next (leaves s
            (send 5 (body ++ spdmSign (x.vca ++ x.meas ++ msg ++ body) { s with free := s.free + 1 }) (setSpdm { x with meas := [] } { s with free := s.free + 1 })))))
      ∧ (fld msg 1 1 = 0xE0 → 3 ≤ x.stage → fld msg 3 1 = 0 → bit (fld msg 2 1) 0 = false →
        let r := leBytes 1 0x12 ++ leBytes 1 0x60 ++ leBytes 1 6 ++ zeros 1 ++ leBytes 1 0 ++ leBytes 3 0 ++ leBytes 32 (Config.nonce s.free).toNat ++ zeros 2
        exec (.getMeasurements via msg) s = .next (leaves s (send 5 r (setSpdm { x with meas := x.meas ++ msg ++ r } { s with free := s.free + 1 }))))
      ∧ (fld msg 1 1 = 0xE0 → 3 ≤ x.stage → fld msg 3 1 = 0 → bit (fld msg 2 1) 0 = true →
        let r := leBytes 1 0x12 ++ leBytes 1 0x60 ++ leBytes 1 6 ++ zeros 1 ++ leBytes 1 0 ++ leBytes 3 0 ++ leBytes 32 (Config.nonce s.free).toNat ++ zeros 2
        exec (.getMeasurements via msg) s = .next (leaves s (send 5 (r ++ spdmSign (x.vca ++ x.meas ++ msg ++ r) { s with free := s.free + 1 })
          (setSpdm { x with meas := [] } { s with free := s.free + 1 })))))
    ∧ (fld msg 1 1 / 128 = 1 →
      let head := fun (cc : Nat) => leBytes 1 0 ++ leBytes 1 (fld msg 1 1 % 32) ++ leBytes 1 (fld msg 2 1) ++ leBytes 1 cc
      (fld msg 2 1 = 1 → fld msg 3 1 % 4 ≤ 1 → 8 ≤ fld msg 4 1 → fld msg 4 1 < 255 →
        exec (.mctpControl via msg) s = .next (leaves s (send 0 (head 0 ++ leBytes 1 0 ++ leBytes 1 (fld msg 4 1) ++ leBytes 1 0)
          (s.setMgmt fun m => { m with eid := fld msg 4 1 }))))
      ∧ (fld msg 2 1 = 1 → (1 < fld msg 3 1 % 4 ∨ fld msg 4 1 < 8 ∨ 255 ≤ fld msg 4 1) → exec (.mctpControl via msg) s = .next (leaves s (send 0 (head 2) s)))
      ∧ (fld msg 2 1 = 4 → exec (.mctpControl via msg) s = .next (leaves s (send 0 (head 0 ++ leBytes 1 1 ++ leBytes 4 0x00F3F1F1) s)))
      ∧ (fld msg 2 1 = 5 → exec (.mctpControl via msg) s = .next (leaves s (send 0 (head 0 ++ leBytes 1 3 ++ leBytes 1 0 ++ leBytes 1 5 ++ leBytes 1 0x7E) s)))
      ∧ (fld msg 2 1 = 0 ∨ fld msg 2 1 = 3 ∨ 6 ≤ fld msg 2 1 → exec (.mctpControl via msg) s = .next (leaves s (send 0 (head 5) s)))
      ∧ (fld msg 2 1 = 2 → exec (.mctpControl via msg) s = .next (leaves s (send 0 (head 0 ++ leBytes 1 s.mgmt.eid ++ leBytes 1 0 ++ leBytes 1 0) s))))
    ∧ (fld msg 1 1 / 128 = 0 → exec (.mctpControl via msg) s = .next (leaves s s))

/-- What starts the module (R354, R357, R375, R396, R397): MOD_EN or MOD_RST_N rising with every other condition met, the input's return, a pending
activation; a step that exceeds its watchdog ends FAIL, and where its failure does not end the start, the steps after it run. -/
def Obligations.StartsWhen : Prop :=
  ∀ (s : State) (f : StartFound),
    (s.power.modEn = true → exec (.modEnRise f) s = .next (leaves s s))
    ∧ (s.power.modEn = false → s.power.vinOk = true → s.power.modRstN = true → s.power.on = false →
        exec (.modEnRise f) s = .next (leaves s (startUp 1 f (s.setPower fun w => { w with modEn := true }))))
    ∧ (s.power.modEn = false → (s.power.vinOk = false ∨ s.power.modRstN = false) → exec (.modEnRise f) s = .next (leaves s (s.setPower fun w => { w with modEn := true })))
    ∧ (s.power.modRstN = false → s.power.vinOk = true → s.power.modEn = true → s.power.on = false →
        exec (.modRstNRise f) s = .next (leaves s (startUp 1 f (s.setPower fun w => { w with modRstN := true }))))
    ∧ (s.power.vinOk = false → s.power.modEn = true → s.power.modRstN = true → s.power.on = false →
        exec (.vinReturn f) s = .next (leaves s (startUp 1 f (s.setPower fun w => { w with vinOk := true, pwrgd := false }))))
    ∧ (s.power.vinOk = false → s.power.modEn = false → exec (.vinReturn f) s = .next (leaves s (s.setPower fun w => { w with vinOk := true, pwrgd := false })))
    ∧ (s.power.modRstN = true → exec (.modRstNRise f) s = .next (leaves s s))
    ∧ (s.power.modRstN = false → (s.power.vinOk = false ∨ s.power.modEn = false ∨ s.power.on = true) →
        exec (.modRstNRise f) s = .next (leaves s (s.setPower fun w => { w with modRstN := true })))
    ∧ (s.power.vinOk = true → exec (.vinReturn f) s = .next (leaves s s))
    ∧ (s.power.vinOk = false → s.power.modRstN = false → exec (.vinReturn f) s = .next (leaves s (s.setPower fun w => { w with vinOk := true, pwrgd := false })))
    ∧ (s.up = true → s.mgmt.restartPending ≠ none → exec (.fwActivateRestart f) s = .next (leaves s (startUp 4 f s)))
    ∧ (s.up = true → s.mgmt.restartPending = none → exec (.fwActivateRestart f) s = .next (leaves s s))
    ∧ (∀ k, s.power.on = true → s.power.inStart = true → s.power.startStep = k → k < 11 →
        let r := runStep k { pass := false, attempts := 1, unitsOut := 0, micros := 0, detail := 0 } f s
        (r.2 = true → exec (.stepWatchdog k f) s = .next (leaves s (runSteps 2 f ((List.range 11).drop (k + 1)) r.1)))
        ∧ (r.2 = false → r.1.power.on = true → r.1.power.inStart = true → exec (.stepWatchdog k f) s = .next (leaves s (startUp 2 f r.1))))
    ∧ (∀ k, s.power.on = false ∨ s.power.inStart = false ∨ s.power.startStep ≠ k → exec (.stepWatchdog k f) s = .next (leaves s s))

/-- Power loss (R370, R395–R397, R401): the rails go off with nothing drained and no reply; no command, channel, object, index, table or kernel is left, while
the ledger, the audit journal and the fuses' contents stand, as does host memory. A thermal trip latches THERMTRIP_N low; removal of the input loses the
latch. -/
def Obligations.RailsOffLeaves : Prop :=
  ∀ s : State,
    let gone := fun (t : State) => t.power.on = false ∧ t.power.linkUp = false ∧ t.cmds = [] ∧ t.jobs = [] ∧ t.channels = [] ∧ t.objs = [] ∧ t.indexes = [] ∧ t.tables = []
      ∧ t.kernels = [] ∧ t.regions = [] ∧ t.mgmt.ledger = s.mgmt.ledger ∧ t.mgmt.audit = s.mgmt.audit ∧ t.mgmt.repairs = s.mgmt.repairs ∧ t.mgmt.rollback = s.mgmt.rollback
      ∧ t.hostMem = postAll s.hostMem s.posted ∧ t.pending = s.pending
    (s.power.vinOk = true →
      (∃ t, exec .modEnFall s = .next t ∧ gone t ∧ t.power.modEn = false ∧ t.power.thermtripN = !s.power.tripLatch ∧ t.power.tripLatch = s.power.tripLatch)
      ∧ (∃ t, exec .modRstNLow s = .next t ∧ gone t ∧ t.power.modRstN = false ∧ t.power.thermtripN = !s.power.tripLatch ∧ t.power.tripLatch = s.power.tripLatch)
      ∧ (∃ t, exec .vinRemoval s = .next t ∧ gone t ∧ t.power.vinOk = false ∧ t.power.tripLatch = false ∧ t.power.thermtripN = true)
      ∧ (∃ t, exec .undervoltage s = .next t ∧ gone t ∧ t.power.vinOk = false ∧ t.power.tripLatch = false)
      ∧ (∃ t, exec .overvoltage s = .next t ∧ gone t ∧ t.power.vinOk = false ∧ t.power.tripLatch = false))
    ∧ (s.power.on = true → ∀ unit, ∃ t, exec (.thermalTrip unit) s = .next t ∧ gone t ∧ t.power.tripLatch = true ∧ t.power.thermtripN = false)
    ∧ (s.power.on = false → ∀ unit, exec (.thermalTrip unit) s = .next (leaves s s))

/-- The steps that end a start (R354, R355, R359, R373): a hub rail that fails leaves the module off with FAULT_N low; S1 failed ends in SAFE; in SAFE nothing
but the management core runs; S10 starts the command service with tick 1 at the least and raises the rollback count to the lowest SVN of a usable slot; a step
that R355 lets the start pass goes on. -/
def Obligations.StartSteps : Prop :=
  ∀ (s : State) (d : StepFound) (f : StartFound),
    (d.pass = false →
      (runStep 0 d f s).2 = false ∧ (runStep 0 d f s).1.power.on = false ∧ (runStep 0 d f s).1.power.faultN = false ∧ (runStep 0 d f s).1.mgmt.ledger = s.mgmt.ledger
      ∧ (runStep 1 d f s).2 = false ∧ (runStep 1 d f s).1.mgmt.moduleState = .safe ∧ (runStep 1 d f s).1.power.faultN = false
      ∧ (runStep 2 d f s).2 = false ∧ (runStep 10 d f s).2 = false
      ∧ (runStep 3 d f s).2 = true ∧ (runStep 7 d f s).2 = true ∧ (runStep 8 d f s).2 = true ∧ (runStep 9 d f s).2 = true)
    ∧ (d.pass = true →
      (s.mgmt.decommissioned = true → (runStep 1 d f s).2 = false ∧ (runStep 1 d f s).1.mgmt.moduleState = .safe)
      ∧ (s.mgmt.decommissioned = false → (runStep 1 d f s).2 = true)
      ∧ (s.mgmt.slotPasses f.slotsPass s.firstSlot = false → s.mgmt.slotPasses f.slotsPass (1 - s.firstSlot) = false → (runStep 2 d f s).2 = false)
      ∧ (s.mgmt.slotPasses f.slotsPass s.firstSlot = true → (runStep 2 d f s).2 = true ∧ (runStep 2 d f s).1.mgmt.running = s.firstSlot)
      ∧ (s.mgmt.slotPasses f.slotsPass s.firstSlot = false → s.mgmt.slotPasses f.slotsPass (1 - s.firstSlot) = true →
          (runStep 2 d f s).2 = true ∧ (runStep 2 d f s).1.mgmt.running = 1 - s.firstSlot)
      ∧ ((runStep 10 d f s).2 = true ∧ (runStep 10 d f s).1.power.inStart = false ∧ 1 ≤ (runStep 10 d f s).1.tick))
    ∧ (enterSafe s).mgmt.moduleState = .safe ∧ (enterSafe s).units.tiles = [] ∧ (enterSafe s).units.clusters = [] ∧ (enterSafe s).power.linkUp = false
    ∧ ∀ k ∈ (enterSafe s).stackList, k.inService = false

/-- The rollback count (R373): S2 and FINISH pass no image whose SVN is below it; S10 raises it to the lowest SVN of a slot that is VALID or ACTIVE, and never
lowers it; a slot that was at or above the count before S10 is so after it, so no slot that S2 could fall back to is locked out. -/
def Obligations.RollbackCount : Prop :=
  ∀ s : State,
    (∀ found n, (s.mgmt.slot n).svn < s.mgmt.rollback → s.mgmt.slotPasses found n = false)
    ∧ (∀ f : FwSlot, f.field 6 1 < s.mgmt.rollback → f.genuine s.mgmt = false)
    ∧ ∀ (d : StepFound) (f : StartFound), d.pass = true →
        let t := (runStep 10 d f s).1
        t.mgmt.rollback = max s.mgmt.rollback s.mgmt.lowestSvn ∧ s.mgmt.rollback ≤ t.mgmt.rollback
        ∧ ∀ x ∈ [s.mgmt.slotA, s.mgmt.slotB], (x.state = 2 ∨ x.state = 3) → s.mgmt.lowestSvn ≤ x.svn ∧ (s.mgmt.rollback ≤ x.svn → t.mgmt.rollback ≤ x.svn)
end

