-- ==== Sys2Proof/Laws/Bytes.lean ====
section
/-! SUPPORT. Laws of little-endian bytes and of a write to part of a register. -/

namespace Sys2Proof.Laws

open Sys2Proof Sys2Proof.Machine

theorem leBytes_length (n v : Nat) : (leBytes n v).length = n := by
  induction n generalizing v with
  | zero => rfl
  | succ n ih => simp [leBytes, ih]

theorem leVal_append (n v : Nat) (bs : Bytes) : leVal (leBytes n v ++ bs) = v % 256 ^ n + 256 ^ n * leVal bs := by
  induction n generalizing v with
  | zero => simp [leBytes, Nat.mod_one]
  | succ n ih =>
    simp only [leBytes, List.cons_append, leVal, ih, BitVec.toNat_ofNat]
    show v % 256 + _ = _
    rw [Nat.pow_succ, Nat.mul_comm (256 ^ n) 256, Nat.mod_mul, Nat.mul_add, Nat.mul_assoc]
    omega

theorem leVal_leBytes (n v : Nat) : leVal (leBytes n v) = v % 256 ^ n := by
  have := leVal_append n v []
  simpa [leVal] using this

theorem slice_whole (bs : Bytes) : slice bs 0 bs.length = bs := by simp [slice]

/-- A field reads back what was written. -/
theorem fld_leBytes (n v : Nat) : fld (leBytes n v) 0 n = v % 256 ^ n := by
  unfold fld
  have := slice_whole (leBytes n v)
  rw [leBytes_length] at this
  rw [this, leVal_leBytes]

/-- A write of a register's whole width takes the value. -/
theorem putField_whole (old w v : Nat) : putField old w 0 w v = v % 256 ^ w := by
  unfold putField
  have a : slice (leBytes w old) 0 0 = [] := by simp [slice]
  have b : (leBytes w old).drop (0 + w) = [] := by rw [Nat.zero_add]; exact List.drop_eq_nil_of_le (Nat.le_of_eq (leBytes_length w old))
  rw [a, b, List.nil_append, List.append_nil, fld_leBytes]

/-- A write of the low `n` bytes fixes the register modulo `256 ^ n`. -/
theorem putField_low (old w n v : Nat) (h : n ≤ w) : putField old w 0 n v % 256 ^ n = v % 256 ^ n := by
  unfold putField fld
  have a : slice (leBytes w old) 0 0 = [] := by simp [slice]
  have l : (leBytes n v ++ (leBytes w old).drop (0 + n)).length = w := by simp [leBytes_length]; omega
  rw [a, List.nil_append]
  have := slice_whole (leBytes n v ++ (leBytes w old).drop (0 + n))
  rw [l] at this
  rw [this, leVal_append, Nat.add_mul_mod_self_left, Nat.mod_mod]

/-- Changing an entry into what it already is changes nothing. -/
theorem modifyAt_same {α : Type} (l : List α) (d : α) (k : Nat) (f : α → α) (h : k < l.length → f (l.getD k d) = l.getD k d) : modifyAt l k f = l := by
  induction l generalizing k with
  | nil => rfl
  | cons a as ih =>
    cases k with
    | zero => simpa [modifyAt] using h (by simp)
    | succ k =>
      simp only [modifyAt, List.cons.injEq, true_and]
      exact ih k fun x => by simpa using h (by simpa using x)

end Sys2Proof.Laws
end

