-- ==== Sys2Proof/Laws/Memory.lean ====
section
/-! SUPPORT. Sparse memories: every operation keeps the canonical form, a read gives what was written, and a write leaves every other byte alone. -/

namespace Sys2Proof.Machine

@[simp] theorem Memory.get_nil (i : Nat) : Memory.get [] i = blank := rfl
theorem Memory.get_cons (a : Nat) (b : Byte) (m : Memory) (i : Nat) : Memory.get ((a, b) :: m) i = if a = i then b else Memory.get m i := rfl

/-- A canonical memory from `lo` on reads blank below `lo`. -/
theorem Memory.get_below (m : Memory) : ∀ (lo i : Nat), Memory.wfFrom lo m = true → i < lo → m.get i = blank := by
  induction m with
  | nil => intro lo i _ _; rfl
  | cons c m ih =>
    obtain ⟨a, b⟩ := c
    intro lo i h hi
    simp only [Memory.wfFrom, Bool.and_eq_true, decide_eq_true_eq] at h
    rw [Memory.get_cons, if_neg (by omega)]
    exact ih (a + 1) i h.2 (by omega)

/-- A lower bound may be lowered. -/
theorem Memory.wfFrom_mono (m : Memory) (lo lo' : Nat) (h : Memory.wfFrom lo m = true) (le : lo' ≤ lo) : Memory.wfFrom lo' m = true := by
  cases m with
  | nil => rfl
  | cons c m =>
    obtain ⟨a, b⟩ := c
    simp only [Memory.wfFrom, Bool.and_eq_true, decide_eq_true_eq] at h ⊢
    exact ⟨⟨by omega, h.1.2⟩, h.2⟩

theorem Memory.wfFrom_cell (lo i : Nat) (v : Byte) (m : Memory) (le : lo ≤ i) (h : Memory.wfFrom (i + 1) m = true) :
    Memory.wfFrom lo (Memory.cell i v ++ m) = true := by
  unfold Memory.cell
  split
  · exact Memory.wfFrom_mono m (i + 1) lo h (by omega)
  · simp only [List.cons_append, List.nil_append, Memory.wfFrom, Bool.and_eq_true, decide_eq_true_eq]
    exact ⟨⟨le, by assumption⟩, h⟩

theorem Memory.wfFrom_set (m : Memory) : ∀ (lo i : Nat) (v : Byte), Memory.wfFrom lo m = true → lo ≤ i → Memory.wfFrom lo (m.set i v) = true := by
  induction m with
  | nil => intro lo i v _ le; simpa [Memory.set] using Memory.wfFrom_cell lo i v [] le rfl
  | cons c m ih =>
    obtain ⟨a, b⟩ := c
    intro lo i v h le
    have h' := h
    simp only [Memory.wfFrom, Bool.and_eq_true, decide_eq_true_eq] at h
    unfold Memory.set
    split
    · refine Memory.wfFrom_cell lo i v _ le ?_
      simp only [Memory.wfFrom, Bool.and_eq_true, decide_eq_true_eq]
      exact ⟨⟨by omega, h.1.2⟩, h.2⟩
    · split
      · exact Memory.wfFrom_cell lo i v m le (by rw [‹i = a›]; exact h.2)
      · simp only [Memory.wfFrom, Bool.and_eq_true, decide_eq_true_eq]
        exact ⟨h.1, ih (a + 1) i v h.2 (by omega)⟩

/-- Writing a byte keeps the canonical form. -/
theorem Memory.wf_set (m : Memory) (i : Nat) (v : Byte) (h : m.wf = true) : (m.set i v).wf = true := Memory.wfFrom_set m 0 i v h (Nat.zero_le i)

/-- Writing a byte string keeps the canonical form. -/
theorem Memory.wf_write (m : Memory) (i : Nat) (bs : Bytes) (h : m.wf = true) : (m.write i bs).wf = true := by
  induction bs generalizing m i with
  | nil => exact h
  | cons b bs ih => exact ih _ _ (Memory.wf_set m i b h)

/-- Carrying out the host-bound writes of a step keeps the canonical form. -/
theorem postAll_wf (ws : List HostPost) (m : Memory) (h : m.wf = true) : (postAll m ws).wf = true := by
  induction ws generalizing m with
  | nil => exact h
  | cons w ws ih => exact ih _ (Memory.wf_write m w.addr w.data h)

theorem Memory.get_cell (i j : Nat) (v : Byte) (m : Memory) (h : Memory.wfFrom (i + 1) m = true) :
    Memory.get (Memory.cell i v ++ m) j = if i = j then v else m.get j := by
  unfold Memory.cell
  split
  · by_cases e : i = j
    · subst e; simp [Memory.get_below m (i + 1) i h (by omega), *]
    · simp [e]
  · simp [Memory.get_cons]

theorem Memory.get_setFrom (m : Memory) : ∀ (lo i j : Nat) (v : Byte), Memory.wfFrom lo m = true → (m.set i v).get j = if i = j then v else m.get j := by
  induction m with
  | nil => intro lo i j v _; simpa [Memory.set] using Memory.get_cell i j v [] rfl
  | cons c m ih =>
    obtain ⟨a, b⟩ := c
    intro lo i j v h
    have h' := h
    simp only [Memory.wfFrom, Bool.and_eq_true, decide_eq_true_eq] at h
    unfold Memory.set
    split
    · refine Memory.get_cell i j v _ ?_
      simp only [Memory.wfFrom, Bool.and_eq_true, decide_eq_true_eq]
      exact ⟨⟨by omega, h.1.2⟩, h.2⟩
    · split
      · rw [Memory.get_cell i j v m (by rw [‹i = a›]; exact h.2), Memory.get_cons]
        by_cases e : i = j
        · simp [e]
        · rw [if_neg e, if_neg e, if_neg (by omega)]
      · rw [Memory.get_cons, Memory.get_cons, ih (a + 1) i j v h.2]
        by_cases e : a = j
        · rw [if_pos e, if_pos e, if_neg (by omega)]
        · rw [if_neg e, if_neg e]

/-- A byte written is read back, and every other byte reads as before. -/
theorem Memory.get_set (m : Memory) (i j : Nat) (v : Byte) (h : m.wf = true) : (m.set i v).get j = if i = j then v else m.get j :=
  Memory.get_setFrom m 0 i j v h

/-- Bytes outside a written range read as before. -/
theorem Memory.get_write_outside (m : Memory) (i j : Nat) (bs : Bytes) (h : m.wf = true) (o : j < i ∨ i + bs.length ≤ j) :
    (m.write i bs).get j = m.get j := by
  induction bs generalizing m i with
  | nil => rfl
  | cons b bs ih =>
    simp only [List.length_cons] at o
    show ((m.set i b).write (i + 1) bs).get j = m.get j
    rw [ih _ _ (Memory.wf_set m i b h) (by omega), Memory.get_set m i j b h, if_neg (by omega)]

/-- Byte `k` of a written string is read back. -/
theorem Memory.get_write (m : Memory) (i k : Nat) (bs : Bytes) (h : m.wf = true) (l : k < bs.length) : (m.write i bs).get (i + k) = bs[k] := by
  induction bs generalizing m i k with
  | nil => simp at l
  | cons b bs ih =>
    show ((m.set i b).write (i + 1) bs).get (i + k) = _
    cases k with
    | zero =>
      rw [Memory.get_write_outside _ _ _ _ (Memory.wf_set m i b h) (by omega), Memory.get_set m i _ b h]
      simp
    | succ k =>
      have e : i + (k + 1) = (i + 1) + k := by omega
      rw [e, ih _ _ _ (Memory.wf_set m i b h) (by simpa using l)]
      simp

theorem Memory.read_length (m : Memory) (i n : Nat) : (m.read i n).length = n := by
  induction n generalizing i with
  | zero => rfl
  | succ n ih => simp [Memory.read, ih]

theorem Memory.read_get (m : Memory) (i n k : Nat) (l : k < (m.read i n).length) : (m.read i n)[k] = m.get (i + k) := by
  induction n generalizing i k with
  | zero => simp [Memory.read] at l
  | succ n ih =>
    cases k with
    | zero => simp [Memory.read]
    | succ k =>
      simp only [Memory.read, List.getElem_cons_succ]
      rw [ih]
      congr 1
      omega

/-- What was written is read. -/
theorem Memory.read_write (m : Memory) (i : Nat) (bs : Bytes) (h : m.wf = true) : (m.write i bs).read i bs.length = bs := by
  refine List.ext_getElem (Memory.read_length _ _ _) ?_
  intro k h1 h2
  rw [Memory.read_get, Memory.get_write m i k bs h h2]

end Sys2Proof.Machine
end

