-- ==== Sys2Proof/Laws/State.lean ====
section
/-! SUPPORT. What each named update of the state does to each field, true by rfl, so that no proof unfolds a record update. -/

namespace Sys2Proof.Machine

/-! setFrame -/

@[simp] theorem State.setFrame_pending (f : Frame → Frame) (s : State) : (s.setFrame f).pending = s.pending := rfl
@[simp] theorem State.setFrame_free (f : Frame → Frame) (s : State) : (s.setFrame f).free = s.free := rfl
@[simp] theorem State.setFrame_power (f : Frame → Frame) (s : State) : (s.setFrame f).power = s.power := rfl
@[simp] theorem State.setFrame_frame (f : Frame → Frame) (s : State) : (s.setFrame f).frame = f s.frame := rfl
@[simp] theorem State.setFrame_ports (f : Frame → Frame) (s : State) : (s.setFrame f).ports = s.ports := rfl
@[simp] theorem State.setFrame_regions (f : Frame → Frame) (s : State) : (s.setFrame f).regions = s.regions := rfl
@[simp] theorem State.setFrame_windows (f : Frame → Frame) (s : State) : (s.setFrame f).windows = s.windows := rfl
@[simp] theorem State.setFrame_channels (f : Frame → Frame) (s : State) : (s.setFrame f).channels = s.channels := rfl
@[simp] theorem State.setFrame_settings (f : Frame → Frame) (s : State) : (s.setFrame f).settings = s.settings := rfl
@[simp] theorem State.setFrame_cmds (f : Frame → Frame) (s : State) : (s.setFrame f).cmds = s.cmds := rfl
@[simp] theorem State.setFrame_nextId (f : Frame → Frame) (s : State) : (s.setFrame f).nextId = s.nextId := rfl
@[simp] theorem State.setFrame_jobs (f : Frame → Frame) (s : State) : (s.setFrame f).jobs = s.jobs := rfl
@[simp] theorem State.setFrame_nextJob (f : Frame → Frame) (s : State) : (s.setFrame f).nextJob = s.nextJob := rfl
@[simp] theorem State.setFrame_objs (f : Frame → Frame) (s : State) : (s.setFrame f).objs = s.objs := rfl
@[simp] theorem State.setFrame_mem (f : Frame → Frame) (s : State) : (s.setFrame f).mem = s.mem := rfl
@[simp] theorem State.setFrame_stacks (f : Frame → Frame) (s : State) : (s.setFrame f).stackList = s.stackList := rfl
@[simp] theorem State.setFrame_indexes (f : Frame → Frame) (s : State) : (s.setFrame f).indexes = s.indexes := rfl
@[simp] theorem State.setFrame_walks (f : Frame → Frame) (s : State) : (s.setFrame f).walks = s.walks := rfl
@[simp] theorem State.setFrame_nextWalk (f : Frame → Frame) (s : State) : (s.setFrame f).nextWalk = s.nextWalk := rfl
@[simp] theorem State.setFrame_queries (f : Frame → Frame) (s : State) : (s.setFrame f).queries = s.queries := rfl
@[simp] theorem State.setFrame_nextQuery (f : Frame → Frame) (s : State) : (s.setFrame f).nextQuery = s.nextQuery := rfl
@[simp] theorem State.setFrame_tables (f : Frame → Frame) (s : State) : (s.setFrame f).tables = s.tables := rfl
@[simp] theorem State.setFrame_gathers (f : Frame → Frame) (s : State) : (s.setFrame f).gathers = s.gathers := rfl
@[simp] theorem State.setFrame_updates (f : Frame → Frame) (s : State) : (s.setFrame f).updates = s.updates := rfl
@[simp] theorem State.setFrame_kernels (f : Frame → Frame) (s : State) : (s.setFrame f).kernels = s.kernels := rfl
@[simp] theorem State.setFrame_clusters (f : Frame → Frame) (s : State) : (s.setFrame f).clusters = s.clusters := rfl
@[simp] theorem State.setFrame_units (f : Frame → Frame) (s : State) : (s.setFrame f).units = s.units := rfl
@[simp] theorem State.setFrame_fabric (f : Frame → Frame) (s : State) : (s.setFrame f).fabric = s.fabric := rfl
@[simp] theorem State.setFrame_mgmt (f : Frame → Frame) (s : State) : (s.setFrame f).mgmt = s.mgmt := rfl
@[simp] theorem State.setFrame_hostMem (f : Frame → Frame) (s : State) : (s.setFrame f).hostMem = s.hostMem := rfl
@[simp] theorem State.setFrame_posted (f : Frame → Frame) (s : State) : (s.setFrame f).posted = s.posted := rfl
@[simp] theorem State.setFrame_msixSent (f : Frame → Frame) (s : State) : (s.setFrame f).msixSent = s.msixSent := rfl

/-! setMgmt -/

@[simp] theorem State.setMgmt_pending (f : Mgmt → Mgmt) (s : State) : (s.setMgmt f).pending = s.pending := rfl
@[simp] theorem State.setMgmt_free (f : Mgmt → Mgmt) (s : State) : (s.setMgmt f).free = s.free := rfl
@[simp] theorem State.setMgmt_power (f : Mgmt → Mgmt) (s : State) : (s.setMgmt f).power = s.power := rfl
@[simp] theorem State.setMgmt_frame (f : Mgmt → Mgmt) (s : State) : (s.setMgmt f).frame = s.frame := rfl
@[simp] theorem State.setMgmt_ports (f : Mgmt → Mgmt) (s : State) : (s.setMgmt f).ports = s.ports := rfl
@[simp] theorem State.setMgmt_regions (f : Mgmt → Mgmt) (s : State) : (s.setMgmt f).regions = s.regions := rfl
@[simp] theorem State.setMgmt_windows (f : Mgmt → Mgmt) (s : State) : (s.setMgmt f).windows = s.windows := rfl
@[simp] theorem State.setMgmt_channels (f : Mgmt → Mgmt) (s : State) : (s.setMgmt f).channels = s.channels := rfl
@[simp] theorem State.setMgmt_settings (f : Mgmt → Mgmt) (s : State) : (s.setMgmt f).settings = s.settings := rfl
@[simp] theorem State.setMgmt_cmds (f : Mgmt → Mgmt) (s : State) : (s.setMgmt f).cmds = s.cmds := rfl
@[simp] theorem State.setMgmt_nextId (f : Mgmt → Mgmt) (s : State) : (s.setMgmt f).nextId = s.nextId := rfl
@[simp] theorem State.setMgmt_jobs (f : Mgmt → Mgmt) (s : State) : (s.setMgmt f).jobs = s.jobs := rfl
@[simp] theorem State.setMgmt_nextJob (f : Mgmt → Mgmt) (s : State) : (s.setMgmt f).nextJob = s.nextJob := rfl
@[simp] theorem State.setMgmt_objs (f : Mgmt → Mgmt) (s : State) : (s.setMgmt f).objs = s.objs := rfl
@[simp] theorem State.setMgmt_mem (f : Mgmt → Mgmt) (s : State) : (s.setMgmt f).mem = s.mem := rfl
@[simp] theorem State.setMgmt_stacks (f : Mgmt → Mgmt) (s : State) : (s.setMgmt f).stackList = s.stackList := rfl
@[simp] theorem State.setMgmt_indexes (f : Mgmt → Mgmt) (s : State) : (s.setMgmt f).indexes = s.indexes := rfl
@[simp] theorem State.setMgmt_walks (f : Mgmt → Mgmt) (s : State) : (s.setMgmt f).walks = s.walks := rfl
@[simp] theorem State.setMgmt_nextWalk (f : Mgmt → Mgmt) (s : State) : (s.setMgmt f).nextWalk = s.nextWalk := rfl
@[simp] theorem State.setMgmt_queries (f : Mgmt → Mgmt) (s : State) : (s.setMgmt f).queries = s.queries := rfl
@[simp] theorem State.setMgmt_nextQuery (f : Mgmt → Mgmt) (s : State) : (s.setMgmt f).nextQuery = s.nextQuery := rfl
@[simp] theorem State.setMgmt_tables (f : Mgmt → Mgmt) (s : State) : (s.setMgmt f).tables = s.tables := rfl
@[simp] theorem State.setMgmt_gathers (f : Mgmt → Mgmt) (s : State) : (s.setMgmt f).gathers = s.gathers := rfl
@[simp] theorem State.setMgmt_updates (f : Mgmt → Mgmt) (s : State) : (s.setMgmt f).updates = s.updates := rfl
@[simp] theorem State.setMgmt_kernels (f : Mgmt → Mgmt) (s : State) : (s.setMgmt f).kernels = s.kernels := rfl
@[simp] theorem State.setMgmt_clusters (f : Mgmt → Mgmt) (s : State) : (s.setMgmt f).clusters = s.clusters := rfl
@[simp] theorem State.setMgmt_units (f : Mgmt → Mgmt) (s : State) : (s.setMgmt f).units = s.units := rfl
@[simp] theorem State.setMgmt_fabric (f : Mgmt → Mgmt) (s : State) : (s.setMgmt f).fabric = s.fabric := rfl
@[simp] theorem State.setMgmt_mgmt (f : Mgmt → Mgmt) (s : State) : (s.setMgmt f).mgmt = f s.mgmt := rfl
@[simp] theorem State.setMgmt_hostMem (f : Mgmt → Mgmt) (s : State) : (s.setMgmt f).hostMem = s.hostMem := rfl
@[simp] theorem State.setMgmt_posted (f : Mgmt → Mgmt) (s : State) : (s.setMgmt f).posted = s.posted := rfl
@[simp] theorem State.setMgmt_msixSent (f : Mgmt → Mgmt) (s : State) : (s.setMgmt f).msixSent = s.msixSent := rfl

/-! setPower -/

@[simp] theorem State.setPower_pending (f : Power → Power) (s : State) : (s.setPower f).pending = s.pending := rfl
@[simp] theorem State.setPower_free (f : Power → Power) (s : State) : (s.setPower f).free = s.free := rfl
@[simp] theorem State.setPower_power (f : Power → Power) (s : State) : (s.setPower f).power = f s.power := rfl
@[simp] theorem State.setPower_frame (f : Power → Power) (s : State) : (s.setPower f).frame = s.frame := rfl
@[simp] theorem State.setPower_ports (f : Power → Power) (s : State) : (s.setPower f).ports = s.ports := rfl
@[simp] theorem State.setPower_regions (f : Power → Power) (s : State) : (s.setPower f).regions = s.regions := rfl
@[simp] theorem State.setPower_windows (f : Power → Power) (s : State) : (s.setPower f).windows = s.windows := rfl
@[simp] theorem State.setPower_channels (f : Power → Power) (s : State) : (s.setPower f).channels = s.channels := rfl
@[simp] theorem State.setPower_settings (f : Power → Power) (s : State) : (s.setPower f).settings = s.settings := rfl
@[simp] theorem State.setPower_cmds (f : Power → Power) (s : State) : (s.setPower f).cmds = s.cmds := rfl
@[simp] theorem State.setPower_nextId (f : Power → Power) (s : State) : (s.setPower f).nextId = s.nextId := rfl
@[simp] theorem State.setPower_jobs (f : Power → Power) (s : State) : (s.setPower f).jobs = s.jobs := rfl
@[simp] theorem State.setPower_nextJob (f : Power → Power) (s : State) : (s.setPower f).nextJob = s.nextJob := rfl
@[simp] theorem State.setPower_objs (f : Power → Power) (s : State) : (s.setPower f).objs = s.objs := rfl
@[simp] theorem State.setPower_mem (f : Power → Power) (s : State) : (s.setPower f).mem = s.mem := rfl
@[simp] theorem State.setPower_stacks (f : Power → Power) (s : State) : (s.setPower f).stackList = s.stackList := rfl
@[simp] theorem State.setPower_indexes (f : Power → Power) (s : State) : (s.setPower f).indexes = s.indexes := rfl
@[simp] theorem State.setPower_walks (f : Power → Power) (s : State) : (s.setPower f).walks = s.walks := rfl
@[simp] theorem State.setPower_nextWalk (f : Power → Power) (s : State) : (s.setPower f).nextWalk = s.nextWalk := rfl
@[simp] theorem State.setPower_queries (f : Power → Power) (s : State) : (s.setPower f).queries = s.queries := rfl
@[simp] theorem State.setPower_nextQuery (f : Power → Power) (s : State) : (s.setPower f).nextQuery = s.nextQuery := rfl
@[simp] theorem State.setPower_tables (f : Power → Power) (s : State) : (s.setPower f).tables = s.tables := rfl
@[simp] theorem State.setPower_gathers (f : Power → Power) (s : State) : (s.setPower f).gathers = s.gathers := rfl
@[simp] theorem State.setPower_updates (f : Power → Power) (s : State) : (s.setPower f).updates = s.updates := rfl
@[simp] theorem State.setPower_kernels (f : Power → Power) (s : State) : (s.setPower f).kernels = s.kernels := rfl
@[simp] theorem State.setPower_clusters (f : Power → Power) (s : State) : (s.setPower f).clusters = s.clusters := rfl
@[simp] theorem State.setPower_units (f : Power → Power) (s : State) : (s.setPower f).units = s.units := rfl
@[simp] theorem State.setPower_fabric (f : Power → Power) (s : State) : (s.setPower f).fabric = s.fabric := rfl
@[simp] theorem State.setPower_mgmt (f : Power → Power) (s : State) : (s.setPower f).mgmt = s.mgmt := rfl
@[simp] theorem State.setPower_hostMem (f : Power → Power) (s : State) : (s.setPower f).hostMem = s.hostMem := rfl
@[simp] theorem State.setPower_posted (f : Power → Power) (s : State) : (s.setPower f).posted = s.posted := rfl
@[simp] theorem State.setPower_msixSent (f : Power → Power) (s : State) : (s.setPower f).msixSent = s.msixSent := rfl

/-! setFabric -/

@[simp] theorem State.setFabric_pending (f : Fabric → Fabric) (s : State) : (s.setFabric f).pending = s.pending := rfl
@[simp] theorem State.setFabric_free (f : Fabric → Fabric) (s : State) : (s.setFabric f).free = s.free := rfl
@[simp] theorem State.setFabric_power (f : Fabric → Fabric) (s : State) : (s.setFabric f).power = s.power := rfl
@[simp] theorem State.setFabric_frame (f : Fabric → Fabric) (s : State) : (s.setFabric f).frame = s.frame := rfl
@[simp] theorem State.setFabric_ports (f : Fabric → Fabric) (s : State) : (s.setFabric f).ports = s.ports := rfl
@[simp] theorem State.setFabric_regions (f : Fabric → Fabric) (s : State) : (s.setFabric f).regions = s.regions := rfl
@[simp] theorem State.setFabric_windows (f : Fabric → Fabric) (s : State) : (s.setFabric f).windows = s.windows := rfl
@[simp] theorem State.setFabric_channels (f : Fabric → Fabric) (s : State) : (s.setFabric f).channels = s.channels := rfl
@[simp] theorem State.setFabric_settings (f : Fabric → Fabric) (s : State) : (s.setFabric f).settings = s.settings := rfl
@[simp] theorem State.setFabric_cmds (f : Fabric → Fabric) (s : State) : (s.setFabric f).cmds = s.cmds := rfl
@[simp] theorem State.setFabric_nextId (f : Fabric → Fabric) (s : State) : (s.setFabric f).nextId = s.nextId := rfl
@[simp] theorem State.setFabric_jobs (f : Fabric → Fabric) (s : State) : (s.setFabric f).jobs = s.jobs := rfl
@[simp] theorem State.setFabric_nextJob (f : Fabric → Fabric) (s : State) : (s.setFabric f).nextJob = s.nextJob := rfl
@[simp] theorem State.setFabric_objs (f : Fabric → Fabric) (s : State) : (s.setFabric f).objs = s.objs := rfl
@[simp] theorem State.setFabric_mem (f : Fabric → Fabric) (s : State) : (s.setFabric f).mem = s.mem := rfl
@[simp] theorem State.setFabric_stacks (f : Fabric → Fabric) (s : State) : (s.setFabric f).stackList = s.stackList := rfl
@[simp] theorem State.setFabric_indexes (f : Fabric → Fabric) (s : State) : (s.setFabric f).indexes = s.indexes := rfl
@[simp] theorem State.setFabric_walks (f : Fabric → Fabric) (s : State) : (s.setFabric f).walks = s.walks := rfl
@[simp] theorem State.setFabric_nextWalk (f : Fabric → Fabric) (s : State) : (s.setFabric f).nextWalk = s.nextWalk := rfl
@[simp] theorem State.setFabric_queries (f : Fabric → Fabric) (s : State) : (s.setFabric f).queries = s.queries := rfl
@[simp] theorem State.setFabric_nextQuery (f : Fabric → Fabric) (s : State) : (s.setFabric f).nextQuery = s.nextQuery := rfl
@[simp] theorem State.setFabric_tables (f : Fabric → Fabric) (s : State) : (s.setFabric f).tables = s.tables := rfl
@[simp] theorem State.setFabric_gathers (f : Fabric → Fabric) (s : State) : (s.setFabric f).gathers = s.gathers := rfl
@[simp] theorem State.setFabric_updates (f : Fabric → Fabric) (s : State) : (s.setFabric f).updates = s.updates := rfl
@[simp] theorem State.setFabric_kernels (f : Fabric → Fabric) (s : State) : (s.setFabric f).kernels = s.kernels := rfl
@[simp] theorem State.setFabric_clusters (f : Fabric → Fabric) (s : State) : (s.setFabric f).clusters = s.clusters := rfl
@[simp] theorem State.setFabric_units (f : Fabric → Fabric) (s : State) : (s.setFabric f).units = s.units := rfl
@[simp] theorem State.setFabric_fabric (f : Fabric → Fabric) (s : State) : (s.setFabric f).fabric = f s.fabric := rfl
@[simp] theorem State.setFabric_mgmt (f : Fabric → Fabric) (s : State) : (s.setFabric f).mgmt = s.mgmt := rfl
@[simp] theorem State.setFabric_hostMem (f : Fabric → Fabric) (s : State) : (s.setFabric f).hostMem = s.hostMem := rfl
@[simp] theorem State.setFabric_posted (f : Fabric → Fabric) (s : State) : (s.setFabric f).posted = s.posted := rfl
@[simp] theorem State.setFabric_msixSent (f : Fabric → Fabric) (s : State) : (s.setFabric f).msixSent = s.msixSent := rfl

/-! setMem -/

@[simp] theorem State.setMem_pending (f : MemSys → MemSys) (s : State) : (s.setMem f).pending = s.pending := rfl
@[simp] theorem State.setMem_free (f : MemSys → MemSys) (s : State) : (s.setMem f).free = s.free := rfl
@[simp] theorem State.setMem_power (f : MemSys → MemSys) (s : State) : (s.setMem f).power = s.power := rfl
@[simp] theorem State.setMem_frame (f : MemSys → MemSys) (s : State) : (s.setMem f).frame = s.frame := rfl
@[simp] theorem State.setMem_ports (f : MemSys → MemSys) (s : State) : (s.setMem f).ports = s.ports := rfl
@[simp] theorem State.setMem_regions (f : MemSys → MemSys) (s : State) : (s.setMem f).regions = s.regions := rfl
@[simp] theorem State.setMem_windows (f : MemSys → MemSys) (s : State) : (s.setMem f).windows = s.windows := rfl
@[simp] theorem State.setMem_channels (f : MemSys → MemSys) (s : State) : (s.setMem f).channels = s.channels := rfl
@[simp] theorem State.setMem_settings (f : MemSys → MemSys) (s : State) : (s.setMem f).settings = s.settings := rfl
@[simp] theorem State.setMem_cmds (f : MemSys → MemSys) (s : State) : (s.setMem f).cmds = s.cmds := rfl
@[simp] theorem State.setMem_nextId (f : MemSys → MemSys) (s : State) : (s.setMem f).nextId = s.nextId := rfl
@[simp] theorem State.setMem_jobs (f : MemSys → MemSys) (s : State) : (s.setMem f).jobs = s.jobs := rfl
@[simp] theorem State.setMem_nextJob (f : MemSys → MemSys) (s : State) : (s.setMem f).nextJob = s.nextJob := rfl
@[simp] theorem State.setMem_objs (f : MemSys → MemSys) (s : State) : (s.setMem f).objs = s.objs := rfl
@[simp] theorem State.setMem_mem (f : MemSys → MemSys) (s : State) : (s.setMem f).mem = f s.mem := rfl
@[simp] theorem State.setMem_stacks (f : MemSys → MemSys) (s : State) : (s.setMem f).stackList = s.stackList := rfl
@[simp] theorem State.setMem_indexes (f : MemSys → MemSys) (s : State) : (s.setMem f).indexes = s.indexes := rfl
@[simp] theorem State.setMem_walks (f : MemSys → MemSys) (s : State) : (s.setMem f).walks = s.walks := rfl
@[simp] theorem State.setMem_nextWalk (f : MemSys → MemSys) (s : State) : (s.setMem f).nextWalk = s.nextWalk := rfl
@[simp] theorem State.setMem_queries (f : MemSys → MemSys) (s : State) : (s.setMem f).queries = s.queries := rfl
@[simp] theorem State.setMem_nextQuery (f : MemSys → MemSys) (s : State) : (s.setMem f).nextQuery = s.nextQuery := rfl
@[simp] theorem State.setMem_tables (f : MemSys → MemSys) (s : State) : (s.setMem f).tables = s.tables := rfl
@[simp] theorem State.setMem_gathers (f : MemSys → MemSys) (s : State) : (s.setMem f).gathers = s.gathers := rfl
@[simp] theorem State.setMem_updates (f : MemSys → MemSys) (s : State) : (s.setMem f).updates = s.updates := rfl
@[simp] theorem State.setMem_kernels (f : MemSys → MemSys) (s : State) : (s.setMem f).kernels = s.kernels := rfl
@[simp] theorem State.setMem_clusters (f : MemSys → MemSys) (s : State) : (s.setMem f).clusters = s.clusters := rfl
@[simp] theorem State.setMem_units (f : MemSys → MemSys) (s : State) : (s.setMem f).units = s.units := rfl
@[simp] theorem State.setMem_fabric (f : MemSys → MemSys) (s : State) : (s.setMem f).fabric = s.fabric := rfl
@[simp] theorem State.setMem_mgmt (f : MemSys → MemSys) (s : State) : (s.setMem f).mgmt = s.mgmt := rfl
@[simp] theorem State.setMem_hostMem (f : MemSys → MemSys) (s : State) : (s.setMem f).hostMem = s.hostMem := rfl
@[simp] theorem State.setMem_posted (f : MemSys → MemSys) (s : State) : (s.setMem f).posted = s.posted := rfl
@[simp] theorem State.setMem_msixSent (f : MemSys → MemSys) (s : State) : (s.setMem f).msixSent = s.msixSent := rfl

/-! setUnits -/

@[simp] theorem State.setUnits_pending (f : Units → Units) (s : State) : (s.setUnits f).pending = s.pending := rfl
@[simp] theorem State.setUnits_free (f : Units → Units) (s : State) : (s.setUnits f).free = s.free := rfl
@[simp] theorem State.setUnits_power (f : Units → Units) (s : State) : (s.setUnits f).power = s.power := rfl
@[simp] theorem State.setUnits_frame (f : Units → Units) (s : State) : (s.setUnits f).frame = s.frame := rfl
@[simp] theorem State.setUnits_ports (f : Units → Units) (s : State) : (s.setUnits f).ports = s.ports := rfl
@[simp] theorem State.setUnits_regions (f : Units → Units) (s : State) : (s.setUnits f).regions = s.regions := rfl
@[simp] theorem State.setUnits_windows (f : Units → Units) (s : State) : (s.setUnits f).windows = s.windows := rfl
@[simp] theorem State.setUnits_channels (f : Units → Units) (s : State) : (s.setUnits f).channels = s.channels := rfl
@[simp] theorem State.setUnits_settings (f : Units → Units) (s : State) : (s.setUnits f).settings = s.settings := rfl
@[simp] theorem State.setUnits_cmds (f : Units → Units) (s : State) : (s.setUnits f).cmds = s.cmds := rfl
@[simp] theorem State.setUnits_nextId (f : Units → Units) (s : State) : (s.setUnits f).nextId = s.nextId := rfl
@[simp] theorem State.setUnits_jobs (f : Units → Units) (s : State) : (s.setUnits f).jobs = s.jobs := rfl
@[simp] theorem State.setUnits_nextJob (f : Units → Units) (s : State) : (s.setUnits f).nextJob = s.nextJob := rfl
@[simp] theorem State.setUnits_objs (f : Units → Units) (s : State) : (s.setUnits f).objs = s.objs := rfl
@[simp] theorem State.setUnits_mem (f : Units → Units) (s : State) : (s.setUnits f).mem = s.mem := rfl
@[simp] theorem State.setUnits_stacks (f : Units → Units) (s : State) : (s.setUnits f).stackList = s.stackList := rfl
@[simp] theorem State.setUnits_indexes (f : Units → Units) (s : State) : (s.setUnits f).indexes = s.indexes := rfl
@[simp] theorem State.setUnits_walks (f : Units → Units) (s : State) : (s.setUnits f).walks = s.walks := rfl
@[simp] theorem State.setUnits_nextWalk (f : Units → Units) (s : State) : (s.setUnits f).nextWalk = s.nextWalk := rfl
@[simp] theorem State.setUnits_queries (f : Units → Units) (s : State) : (s.setUnits f).queries = s.queries := rfl
@[simp] theorem State.setUnits_nextQuery (f : Units → Units) (s : State) : (s.setUnits f).nextQuery = s.nextQuery := rfl
@[simp] theorem State.setUnits_tables (f : Units → Units) (s : State) : (s.setUnits f).tables = s.tables := rfl
@[simp] theorem State.setUnits_gathers (f : Units → Units) (s : State) : (s.setUnits f).gathers = s.gathers := rfl
@[simp] theorem State.setUnits_updates (f : Units → Units) (s : State) : (s.setUnits f).updates = s.updates := rfl
@[simp] theorem State.setUnits_kernels (f : Units → Units) (s : State) : (s.setUnits f).kernels = s.kernels := rfl
@[simp] theorem State.setUnits_clusters (f : Units → Units) (s : State) : (s.setUnits f).clusters = s.clusters := rfl
@[simp] theorem State.setUnits_units (f : Units → Units) (s : State) : (s.setUnits f).units = f s.units := rfl
@[simp] theorem State.setUnits_fabric (f : Units → Units) (s : State) : (s.setUnits f).fabric = s.fabric := rfl
@[simp] theorem State.setUnits_mgmt (f : Units → Units) (s : State) : (s.setUnits f).mgmt = s.mgmt := rfl
@[simp] theorem State.setUnits_hostMem (f : Units → Units) (s : State) : (s.setUnits f).hostMem = s.hostMem := rfl
@[simp] theorem State.setUnits_posted (f : Units → Units) (s : State) : (s.setUnits f).posted = s.posted := rfl
@[simp] theorem State.setUnits_msixSent (f : Units → Units) (s : State) : (s.setUnits f).msixSent = s.msixSent := rfl

/-! setPort -/

@[simp] theorem State.setPort_pending (p : Nat) (f : Port → Port) (s : State) : (s.setPort p f).pending = s.pending := rfl
@[simp] theorem State.setPort_free (p : Nat) (f : Port → Port) (s : State) : (s.setPort p f).free = s.free := rfl
@[simp] theorem State.setPort_power (p : Nat) (f : Port → Port) (s : State) : (s.setPort p f).power = s.power := rfl
@[simp] theorem State.setPort_frame (p : Nat) (f : Port → Port) (s : State) : (s.setPort p f).frame = s.frame := rfl
@[simp] theorem State.setPort_ports (p : Nat) (f : Port → Port) (s : State) : (s.setPort p f).ports = modifyAt s.ports p f := rfl
@[simp] theorem State.setPort_regions (p : Nat) (f : Port → Port) (s : State) : (s.setPort p f).regions = s.regions := rfl
@[simp] theorem State.setPort_windows (p : Nat) (f : Port → Port) (s : State) : (s.setPort p f).windows = s.windows := rfl
@[simp] theorem State.setPort_channels (p : Nat) (f : Port → Port) (s : State) : (s.setPort p f).channels = s.channels := rfl
@[simp] theorem State.setPort_settings (p : Nat) (f : Port → Port) (s : State) : (s.setPort p f).settings = s.settings := rfl
@[simp] theorem State.setPort_cmds (p : Nat) (f : Port → Port) (s : State) : (s.setPort p f).cmds = s.cmds := rfl
@[simp] theorem State.setPort_nextId (p : Nat) (f : Port → Port) (s : State) : (s.setPort p f).nextId = s.nextId := rfl
@[simp] theorem State.setPort_jobs (p : Nat) (f : Port → Port) (s : State) : (s.setPort p f).jobs = s.jobs := rfl
@[simp] theorem State.setPort_nextJob (p : Nat) (f : Port → Port) (s : State) : (s.setPort p f).nextJob = s.nextJob := rfl
@[simp] theorem State.setPort_objs (p : Nat) (f : Port → Port) (s : State) : (s.setPort p f).objs = s.objs := rfl
@[simp] theorem State.setPort_mem (p : Nat) (f : Port → Port) (s : State) : (s.setPort p f).mem = s.mem := rfl
@[simp] theorem State.setPort_stacks (p : Nat) (f : Port → Port) (s : State) : (s.setPort p f).stackList = s.stackList := rfl
@[simp] theorem State.setPort_indexes (p : Nat) (f : Port → Port) (s : State) : (s.setPort p f).indexes = s.indexes := rfl
@[simp] theorem State.setPort_walks (p : Nat) (f : Port → Port) (s : State) : (s.setPort p f).walks = s.walks := rfl
@[simp] theorem State.setPort_nextWalk (p : Nat) (f : Port → Port) (s : State) : (s.setPort p f).nextWalk = s.nextWalk := rfl
@[simp] theorem State.setPort_queries (p : Nat) (f : Port → Port) (s : State) : (s.setPort p f).queries = s.queries := rfl
@[simp] theorem State.setPort_nextQuery (p : Nat) (f : Port → Port) (s : State) : (s.setPort p f).nextQuery = s.nextQuery := rfl
@[simp] theorem State.setPort_tables (p : Nat) (f : Port → Port) (s : State) : (s.setPort p f).tables = s.tables := rfl
@[simp] theorem State.setPort_gathers (p : Nat) (f : Port → Port) (s : State) : (s.setPort p f).gathers = s.gathers := rfl
@[simp] theorem State.setPort_updates (p : Nat) (f : Port → Port) (s : State) : (s.setPort p f).updates = s.updates := rfl
@[simp] theorem State.setPort_kernels (p : Nat) (f : Port → Port) (s : State) : (s.setPort p f).kernels = s.kernels := rfl
@[simp] theorem State.setPort_clusters (p : Nat) (f : Port → Port) (s : State) : (s.setPort p f).clusters = s.clusters := rfl
@[simp] theorem State.setPort_units (p : Nat) (f : Port → Port) (s : State) : (s.setPort p f).units = s.units := rfl
@[simp] theorem State.setPort_fabric (p : Nat) (f : Port → Port) (s : State) : (s.setPort p f).fabric = s.fabric := rfl
@[simp] theorem State.setPort_mgmt (p : Nat) (f : Port → Port) (s : State) : (s.setPort p f).mgmt = s.mgmt := rfl
@[simp] theorem State.setPort_hostMem (p : Nat) (f : Port → Port) (s : State) : (s.setPort p f).hostMem = s.hostMem := rfl
@[simp] theorem State.setPort_posted (p : Nat) (f : Port → Port) (s : State) : (s.setPort p f).posted = s.posted := rfl
@[simp] theorem State.setPort_msixSent (p : Nat) (f : Port → Port) (s : State) : (s.setPort p f).msixSent = s.msixSent := rfl

/-! setObj -/

@[simp] theorem State.setObj_pending (n : Nat) (f : Obj → Obj) (s : State) : (s.setObj n f).pending = s.pending := rfl
@[simp] theorem State.setObj_free (n : Nat) (f : Obj → Obj) (s : State) : (s.setObj n f).free = s.free := rfl
@[simp] theorem State.setObj_power (n : Nat) (f : Obj → Obj) (s : State) : (s.setObj n f).power = s.power := rfl
@[simp] theorem State.setObj_frame (n : Nat) (f : Obj → Obj) (s : State) : (s.setObj n f).frame = s.frame := rfl
@[simp] theorem State.setObj_ports (n : Nat) (f : Obj → Obj) (s : State) : (s.setObj n f).ports = s.ports := rfl
@[simp] theorem State.setObj_regions (n : Nat) (f : Obj → Obj) (s : State) : (s.setObj n f).regions = s.regions := rfl
@[simp] theorem State.setObj_windows (n : Nat) (f : Obj → Obj) (s : State) : (s.setObj n f).windows = s.windows := rfl
@[simp] theorem State.setObj_channels (n : Nat) (f : Obj → Obj) (s : State) : (s.setObj n f).channels = s.channels := rfl
@[simp] theorem State.setObj_settings (n : Nat) (f : Obj → Obj) (s : State) : (s.setObj n f).settings = s.settings := rfl
@[simp] theorem State.setObj_cmds (n : Nat) (f : Obj → Obj) (s : State) : (s.setObj n f).cmds = s.cmds := rfl
@[simp] theorem State.setObj_nextId (n : Nat) (f : Obj → Obj) (s : State) : (s.setObj n f).nextId = s.nextId := rfl
@[simp] theorem State.setObj_jobs (n : Nat) (f : Obj → Obj) (s : State) : (s.setObj n f).jobs = s.jobs := rfl
@[simp] theorem State.setObj_nextJob (n : Nat) (f : Obj → Obj) (s : State) : (s.setObj n f).nextJob = s.nextJob := rfl
@[simp] theorem State.setObj_objs (n : Nat) (f : Obj → Obj) (s : State) : (s.setObj n f).objs = modifyIf s.objs (fun o => o.num == n) f := rfl
@[simp] theorem State.setObj_mem (n : Nat) (f : Obj → Obj) (s : State) : (s.setObj n f).mem = s.mem := rfl
@[simp] theorem State.setObj_stacks (n : Nat) (f : Obj → Obj) (s : State) : (s.setObj n f).stackList = s.stackList := rfl
@[simp] theorem State.setObj_indexes (n : Nat) (f : Obj → Obj) (s : State) : (s.setObj n f).indexes = s.indexes := rfl
@[simp] theorem State.setObj_walks (n : Nat) (f : Obj → Obj) (s : State) : (s.setObj n f).walks = s.walks := rfl
@[simp] theorem State.setObj_nextWalk (n : Nat) (f : Obj → Obj) (s : State) : (s.setObj n f).nextWalk = s.nextWalk := rfl
@[simp] theorem State.setObj_queries (n : Nat) (f : Obj → Obj) (s : State) : (s.setObj n f).queries = s.queries := rfl
@[simp] theorem State.setObj_nextQuery (n : Nat) (f : Obj → Obj) (s : State) : (s.setObj n f).nextQuery = s.nextQuery := rfl
@[simp] theorem State.setObj_tables (n : Nat) (f : Obj → Obj) (s : State) : (s.setObj n f).tables = s.tables := rfl
@[simp] theorem State.setObj_gathers (n : Nat) (f : Obj → Obj) (s : State) : (s.setObj n f).gathers = s.gathers := rfl
@[simp] theorem State.setObj_updates (n : Nat) (f : Obj → Obj) (s : State) : (s.setObj n f).updates = s.updates := rfl
@[simp] theorem State.setObj_kernels (n : Nat) (f : Obj → Obj) (s : State) : (s.setObj n f).kernels = s.kernels := rfl
@[simp] theorem State.setObj_clusters (n : Nat) (f : Obj → Obj) (s : State) : (s.setObj n f).clusters = s.clusters := rfl
@[simp] theorem State.setObj_units (n : Nat) (f : Obj → Obj) (s : State) : (s.setObj n f).units = s.units := rfl
@[simp] theorem State.setObj_fabric (n : Nat) (f : Obj → Obj) (s : State) : (s.setObj n f).fabric = s.fabric := rfl
@[simp] theorem State.setObj_mgmt (n : Nat) (f : Obj → Obj) (s : State) : (s.setObj n f).mgmt = s.mgmt := rfl
@[simp] theorem State.setObj_hostMem (n : Nat) (f : Obj → Obj) (s : State) : (s.setObj n f).hostMem = s.hostMem := rfl
@[simp] theorem State.setObj_posted (n : Nat) (f : Obj → Obj) (s : State) : (s.setObj n f).posted = s.posted := rfl
@[simp] theorem State.setObj_msixSent (n : Nat) (f : Obj → Obj) (s : State) : (s.setObj n f).msixSent = s.msixSent := rfl

/-! setChan -/

@[simp] theorem State.setChan_pending (n : Nat) (f : Channel → Channel) (s : State) : (s.setChan n f).pending = s.pending := rfl
@[simp] theorem State.setChan_free (n : Nat) (f : Channel → Channel) (s : State) : (s.setChan n f).free = s.free := rfl
@[simp] theorem State.setChan_power (n : Nat) (f : Channel → Channel) (s : State) : (s.setChan n f).power = s.power := rfl
@[simp] theorem State.setChan_frame (n : Nat) (f : Channel → Channel) (s : State) : (s.setChan n f).frame = s.frame := rfl
@[simp] theorem State.setChan_ports (n : Nat) (f : Channel → Channel) (s : State) : (s.setChan n f).ports = s.ports := rfl
@[simp] theorem State.setChan_regions (n : Nat) (f : Channel → Channel) (s : State) : (s.setChan n f).regions = s.regions := rfl
@[simp] theorem State.setChan_windows (n : Nat) (f : Channel → Channel) (s : State) : (s.setChan n f).windows = s.windows := rfl
@[simp] theorem State.setChan_channels (n : Nat) (f : Channel → Channel) (s : State) : (s.setChan n f).channels = modifyIf s.channels (fun c => c.slot == n) f := rfl
@[simp] theorem State.setChan_settings (n : Nat) (f : Channel → Channel) (s : State) : (s.setChan n f).settings = s.settings := rfl
@[simp] theorem State.setChan_cmds (n : Nat) (f : Channel → Channel) (s : State) : (s.setChan n f).cmds = s.cmds := rfl
@[simp] theorem State.setChan_nextId (n : Nat) (f : Channel → Channel) (s : State) : (s.setChan n f).nextId = s.nextId := rfl
@[simp] theorem State.setChan_jobs (n : Nat) (f : Channel → Channel) (s : State) : (s.setChan n f).jobs = s.jobs := rfl
@[simp] theorem State.setChan_nextJob (n : Nat) (f : Channel → Channel) (s : State) : (s.setChan n f).nextJob = s.nextJob := rfl
@[simp] theorem State.setChan_objs (n : Nat) (f : Channel → Channel) (s : State) : (s.setChan n f).objs = s.objs := rfl
@[simp] theorem State.setChan_mem (n : Nat) (f : Channel → Channel) (s : State) : (s.setChan n f).mem = s.mem := rfl
@[simp] theorem State.setChan_stacks (n : Nat) (f : Channel → Channel) (s : State) : (s.setChan n f).stackList = s.stackList := rfl
@[simp] theorem State.setChan_indexes (n : Nat) (f : Channel → Channel) (s : State) : (s.setChan n f).indexes = s.indexes := rfl
@[simp] theorem State.setChan_walks (n : Nat) (f : Channel → Channel) (s : State) : (s.setChan n f).walks = s.walks := rfl
@[simp] theorem State.setChan_nextWalk (n : Nat) (f : Channel → Channel) (s : State) : (s.setChan n f).nextWalk = s.nextWalk := rfl
@[simp] theorem State.setChan_queries (n : Nat) (f : Channel → Channel) (s : State) : (s.setChan n f).queries = s.queries := rfl
@[simp] theorem State.setChan_nextQuery (n : Nat) (f : Channel → Channel) (s : State) : (s.setChan n f).nextQuery = s.nextQuery := rfl
@[simp] theorem State.setChan_tables (n : Nat) (f : Channel → Channel) (s : State) : (s.setChan n f).tables = s.tables := rfl
@[simp] theorem State.setChan_gathers (n : Nat) (f : Channel → Channel) (s : State) : (s.setChan n f).gathers = s.gathers := rfl
@[simp] theorem State.setChan_updates (n : Nat) (f : Channel → Channel) (s : State) : (s.setChan n f).updates = s.updates := rfl
@[simp] theorem State.setChan_kernels (n : Nat) (f : Channel → Channel) (s : State) : (s.setChan n f).kernels = s.kernels := rfl
@[simp] theorem State.setChan_clusters (n : Nat) (f : Channel → Channel) (s : State) : (s.setChan n f).clusters = s.clusters := rfl
@[simp] theorem State.setChan_units (n : Nat) (f : Channel → Channel) (s : State) : (s.setChan n f).units = s.units := rfl
@[simp] theorem State.setChan_fabric (n : Nat) (f : Channel → Channel) (s : State) : (s.setChan n f).fabric = s.fabric := rfl
@[simp] theorem State.setChan_mgmt (n : Nat) (f : Channel → Channel) (s : State) : (s.setChan n f).mgmt = s.mgmt := rfl
@[simp] theorem State.setChan_hostMem (n : Nat) (f : Channel → Channel) (s : State) : (s.setChan n f).hostMem = s.hostMem := rfl
@[simp] theorem State.setChan_posted (n : Nat) (f : Channel → Channel) (s : State) : (s.setChan n f).posted = s.posted := rfl
@[simp] theorem State.setChan_msixSent (n : Nat) (f : Channel → Channel) (s : State) : (s.setChan n f).msixSent = s.msixSent := rfl

/-! setCmd -/

@[simp] theorem State.setCmd_pending (n : Nat) (f : Cmd → Cmd) (s : State) : (s.setCmd n f).pending = s.pending := rfl
@[simp] theorem State.setCmd_free (n : Nat) (f : Cmd → Cmd) (s : State) : (s.setCmd n f).free = s.free := rfl
@[simp] theorem State.setCmd_power (n : Nat) (f : Cmd → Cmd) (s : State) : (s.setCmd n f).power = s.power := rfl
@[simp] theorem State.setCmd_frame (n : Nat) (f : Cmd → Cmd) (s : State) : (s.setCmd n f).frame = s.frame := rfl
@[simp] theorem State.setCmd_ports (n : Nat) (f : Cmd → Cmd) (s : State) : (s.setCmd n f).ports = s.ports := rfl
@[simp] theorem State.setCmd_regions (n : Nat) (f : Cmd → Cmd) (s : State) : (s.setCmd n f).regions = s.regions := rfl
@[simp] theorem State.setCmd_windows (n : Nat) (f : Cmd → Cmd) (s : State) : (s.setCmd n f).windows = s.windows := rfl
@[simp] theorem State.setCmd_channels (n : Nat) (f : Cmd → Cmd) (s : State) : (s.setCmd n f).channels = s.channels := rfl
@[simp] theorem State.setCmd_settings (n : Nat) (f : Cmd → Cmd) (s : State) : (s.setCmd n f).settings = s.settings := rfl
@[simp] theorem State.setCmd_cmds (n : Nat) (f : Cmd → Cmd) (s : State) : (s.setCmd n f).cmds = modifyIf s.cmds (fun c => c.id == n) f := rfl
@[simp] theorem State.setCmd_nextId (n : Nat) (f : Cmd → Cmd) (s : State) : (s.setCmd n f).nextId = s.nextId := rfl
@[simp] theorem State.setCmd_jobs (n : Nat) (f : Cmd → Cmd) (s : State) : (s.setCmd n f).jobs = s.jobs := rfl
@[simp] theorem State.setCmd_nextJob (n : Nat) (f : Cmd → Cmd) (s : State) : (s.setCmd n f).nextJob = s.nextJob := rfl
@[simp] theorem State.setCmd_objs (n : Nat) (f : Cmd → Cmd) (s : State) : (s.setCmd n f).objs = s.objs := rfl
@[simp] theorem State.setCmd_mem (n : Nat) (f : Cmd → Cmd) (s : State) : (s.setCmd n f).mem = s.mem := rfl
@[simp] theorem State.setCmd_stacks (n : Nat) (f : Cmd → Cmd) (s : State) : (s.setCmd n f).stackList = s.stackList := rfl
@[simp] theorem State.setCmd_indexes (n : Nat) (f : Cmd → Cmd) (s : State) : (s.setCmd n f).indexes = s.indexes := rfl
@[simp] theorem State.setCmd_walks (n : Nat) (f : Cmd → Cmd) (s : State) : (s.setCmd n f).walks = s.walks := rfl
@[simp] theorem State.setCmd_nextWalk (n : Nat) (f : Cmd → Cmd) (s : State) : (s.setCmd n f).nextWalk = s.nextWalk := rfl
@[simp] theorem State.setCmd_queries (n : Nat) (f : Cmd → Cmd) (s : State) : (s.setCmd n f).queries = s.queries := rfl
@[simp] theorem State.setCmd_nextQuery (n : Nat) (f : Cmd → Cmd) (s : State) : (s.setCmd n f).nextQuery = s.nextQuery := rfl
@[simp] theorem State.setCmd_tables (n : Nat) (f : Cmd → Cmd) (s : State) : (s.setCmd n f).tables = s.tables := rfl
@[simp] theorem State.setCmd_gathers (n : Nat) (f : Cmd → Cmd) (s : State) : (s.setCmd n f).gathers = s.gathers := rfl
@[simp] theorem State.setCmd_updates (n : Nat) (f : Cmd → Cmd) (s : State) : (s.setCmd n f).updates = s.updates := rfl
@[simp] theorem State.setCmd_kernels (n : Nat) (f : Cmd → Cmd) (s : State) : (s.setCmd n f).kernels = s.kernels := rfl
@[simp] theorem State.setCmd_clusters (n : Nat) (f : Cmd → Cmd) (s : State) : (s.setCmd n f).clusters = s.clusters := rfl
@[simp] theorem State.setCmd_units (n : Nat) (f : Cmd → Cmd) (s : State) : (s.setCmd n f).units = s.units := rfl
@[simp] theorem State.setCmd_fabric (n : Nat) (f : Cmd → Cmd) (s : State) : (s.setCmd n f).fabric = s.fabric := rfl
@[simp] theorem State.setCmd_mgmt (n : Nat) (f : Cmd → Cmd) (s : State) : (s.setCmd n f).mgmt = s.mgmt := rfl
@[simp] theorem State.setCmd_hostMem (n : Nat) (f : Cmd → Cmd) (s : State) : (s.setCmd n f).hostMem = s.hostMem := rfl
@[simp] theorem State.setCmd_posted (n : Nat) (f : Cmd → Cmd) (s : State) : (s.setCmd n f).posted = s.posted := rfl
@[simp] theorem State.setCmd_msixSent (n : Nat) (f : Cmd → Cmd) (s : State) : (s.setCmd n f).msixSent = s.msixSent := rfl

/-! setJob -/

@[simp] theorem State.setJob_pending (n : Nat) (f : Job → Job) (s : State) : (s.setJob n f).pending = s.pending := rfl
@[simp] theorem State.setJob_free (n : Nat) (f : Job → Job) (s : State) : (s.setJob n f).free = s.free := rfl
@[simp] theorem State.setJob_power (n : Nat) (f : Job → Job) (s : State) : (s.setJob n f).power = s.power := rfl
@[simp] theorem State.setJob_frame (n : Nat) (f : Job → Job) (s : State) : (s.setJob n f).frame = s.frame := rfl
@[simp] theorem State.setJob_ports (n : Nat) (f : Job → Job) (s : State) : (s.setJob n f).ports = s.ports := rfl
@[simp] theorem State.setJob_regions (n : Nat) (f : Job → Job) (s : State) : (s.setJob n f).regions = s.regions := rfl
@[simp] theorem State.setJob_windows (n : Nat) (f : Job → Job) (s : State) : (s.setJob n f).windows = s.windows := rfl
@[simp] theorem State.setJob_channels (n : Nat) (f : Job → Job) (s : State) : (s.setJob n f).channels = s.channels := rfl
@[simp] theorem State.setJob_settings (n : Nat) (f : Job → Job) (s : State) : (s.setJob n f).settings = s.settings := rfl
@[simp] theorem State.setJob_cmds (n : Nat) (f : Job → Job) (s : State) : (s.setJob n f).cmds = s.cmds := rfl
@[simp] theorem State.setJob_nextId (n : Nat) (f : Job → Job) (s : State) : (s.setJob n f).nextId = s.nextId := rfl
@[simp] theorem State.setJob_jobs (n : Nat) (f : Job → Job) (s : State) : (s.setJob n f).jobs = modifyIf s.jobs (fun j => j.id == n) f := rfl
@[simp] theorem State.setJob_nextJob (n : Nat) (f : Job → Job) (s : State) : (s.setJob n f).nextJob = s.nextJob := rfl
@[simp] theorem State.setJob_objs (n : Nat) (f : Job → Job) (s : State) : (s.setJob n f).objs = s.objs := rfl
@[simp] theorem State.setJob_mem (n : Nat) (f : Job → Job) (s : State) : (s.setJob n f).mem = s.mem := rfl
@[simp] theorem State.setJob_stacks (n : Nat) (f : Job → Job) (s : State) : (s.setJob n f).stackList = s.stackList := rfl
@[simp] theorem State.setJob_indexes (n : Nat) (f : Job → Job) (s : State) : (s.setJob n f).indexes = s.indexes := rfl
@[simp] theorem State.setJob_walks (n : Nat) (f : Job → Job) (s : State) : (s.setJob n f).walks = s.walks := rfl
@[simp] theorem State.setJob_nextWalk (n : Nat) (f : Job → Job) (s : State) : (s.setJob n f).nextWalk = s.nextWalk := rfl
@[simp] theorem State.setJob_queries (n : Nat) (f : Job → Job) (s : State) : (s.setJob n f).queries = s.queries := rfl
@[simp] theorem State.setJob_nextQuery (n : Nat) (f : Job → Job) (s : State) : (s.setJob n f).nextQuery = s.nextQuery := rfl
@[simp] theorem State.setJob_tables (n : Nat) (f : Job → Job) (s : State) : (s.setJob n f).tables = s.tables := rfl
@[simp] theorem State.setJob_gathers (n : Nat) (f : Job → Job) (s : State) : (s.setJob n f).gathers = s.gathers := rfl
@[simp] theorem State.setJob_updates (n : Nat) (f : Job → Job) (s : State) : (s.setJob n f).updates = s.updates := rfl
@[simp] theorem State.setJob_kernels (n : Nat) (f : Job → Job) (s : State) : (s.setJob n f).kernels = s.kernels := rfl
@[simp] theorem State.setJob_clusters (n : Nat) (f : Job → Job) (s : State) : (s.setJob n f).clusters = s.clusters := rfl
@[simp] theorem State.setJob_units (n : Nat) (f : Job → Job) (s : State) : (s.setJob n f).units = s.units := rfl
@[simp] theorem State.setJob_fabric (n : Nat) (f : Job → Job) (s : State) : (s.setJob n f).fabric = s.fabric := rfl
@[simp] theorem State.setJob_mgmt (n : Nat) (f : Job → Job) (s : State) : (s.setJob n f).mgmt = s.mgmt := rfl
@[simp] theorem State.setJob_hostMem (n : Nat) (f : Job → Job) (s : State) : (s.setJob n f).hostMem = s.hostMem := rfl
@[simp] theorem State.setJob_posted (n : Nat) (f : Job → Job) (s : State) : (s.setJob n f).posted = s.posted := rfl
@[simp] theorem State.setJob_msixSent (n : Nat) (f : Job → Job) (s : State) : (s.setJob n f).msixSent = s.msixSent := rfl

/-! setIndex -/

@[simp] theorem State.setIndex_pending (n : Nat) (f : Index → Index) (s : State) : (s.setIndex n f).pending = s.pending := rfl
@[simp] theorem State.setIndex_free (n : Nat) (f : Index → Index) (s : State) : (s.setIndex n f).free = s.free := rfl
@[simp] theorem State.setIndex_power (n : Nat) (f : Index → Index) (s : State) : (s.setIndex n f).power = s.power := rfl
@[simp] theorem State.setIndex_frame (n : Nat) (f : Index → Index) (s : State) : (s.setIndex n f).frame = s.frame := rfl
@[simp] theorem State.setIndex_ports (n : Nat) (f : Index → Index) (s : State) : (s.setIndex n f).ports = s.ports := rfl
@[simp] theorem State.setIndex_regions (n : Nat) (f : Index → Index) (s : State) : (s.setIndex n f).regions = s.regions := rfl
@[simp] theorem State.setIndex_windows (n : Nat) (f : Index → Index) (s : State) : (s.setIndex n f).windows = s.windows := rfl
@[simp] theorem State.setIndex_channels (n : Nat) (f : Index → Index) (s : State) : (s.setIndex n f).channels = s.channels := rfl
@[simp] theorem State.setIndex_settings (n : Nat) (f : Index → Index) (s : State) : (s.setIndex n f).settings = s.settings := rfl
@[simp] theorem State.setIndex_cmds (n : Nat) (f : Index → Index) (s : State) : (s.setIndex n f).cmds = s.cmds := rfl
@[simp] theorem State.setIndex_nextId (n : Nat) (f : Index → Index) (s : State) : (s.setIndex n f).nextId = s.nextId := rfl
@[simp] theorem State.setIndex_jobs (n : Nat) (f : Index → Index) (s : State) : (s.setIndex n f).jobs = s.jobs := rfl
@[simp] theorem State.setIndex_nextJob (n : Nat) (f : Index → Index) (s : State) : (s.setIndex n f).nextJob = s.nextJob := rfl
@[simp] theorem State.setIndex_objs (n : Nat) (f : Index → Index) (s : State) : (s.setIndex n f).objs = s.objs := rfl
@[simp] theorem State.setIndex_mem (n : Nat) (f : Index → Index) (s : State) : (s.setIndex n f).mem = s.mem := rfl
@[simp] theorem State.setIndex_stacks (n : Nat) (f : Index → Index) (s : State) : (s.setIndex n f).stackList = s.stackList := rfl
@[simp] theorem State.setIndex_indexes (n : Nat) (f : Index → Index) (s : State) : (s.setIndex n f).indexes = modifyIf s.indexes (fun x => x.num == n) f := rfl
@[simp] theorem State.setIndex_walks (n : Nat) (f : Index → Index) (s : State) : (s.setIndex n f).walks = s.walks := rfl
@[simp] theorem State.setIndex_nextWalk (n : Nat) (f : Index → Index) (s : State) : (s.setIndex n f).nextWalk = s.nextWalk := rfl
@[simp] theorem State.setIndex_queries (n : Nat) (f : Index → Index) (s : State) : (s.setIndex n f).queries = s.queries := rfl
@[simp] theorem State.setIndex_nextQuery (n : Nat) (f : Index → Index) (s : State) : (s.setIndex n f).nextQuery = s.nextQuery := rfl
@[simp] theorem State.setIndex_tables (n : Nat) (f : Index → Index) (s : State) : (s.setIndex n f).tables = s.tables := rfl
@[simp] theorem State.setIndex_gathers (n : Nat) (f : Index → Index) (s : State) : (s.setIndex n f).gathers = s.gathers := rfl
@[simp] theorem State.setIndex_updates (n : Nat) (f : Index → Index) (s : State) : (s.setIndex n f).updates = s.updates := rfl
@[simp] theorem State.setIndex_kernels (n : Nat) (f : Index → Index) (s : State) : (s.setIndex n f).kernels = s.kernels := rfl
@[simp] theorem State.setIndex_clusters (n : Nat) (f : Index → Index) (s : State) : (s.setIndex n f).clusters = s.clusters := rfl
@[simp] theorem State.setIndex_units (n : Nat) (f : Index → Index) (s : State) : (s.setIndex n f).units = s.units := rfl
@[simp] theorem State.setIndex_fabric (n : Nat) (f : Index → Index) (s : State) : (s.setIndex n f).fabric = s.fabric := rfl
@[simp] theorem State.setIndex_mgmt (n : Nat) (f : Index → Index) (s : State) : (s.setIndex n f).mgmt = s.mgmt := rfl
@[simp] theorem State.setIndex_hostMem (n : Nat) (f : Index → Index) (s : State) : (s.setIndex n f).hostMem = s.hostMem := rfl
@[simp] theorem State.setIndex_posted (n : Nat) (f : Index → Index) (s : State) : (s.setIndex n f).posted = s.posted := rfl
@[simp] theorem State.setIndex_msixSent (n : Nat) (f : Index → Index) (s : State) : (s.setIndex n f).msixSent = s.msixSent := rfl

/-! setShard -/

@[simp] theorem State.setShard_pending (n : Nat) (f : Shard → Shard) (s : State) : (s.setShard n f).pending = s.pending := rfl
@[simp] theorem State.setShard_free (n : Nat) (f : Shard → Shard) (s : State) : (s.setShard n f).free = s.free := rfl
@[simp] theorem State.setShard_power (n : Nat) (f : Shard → Shard) (s : State) : (s.setShard n f).power = s.power := rfl
@[simp] theorem State.setShard_frame (n : Nat) (f : Shard → Shard) (s : State) : (s.setShard n f).frame = s.frame := rfl
@[simp] theorem State.setShard_ports (n : Nat) (f : Shard → Shard) (s : State) : (s.setShard n f).ports = s.ports := rfl
@[simp] theorem State.setShard_regions (n : Nat) (f : Shard → Shard) (s : State) : (s.setShard n f).regions = s.regions := rfl
@[simp] theorem State.setShard_windows (n : Nat) (f : Shard → Shard) (s : State) : (s.setShard n f).windows = s.windows := rfl
@[simp] theorem State.setShard_channels (n : Nat) (f : Shard → Shard) (s : State) : (s.setShard n f).channels = s.channels := rfl
@[simp] theorem State.setShard_settings (n : Nat) (f : Shard → Shard) (s : State) : (s.setShard n f).settings = s.settings := rfl
@[simp] theorem State.setShard_cmds (n : Nat) (f : Shard → Shard) (s : State) : (s.setShard n f).cmds = s.cmds := rfl
@[simp] theorem State.setShard_nextId (n : Nat) (f : Shard → Shard) (s : State) : (s.setShard n f).nextId = s.nextId := rfl
@[simp] theorem State.setShard_jobs (n : Nat) (f : Shard → Shard) (s : State) : (s.setShard n f).jobs = s.jobs := rfl
@[simp] theorem State.setShard_nextJob (n : Nat) (f : Shard → Shard) (s : State) : (s.setShard n f).nextJob = s.nextJob := rfl
@[simp] theorem State.setShard_objs (n : Nat) (f : Shard → Shard) (s : State) : (s.setShard n f).objs = s.objs := rfl
@[simp] theorem State.setShard_mem (n : Nat) (f : Shard → Shard) (s : State) : (s.setShard n f).mem = s.mem := rfl
@[simp] theorem State.setShard_stacks (n : Nat) (f : Shard → Shard) (s : State) : (s.setShard n f).stackList = s.stackList := rfl
@[simp] theorem State.setShard_indexes (n : Nat) (f : Shard → Shard) (s : State) : (s.setShard n f).indexes = modifyIf s.indexes (fun x => x.num == n) fun x => { x with shard := x.shard.map f } := rfl
@[simp] theorem State.setShard_walks (n : Nat) (f : Shard → Shard) (s : State) : (s.setShard n f).walks = s.walks := rfl
@[simp] theorem State.setShard_nextWalk (n : Nat) (f : Shard → Shard) (s : State) : (s.setShard n f).nextWalk = s.nextWalk := rfl
@[simp] theorem State.setShard_queries (n : Nat) (f : Shard → Shard) (s : State) : (s.setShard n f).queries = s.queries := rfl
@[simp] theorem State.setShard_nextQuery (n : Nat) (f : Shard → Shard) (s : State) : (s.setShard n f).nextQuery = s.nextQuery := rfl
@[simp] theorem State.setShard_tables (n : Nat) (f : Shard → Shard) (s : State) : (s.setShard n f).tables = s.tables := rfl
@[simp] theorem State.setShard_gathers (n : Nat) (f : Shard → Shard) (s : State) : (s.setShard n f).gathers = s.gathers := rfl
@[simp] theorem State.setShard_updates (n : Nat) (f : Shard → Shard) (s : State) : (s.setShard n f).updates = s.updates := rfl
@[simp] theorem State.setShard_kernels (n : Nat) (f : Shard → Shard) (s : State) : (s.setShard n f).kernels = s.kernels := rfl
@[simp] theorem State.setShard_clusters (n : Nat) (f : Shard → Shard) (s : State) : (s.setShard n f).clusters = s.clusters := rfl
@[simp] theorem State.setShard_units (n : Nat) (f : Shard → Shard) (s : State) : (s.setShard n f).units = s.units := rfl
@[simp] theorem State.setShard_fabric (n : Nat) (f : Shard → Shard) (s : State) : (s.setShard n f).fabric = s.fabric := rfl
@[simp] theorem State.setShard_mgmt (n : Nat) (f : Shard → Shard) (s : State) : (s.setShard n f).mgmt = s.mgmt := rfl
@[simp] theorem State.setShard_hostMem (n : Nat) (f : Shard → Shard) (s : State) : (s.setShard n f).hostMem = s.hostMem := rfl
@[simp] theorem State.setShard_posted (n : Nat) (f : Shard → Shard) (s : State) : (s.setShard n f).posted = s.posted := rfl
@[simp] theorem State.setShard_msixSent (n : Nat) (f : Shard → Shard) (s : State) : (s.setShard n f).msixSent = s.msixSent := rfl

/-! setWalk -/

@[simp] theorem State.setWalk_pending (n : Nat) (f : Walk → Walk) (s : State) : (s.setWalk n f).pending = s.pending := rfl
@[simp] theorem State.setWalk_free (n : Nat) (f : Walk → Walk) (s : State) : (s.setWalk n f).free = s.free := rfl
@[simp] theorem State.setWalk_power (n : Nat) (f : Walk → Walk) (s : State) : (s.setWalk n f).power = s.power := rfl
@[simp] theorem State.setWalk_frame (n : Nat) (f : Walk → Walk) (s : State) : (s.setWalk n f).frame = s.frame := rfl
@[simp] theorem State.setWalk_ports (n : Nat) (f : Walk → Walk) (s : State) : (s.setWalk n f).ports = s.ports := rfl
@[simp] theorem State.setWalk_regions (n : Nat) (f : Walk → Walk) (s : State) : (s.setWalk n f).regions = s.regions := rfl
@[simp] theorem State.setWalk_windows (n : Nat) (f : Walk → Walk) (s : State) : (s.setWalk n f).windows = s.windows := rfl
@[simp] theorem State.setWalk_channels (n : Nat) (f : Walk → Walk) (s : State) : (s.setWalk n f).channels = s.channels := rfl
@[simp] theorem State.setWalk_settings (n : Nat) (f : Walk → Walk) (s : State) : (s.setWalk n f).settings = s.settings := rfl
@[simp] theorem State.setWalk_cmds (n : Nat) (f : Walk → Walk) (s : State) : (s.setWalk n f).cmds = s.cmds := rfl
@[simp] theorem State.setWalk_nextId (n : Nat) (f : Walk → Walk) (s : State) : (s.setWalk n f).nextId = s.nextId := rfl
@[simp] theorem State.setWalk_jobs (n : Nat) (f : Walk → Walk) (s : State) : (s.setWalk n f).jobs = s.jobs := rfl
@[simp] theorem State.setWalk_nextJob (n : Nat) (f : Walk → Walk) (s : State) : (s.setWalk n f).nextJob = s.nextJob := rfl
@[simp] theorem State.setWalk_objs (n : Nat) (f : Walk → Walk) (s : State) : (s.setWalk n f).objs = s.objs := rfl
@[simp] theorem State.setWalk_mem (n : Nat) (f : Walk → Walk) (s : State) : (s.setWalk n f).mem = s.mem := rfl
@[simp] theorem State.setWalk_stacks (n : Nat) (f : Walk → Walk) (s : State) : (s.setWalk n f).stackList = s.stackList := rfl
@[simp] theorem State.setWalk_indexes (n : Nat) (f : Walk → Walk) (s : State) : (s.setWalk n f).indexes = s.indexes := rfl
@[simp] theorem State.setWalk_walks (n : Nat) (f : Walk → Walk) (s : State) : (s.setWalk n f).walks = modifyIf s.walks (fun w => w.id == n) f := rfl
@[simp] theorem State.setWalk_nextWalk (n : Nat) (f : Walk → Walk) (s : State) : (s.setWalk n f).nextWalk = s.nextWalk := rfl
@[simp] theorem State.setWalk_queries (n : Nat) (f : Walk → Walk) (s : State) : (s.setWalk n f).queries = s.queries := rfl
@[simp] theorem State.setWalk_nextQuery (n : Nat) (f : Walk → Walk) (s : State) : (s.setWalk n f).nextQuery = s.nextQuery := rfl
@[simp] theorem State.setWalk_tables (n : Nat) (f : Walk → Walk) (s : State) : (s.setWalk n f).tables = s.tables := rfl
@[simp] theorem State.setWalk_gathers (n : Nat) (f : Walk → Walk) (s : State) : (s.setWalk n f).gathers = s.gathers := rfl
@[simp] theorem State.setWalk_updates (n : Nat) (f : Walk → Walk) (s : State) : (s.setWalk n f).updates = s.updates := rfl
@[simp] theorem State.setWalk_kernels (n : Nat) (f : Walk → Walk) (s : State) : (s.setWalk n f).kernels = s.kernels := rfl
@[simp] theorem State.setWalk_clusters (n : Nat) (f : Walk → Walk) (s : State) : (s.setWalk n f).clusters = s.clusters := rfl
@[simp] theorem State.setWalk_units (n : Nat) (f : Walk → Walk) (s : State) : (s.setWalk n f).units = s.units := rfl
@[simp] theorem State.setWalk_fabric (n : Nat) (f : Walk → Walk) (s : State) : (s.setWalk n f).fabric = s.fabric := rfl
@[simp] theorem State.setWalk_mgmt (n : Nat) (f : Walk → Walk) (s : State) : (s.setWalk n f).mgmt = s.mgmt := rfl
@[simp] theorem State.setWalk_hostMem (n : Nat) (f : Walk → Walk) (s : State) : (s.setWalk n f).hostMem = s.hostMem := rfl
@[simp] theorem State.setWalk_posted (n : Nat) (f : Walk → Walk) (s : State) : (s.setWalk n f).posted = s.posted := rfl
@[simp] theorem State.setWalk_msixSent (n : Nat) (f : Walk → Walk) (s : State) : (s.setWalk n f).msixSent = s.msixSent := rfl

/-! setQuery -/

@[simp] theorem State.setQuery_pending (n : Nat) (f : Query → Query) (s : State) : (s.setQuery n f).pending = s.pending := rfl
@[simp] theorem State.setQuery_free (n : Nat) (f : Query → Query) (s : State) : (s.setQuery n f).free = s.free := rfl
@[simp] theorem State.setQuery_power (n : Nat) (f : Query → Query) (s : State) : (s.setQuery n f).power = s.power := rfl
@[simp] theorem State.setQuery_frame (n : Nat) (f : Query → Query) (s : State) : (s.setQuery n f).frame = s.frame := rfl
@[simp] theorem State.setQuery_ports (n : Nat) (f : Query → Query) (s : State) : (s.setQuery n f).ports = s.ports := rfl
@[simp] theorem State.setQuery_regions (n : Nat) (f : Query → Query) (s : State) : (s.setQuery n f).regions = s.regions := rfl
@[simp] theorem State.setQuery_windows (n : Nat) (f : Query → Query) (s : State) : (s.setQuery n f).windows = s.windows := rfl
@[simp] theorem State.setQuery_channels (n : Nat) (f : Query → Query) (s : State) : (s.setQuery n f).channels = s.channels := rfl
@[simp] theorem State.setQuery_settings (n : Nat) (f : Query → Query) (s : State) : (s.setQuery n f).settings = s.settings := rfl
@[simp] theorem State.setQuery_cmds (n : Nat) (f : Query → Query) (s : State) : (s.setQuery n f).cmds = s.cmds := rfl
@[simp] theorem State.setQuery_nextId (n : Nat) (f : Query → Query) (s : State) : (s.setQuery n f).nextId = s.nextId := rfl
@[simp] theorem State.setQuery_jobs (n : Nat) (f : Query → Query) (s : State) : (s.setQuery n f).jobs = s.jobs := rfl
@[simp] theorem State.setQuery_nextJob (n : Nat) (f : Query → Query) (s : State) : (s.setQuery n f).nextJob = s.nextJob := rfl
@[simp] theorem State.setQuery_objs (n : Nat) (f : Query → Query) (s : State) : (s.setQuery n f).objs = s.objs := rfl
@[simp] theorem State.setQuery_mem (n : Nat) (f : Query → Query) (s : State) : (s.setQuery n f).mem = s.mem := rfl
@[simp] theorem State.setQuery_stacks (n : Nat) (f : Query → Query) (s : State) : (s.setQuery n f).stackList = s.stackList := rfl
@[simp] theorem State.setQuery_indexes (n : Nat) (f : Query → Query) (s : State) : (s.setQuery n f).indexes = s.indexes := rfl
@[simp] theorem State.setQuery_walks (n : Nat) (f : Query → Query) (s : State) : (s.setQuery n f).walks = s.walks := rfl
@[simp] theorem State.setQuery_nextWalk (n : Nat) (f : Query → Query) (s : State) : (s.setQuery n f).nextWalk = s.nextWalk := rfl
@[simp] theorem State.setQuery_queries (n : Nat) (f : Query → Query) (s : State) : (s.setQuery n f).queries = modifyIf s.queries (fun x => x.number == n) f := rfl
@[simp] theorem State.setQuery_nextQuery (n : Nat) (f : Query → Query) (s : State) : (s.setQuery n f).nextQuery = s.nextQuery := rfl
@[simp] theorem State.setQuery_tables (n : Nat) (f : Query → Query) (s : State) : (s.setQuery n f).tables = s.tables := rfl
@[simp] theorem State.setQuery_gathers (n : Nat) (f : Query → Query) (s : State) : (s.setQuery n f).gathers = s.gathers := rfl
@[simp] theorem State.setQuery_updates (n : Nat) (f : Query → Query) (s : State) : (s.setQuery n f).updates = s.updates := rfl
@[simp] theorem State.setQuery_kernels (n : Nat) (f : Query → Query) (s : State) : (s.setQuery n f).kernels = s.kernels := rfl
@[simp] theorem State.setQuery_clusters (n : Nat) (f : Query → Query) (s : State) : (s.setQuery n f).clusters = s.clusters := rfl
@[simp] theorem State.setQuery_units (n : Nat) (f : Query → Query) (s : State) : (s.setQuery n f).units = s.units := rfl
@[simp] theorem State.setQuery_fabric (n : Nat) (f : Query → Query) (s : State) : (s.setQuery n f).fabric = s.fabric := rfl
@[simp] theorem State.setQuery_mgmt (n : Nat) (f : Query → Query) (s : State) : (s.setQuery n f).mgmt = s.mgmt := rfl
@[simp] theorem State.setQuery_hostMem (n : Nat) (f : Query → Query) (s : State) : (s.setQuery n f).hostMem = s.hostMem := rfl
@[simp] theorem State.setQuery_posted (n : Nat) (f : Query → Query) (s : State) : (s.setQuery n f).posted = s.posted := rfl
@[simp] theorem State.setQuery_msixSent (n : Nat) (f : Query → Query) (s : State) : (s.setQuery n f).msixSent = s.msixSent := rfl

/-! setLink -/

@[simp] theorem State.setLink_pending (n : Nat) (f : Link → Link) (s : State) : (s.setLink n f).pending = s.pending := rfl
@[simp] theorem State.setLink_free (n : Nat) (f : Link → Link) (s : State) : (s.setLink n f).free = s.free := rfl
@[simp] theorem State.setLink_power (n : Nat) (f : Link → Link) (s : State) : (s.setLink n f).power = s.power := rfl
@[simp] theorem State.setLink_frame (n : Nat) (f : Link → Link) (s : State) : (s.setLink n f).frame = s.frame := rfl
@[simp] theorem State.setLink_ports (n : Nat) (f : Link → Link) (s : State) : (s.setLink n f).ports = s.ports := rfl
@[simp] theorem State.setLink_regions (n : Nat) (f : Link → Link) (s : State) : (s.setLink n f).regions = s.regions := rfl
@[simp] theorem State.setLink_windows (n : Nat) (f : Link → Link) (s : State) : (s.setLink n f).windows = s.windows := rfl
@[simp] theorem State.setLink_channels (n : Nat) (f : Link → Link) (s : State) : (s.setLink n f).channels = s.channels := rfl
@[simp] theorem State.setLink_settings (n : Nat) (f : Link → Link) (s : State) : (s.setLink n f).settings = s.settings := rfl
@[simp] theorem State.setLink_cmds (n : Nat) (f : Link → Link) (s : State) : (s.setLink n f).cmds = s.cmds := rfl
@[simp] theorem State.setLink_nextId (n : Nat) (f : Link → Link) (s : State) : (s.setLink n f).nextId = s.nextId := rfl
@[simp] theorem State.setLink_jobs (n : Nat) (f : Link → Link) (s : State) : (s.setLink n f).jobs = s.jobs := rfl
@[simp] theorem State.setLink_nextJob (n : Nat) (f : Link → Link) (s : State) : (s.setLink n f).nextJob = s.nextJob := rfl
@[simp] theorem State.setLink_objs (n : Nat) (f : Link → Link) (s : State) : (s.setLink n f).objs = s.objs := rfl
@[simp] theorem State.setLink_mem (n : Nat) (f : Link → Link) (s : State) : (s.setLink n f).mem = s.mem := rfl
@[simp] theorem State.setLink_stacks (n : Nat) (f : Link → Link) (s : State) : (s.setLink n f).stackList = s.stackList := rfl
@[simp] theorem State.setLink_indexes (n : Nat) (f : Link → Link) (s : State) : (s.setLink n f).indexes = s.indexes := rfl
@[simp] theorem State.setLink_walks (n : Nat) (f : Link → Link) (s : State) : (s.setLink n f).walks = s.walks := rfl
@[simp] theorem State.setLink_nextWalk (n : Nat) (f : Link → Link) (s : State) : (s.setLink n f).nextWalk = s.nextWalk := rfl
@[simp] theorem State.setLink_queries (n : Nat) (f : Link → Link) (s : State) : (s.setLink n f).queries = s.queries := rfl
@[simp] theorem State.setLink_nextQuery (n : Nat) (f : Link → Link) (s : State) : (s.setLink n f).nextQuery = s.nextQuery := rfl
@[simp] theorem State.setLink_tables (n : Nat) (f : Link → Link) (s : State) : (s.setLink n f).tables = s.tables := rfl
@[simp] theorem State.setLink_gathers (n : Nat) (f : Link → Link) (s : State) : (s.setLink n f).gathers = s.gathers := rfl
@[simp] theorem State.setLink_updates (n : Nat) (f : Link → Link) (s : State) : (s.setLink n f).updates = s.updates := rfl
@[simp] theorem State.setLink_kernels (n : Nat) (f : Link → Link) (s : State) : (s.setLink n f).kernels = s.kernels := rfl
@[simp] theorem State.setLink_clusters (n : Nat) (f : Link → Link) (s : State) : (s.setLink n f).clusters = s.clusters := rfl
@[simp] theorem State.setLink_units (n : Nat) (f : Link → Link) (s : State) : (s.setLink n f).units = s.units := rfl
@[simp] theorem State.setLink_fabric (n : Nat) (f : Link → Link) (s : State) : (s.setLink n f).fabric = { s.fabric with links := modifyAt s.fabric.links n f } := rfl
@[simp] theorem State.setLink_mgmt (n : Nat) (f : Link → Link) (s : State) : (s.setLink n f).mgmt = s.mgmt := rfl
@[simp] theorem State.setLink_hostMem (n : Nat) (f : Link → Link) (s : State) : (s.setLink n f).hostMem = s.hostMem := rfl
@[simp] theorem State.setLink_posted (n : Nat) (f : Link → Link) (s : State) : (s.setLink n f).posted = s.posted := rfl
@[simp] theorem State.setLink_msixSent (n : Nat) (f : Link → Link) (s : State) : (s.setLink n f).msixSent = s.msixSent := rfl

/-! setStack -/

@[simp] theorem State.setStack_pending (n : Nat) (f : Stack → Stack) (s : State) : (s.setStack n f).pending = s.pending := rfl
@[simp] theorem State.setStack_free (n : Nat) (f : Stack → Stack) (s : State) : (s.setStack n f).free = s.free := rfl
@[simp] theorem State.setStack_power (n : Nat) (f : Stack → Stack) (s : State) : (s.setStack n f).power = s.power := rfl
@[simp] theorem State.setStack_frame (n : Nat) (f : Stack → Stack) (s : State) : (s.setStack n f).frame = s.frame := rfl
@[simp] theorem State.setStack_ports (n : Nat) (f : Stack → Stack) (s : State) : (s.setStack n f).ports = s.ports := rfl
@[simp] theorem State.setStack_regions (n : Nat) (f : Stack → Stack) (s : State) : (s.setStack n f).regions = s.regions := rfl
@[simp] theorem State.setStack_windows (n : Nat) (f : Stack → Stack) (s : State) : (s.setStack n f).windows = s.windows := rfl
@[simp] theorem State.setStack_channels (n : Nat) (f : Stack → Stack) (s : State) : (s.setStack n f).channels = s.channels := rfl
@[simp] theorem State.setStack_settings (n : Nat) (f : Stack → Stack) (s : State) : (s.setStack n f).settings = s.settings := rfl
@[simp] theorem State.setStack_cmds (n : Nat) (f : Stack → Stack) (s : State) : (s.setStack n f).cmds = s.cmds := rfl
@[simp] theorem State.setStack_nextId (n : Nat) (f : Stack → Stack) (s : State) : (s.setStack n f).nextId = s.nextId := rfl
@[simp] theorem State.setStack_jobs (n : Nat) (f : Stack → Stack) (s : State) : (s.setStack n f).jobs = s.jobs := rfl
@[simp] theorem State.setStack_nextJob (n : Nat) (f : Stack → Stack) (s : State) : (s.setStack n f).nextJob = s.nextJob := rfl
@[simp] theorem State.setStack_objs (n : Nat) (f : Stack → Stack) (s : State) : (s.setStack n f).objs = s.objs := rfl
@[simp] theorem State.setStack_mem (n : Nat) (f : Stack → Stack) (s : State) : (s.setStack n f).mem = s.mem := rfl
@[simp] theorem State.setStack_stacks (n : Nat) (f : Stack → Stack) (s : State) : (s.setStack n f).stackList = modifyAt s.stackList n f := rfl
@[simp] theorem State.setStack_indexes (n : Nat) (f : Stack → Stack) (s : State) : (s.setStack n f).indexes = s.indexes := rfl
@[simp] theorem State.setStack_walks (n : Nat) (f : Stack → Stack) (s : State) : (s.setStack n f).walks = s.walks := rfl
@[simp] theorem State.setStack_nextWalk (n : Nat) (f : Stack → Stack) (s : State) : (s.setStack n f).nextWalk = s.nextWalk := rfl
@[simp] theorem State.setStack_queries (n : Nat) (f : Stack → Stack) (s : State) : (s.setStack n f).queries = s.queries := rfl
@[simp] theorem State.setStack_nextQuery (n : Nat) (f : Stack → Stack) (s : State) : (s.setStack n f).nextQuery = s.nextQuery := rfl
@[simp] theorem State.setStack_tables (n : Nat) (f : Stack → Stack) (s : State) : (s.setStack n f).tables = s.tables := rfl
@[simp] theorem State.setStack_gathers (n : Nat) (f : Stack → Stack) (s : State) : (s.setStack n f).gathers = s.gathers := rfl
@[simp] theorem State.setStack_updates (n : Nat) (f : Stack → Stack) (s : State) : (s.setStack n f).updates = s.updates := rfl
@[simp] theorem State.setStack_kernels (n : Nat) (f : Stack → Stack) (s : State) : (s.setStack n f).kernels = s.kernels := rfl
@[simp] theorem State.setStack_clusters (n : Nat) (f : Stack → Stack) (s : State) : (s.setStack n f).clusters = s.clusters := rfl
@[simp] theorem State.setStack_units (n : Nat) (f : Stack → Stack) (s : State) : (s.setStack n f).units = s.units := rfl
@[simp] theorem State.setStack_fabric (n : Nat) (f : Stack → Stack) (s : State) : (s.setStack n f).fabric = s.fabric := rfl
@[simp] theorem State.setStack_mgmt (n : Nat) (f : Stack → Stack) (s : State) : (s.setStack n f).mgmt = s.mgmt := rfl
@[simp] theorem State.setStack_hostMem (n : Nat) (f : Stack → Stack) (s : State) : (s.setStack n f).hostMem = s.hostMem := rfl
@[simp] theorem State.setStack_posted (n : Nat) (f : Stack → Stack) (s : State) : (s.setStack n f).posted = s.posted := rfl
@[simp] theorem State.setStack_msixSent (n : Nat) (f : Stack → Stack) (s : State) : (s.setStack n f).msixSent = s.msixSent := rfl

/-! setCluster -/

@[simp] theorem State.setCluster_pending (n : Nat) (f : Cluster → Cluster) (s : State) : (s.setCluster n f).pending = s.pending := rfl
@[simp] theorem State.setCluster_free (n : Nat) (f : Cluster → Cluster) (s : State) : (s.setCluster n f).free = s.free := rfl
@[simp] theorem State.setCluster_power (n : Nat) (f : Cluster → Cluster) (s : State) : (s.setCluster n f).power = s.power := rfl
@[simp] theorem State.setCluster_frame (n : Nat) (f : Cluster → Cluster) (s : State) : (s.setCluster n f).frame = s.frame := rfl
@[simp] theorem State.setCluster_ports (n : Nat) (f : Cluster → Cluster) (s : State) : (s.setCluster n f).ports = s.ports := rfl
@[simp] theorem State.setCluster_regions (n : Nat) (f : Cluster → Cluster) (s : State) : (s.setCluster n f).regions = s.regions := rfl
@[simp] theorem State.setCluster_windows (n : Nat) (f : Cluster → Cluster) (s : State) : (s.setCluster n f).windows = s.windows := rfl
@[simp] theorem State.setCluster_channels (n : Nat) (f : Cluster → Cluster) (s : State) : (s.setCluster n f).channels = s.channels := rfl
@[simp] theorem State.setCluster_settings (n : Nat) (f : Cluster → Cluster) (s : State) : (s.setCluster n f).settings = s.settings := rfl
@[simp] theorem State.setCluster_cmds (n : Nat) (f : Cluster → Cluster) (s : State) : (s.setCluster n f).cmds = s.cmds := rfl
@[simp] theorem State.setCluster_nextId (n : Nat) (f : Cluster → Cluster) (s : State) : (s.setCluster n f).nextId = s.nextId := rfl
@[simp] theorem State.setCluster_jobs (n : Nat) (f : Cluster → Cluster) (s : State) : (s.setCluster n f).jobs = s.jobs := rfl
@[simp] theorem State.setCluster_nextJob (n : Nat) (f : Cluster → Cluster) (s : State) : (s.setCluster n f).nextJob = s.nextJob := rfl
@[simp] theorem State.setCluster_objs (n : Nat) (f : Cluster → Cluster) (s : State) : (s.setCluster n f).objs = s.objs := rfl
@[simp] theorem State.setCluster_mem (n : Nat) (f : Cluster → Cluster) (s : State) : (s.setCluster n f).mem = s.mem := rfl
@[simp] theorem State.setCluster_stacks (n : Nat) (f : Cluster → Cluster) (s : State) : (s.setCluster n f).stackList = s.stackList := rfl
@[simp] theorem State.setCluster_indexes (n : Nat) (f : Cluster → Cluster) (s : State) : (s.setCluster n f).indexes = s.indexes := rfl
@[simp] theorem State.setCluster_walks (n : Nat) (f : Cluster → Cluster) (s : State) : (s.setCluster n f).walks = s.walks := rfl
@[simp] theorem State.setCluster_nextWalk (n : Nat) (f : Cluster → Cluster) (s : State) : (s.setCluster n f).nextWalk = s.nextWalk := rfl
@[simp] theorem State.setCluster_queries (n : Nat) (f : Cluster → Cluster) (s : State) : (s.setCluster n f).queries = s.queries := rfl
@[simp] theorem State.setCluster_nextQuery (n : Nat) (f : Cluster → Cluster) (s : State) : (s.setCluster n f).nextQuery = s.nextQuery := rfl
@[simp] theorem State.setCluster_tables (n : Nat) (f : Cluster → Cluster) (s : State) : (s.setCluster n f).tables = s.tables := rfl
@[simp] theorem State.setCluster_gathers (n : Nat) (f : Cluster → Cluster) (s : State) : (s.setCluster n f).gathers = s.gathers := rfl
@[simp] theorem State.setCluster_updates (n : Nat) (f : Cluster → Cluster) (s : State) : (s.setCluster n f).updates = s.updates := rfl
@[simp] theorem State.setCluster_kernels (n : Nat) (f : Cluster → Cluster) (s : State) : (s.setCluster n f).kernels = s.kernels := rfl
@[simp] theorem State.setCluster_clusters (n : Nat) (f : Cluster → Cluster) (s : State) : (s.setCluster n f).clusters = modifyAt s.clusters n f := rfl
@[simp] theorem State.setCluster_units (n : Nat) (f : Cluster → Cluster) (s : State) : (s.setCluster n f).units = s.units := rfl
@[simp] theorem State.setCluster_fabric (n : Nat) (f : Cluster → Cluster) (s : State) : (s.setCluster n f).fabric = s.fabric := rfl
@[simp] theorem State.setCluster_mgmt (n : Nat) (f : Cluster → Cluster) (s : State) : (s.setCluster n f).mgmt = s.mgmt := rfl
@[simp] theorem State.setCluster_hostMem (n : Nat) (f : Cluster → Cluster) (s : State) : (s.setCluster n f).hostMem = s.hostMem := rfl
@[simp] theorem State.setCluster_posted (n : Nat) (f : Cluster → Cluster) (s : State) : (s.setCluster n f).posted = s.posted := rfl
@[simp] theorem State.setCluster_msixSent (n : Nat) (f : Cluster → Cluster) (s : State) : (s.setCluster n f).msixSent = s.msixSent := rfl

/-! The tick and the other names for a field. -/

@[simp] theorem State.setMgmt_tick (f : Mgmt → Mgmt) (s : State) : (s.setMgmt f).tick = s.tick := rfl
@[simp] theorem State.setPower_tick (f : Power → Power) (s : State) : (s.setPower f).tick = s.tick := rfl
@[simp] theorem State.setFabric_tick (f : Fabric → Fabric) (s : State) : (s.setFabric f).tick = s.tick := rfl
@[simp] theorem State.setMem_tick (f : MemSys → MemSys) (s : State) : (s.setMem f).tick = s.tick := rfl
@[simp] theorem State.setUnits_tick (f : Units → Units) (s : State) : (s.setUnits f).tick = s.tick := rfl
@[simp] theorem State.setPort_tick (p : Nat) (f : Port → Port) (s : State) : (s.setPort p f).tick = s.tick := rfl
@[simp] theorem State.setObj_tick (n : Nat) (f : Obj → Obj) (s : State) : (s.setObj n f).tick = s.tick := rfl
@[simp] theorem State.setChan_tick (n : Nat) (f : Channel → Channel) (s : State) : (s.setChan n f).tick = s.tick := rfl
@[simp] theorem State.setCmd_tick (n : Nat) (f : Cmd → Cmd) (s : State) : (s.setCmd n f).tick = s.tick := rfl
@[simp] theorem State.setJob_tick (n : Nat) (f : Job → Job) (s : State) : (s.setJob n f).tick = s.tick := rfl
@[simp] theorem State.setIndex_tick (n : Nat) (f : Index → Index) (s : State) : (s.setIndex n f).tick = s.tick := rfl
@[simp] theorem State.setShard_tick (n : Nat) (f : Shard → Shard) (s : State) : (s.setShard n f).tick = s.tick := rfl
@[simp] theorem State.setWalk_tick (n : Nat) (f : Walk → Walk) (s : State) : (s.setWalk n f).tick = s.tick := rfl
@[simp] theorem State.setQuery_tick (n : Nat) (f : Query → Query) (s : State) : (s.setQuery n f).tick = s.tick := rfl
@[simp] theorem State.setLink_tick (n : Nat) (f : Link → Link) (s : State) : (s.setLink n f).tick = s.tick := rfl
@[simp] theorem State.setStack_tick (n : Nat) (f : Stack → Stack) (s : State) : (s.setStack n f).tick = s.tick := rfl
@[simp] theorem State.setCluster_tick (n : Nat) (f : Cluster → Cluster) (s : State) : (s.setCluster n f).tick = s.tick := rfl
@[simp] theorem State.setFrame_tick (f : Frame → Frame) (s : State) : (s.setFrame f).tick = (f s.frame).tick := rfl
@[simp] theorem State.setFrame_up (f : Frame → Frame) (s : State) : (s.setFrame f).up = s.up := rfl
@[simp] theorem State.setMgmt_up (f : Mgmt → Mgmt) (s : State) : (s.setMgmt f).up = s.up := rfl
@[simp] theorem State.setFabric_up (f : Fabric → Fabric) (s : State) : (s.setFabric f).up = s.up := rfl
@[simp] theorem State.setMem_up (f : MemSys → MemSys) (s : State) : (s.setMem f).up = s.up := rfl
@[simp] theorem State.setUnits_up (f : Units → Units) (s : State) : (s.setUnits f).up = s.up := rfl
@[simp] theorem State.setPort_up (p : Nat) (f : Port → Port) (s : State) : (s.setPort p f).up = s.up := rfl
@[simp] theorem State.setObj_up (n : Nat) (f : Obj → Obj) (s : State) : (s.setObj n f).up = s.up := rfl
@[simp] theorem State.setChan_up (n : Nat) (f : Channel → Channel) (s : State) : (s.setChan n f).up = s.up := rfl
@[simp] theorem State.setCmd_up (n : Nat) (f : Cmd → Cmd) (s : State) : (s.setCmd n f).up = s.up := rfl
@[simp] theorem State.setJob_up (n : Nat) (f : Job → Job) (s : State) : (s.setJob n f).up = s.up := rfl
@[simp] theorem State.setIndex_up (n : Nat) (f : Index → Index) (s : State) : (s.setIndex n f).up = s.up := rfl
@[simp] theorem State.setShard_up (n : Nat) (f : Shard → Shard) (s : State) : (s.setShard n f).up = s.up := rfl
@[simp] theorem State.setWalk_up (n : Nat) (f : Walk → Walk) (s : State) : (s.setWalk n f).up = s.up := rfl
@[simp] theorem State.setQuery_up (n : Nat) (f : Query → Query) (s : State) : (s.setQuery n f).up = s.up := rfl
@[simp] theorem State.setLink_up (n : Nat) (f : Link → Link) (s : State) : (s.setLink n f).up = s.up := rfl
@[simp] theorem State.setStack_up (n : Nat) (f : Stack → Stack) (s : State) : (s.setStack n f).up = s.up := rfl
@[simp] theorem State.setCluster_up (n : Nat) (f : Cluster → Cluster) (s : State) : (s.setCluster n f).up = s.up := rfl

end Sys2Proof.Machine
end

