-- ==== Sys2Proof/Laws/Packets.lean ====
section
/-! SUPPORT. What a command's effect is on a running module, and what a command packet comes to when it takes hold or is admitted. -/

namespace Sys2Proof.Machine

/-- On a module that is up a command's effect is what its meaning makes of the state. -/
theorem act_up (f : State → State) (s : State) (h : s.up = true) : act (whenUp f) s = .next (leaves s (f s)) := by
  unfold act whenUp; rw [if_pos h]; rfl

/-- A module that is up serves its management port. -/
theorem mgmtUp_of_up (s : State) (h : s.up = true) : s.mgmtUp = true := by
  unfold State.up at h; unfold State.mgmtUp; simp_all

/-- While the management core serves its port a command's effect there is what its meaning makes of the state. -/
theorem act_served (f : State → State) (s : State) (h : s.mgmtUp = true) : act (whenServed f) s = .next (leaves s (f s)) := by
  unfold act whenServed; rw [if_pos h]; rfl

/-- On a module that is up a packet row is the packet's step. -/
theorem act_packet (op : Nat) (q : Pkt) (s : State) (h : s.up = true) : act (packetRow op q) s = .next (leaves s (packetStep op q s)) := by
  unfold act packetRow; rw [if_pos h]; rfl

/-- While the management core does not serve its port nothing changes there. -/
theorem act_unserved (f : State → State) (s : State) (h : s.mgmtUp = false) (p : s.posted = []) : act (whenServed f) s = .next s := by
  unfold act whenServed; simp only [h]; simp only [Bool.false_eq_true, if_false, p, postAll]; cases s; simp_all

/-- A packet reaches no module that is not up, but through a management port that is served. -/
theorem act_packet_down (op : Nat) (q : Pkt) (s : State) (h : s.up = false) (k : (q.access == 8 && s.mgmtUp) = false) (p : s.posted = []) :
    act (packetRow op q) s = .next s := by
  unfold act packetRow; simp only [h, k]; simp only [Bool.false_eq_true, if_false, p, postAll]; cases s; simp_all

/-- On a module that is not up nothing changes but the writes that were left over, of which there are none. -/
theorem act_down (f : State → State) (s : State) (h : s.up = false) (p : s.posted = []) : act (whenUp f) s = .next s := by
  unfold act whenUp; simp only [h]; simp only [Bool.false_eq_true, if_false, p, postAll]; cases s; simp_all

theorem noteSeq_cmds (q : Pkt) (s : State) : (noteSeq q s).cmds = s.cmds := by unfold noteSeq; split <;> rfl
theorem noteSeq_nextId (q : Pkt) (s : State) : (noteSeq q s).nextId = s.nextId := by unfold noteSeq; split <;> rfl
theorem reserveRecord_cmds (q : Pkt) (s : State) : (reserveRecord q s).1.cmds = s.cmds := by unfold reserveRecord; simp only; split <;> rfl
theorem reserveRecord_nextId (q : Pkt) (s : State) : (reserveRecord q s).1.nextId = s.nextId := by
  unfold reserveRecord; simp only; split <;> rfl
theorem noted_cmds (q : Pkt) (s : State) : (s.noted q).cmds = s.cmds := by simp [State.noted, reserveRecord_cmds, noteSeq_cmds]
theorem noted_nextId (q : Pkt) (s : State) : (s.noted q).nextId = s.nextId := by simp [State.noted, reserveRecord_nextId, noteSeq_nextId]

theorem foldl_max_le {α : Type} (f : α → Nat) (l : List α) : ∀ n, n ≤ l.foldl (fun m x => max m (f x)) n := by
  induction l with
  | nil => intro n; exact Nat.le_refl n
  | cons a l ih => intro n; exact Nat.le_trans (Nat.le_max_left n (f a)) (ih _)

theorem le_foldl_max {α : Type} (f : α → Nat) (l : List α) (x : α) (h : x ∈ l) : ∀ n, f x ≤ l.foldl (fun m y => max m (f y)) n := by
  induction l with
  | nil => cases h
  | cons a l ih =>
    intro n
    cases h with
    | head => exact Nat.le_trans (Nat.le_max_right n (f x)) (foldl_max_le f l _)
    | tail _ h => exact ih h _

/-- No command in use has the next command number. -/
theorem freshId_ne (s : State) (d : Cmd) (h : d ∈ s.cmds) : d.id ≠ s.freshId := by
  have := le_foldl_max (fun c : Cmd => c.id + 1) s.cmds d h s.nextId
  unfold State.freshId; omega

/-- No job in use has the next job number. -/
theorem freshJob_ne (s : State) (j : Job) (h : j ∈ s.jobs) : j.id ≠ s.freshJob := by
  have := le_foldl_max (fun j : Job => j.id + 1) s.jobs j h s.nextJob
  unfold State.freshJob; omega

/-- A packet's command can be found under its number. -/
theorem arrive_cmd (s : State) (op : Nat) (q : Pkt) (st : CmdState) :
    (s.arrive op q st).cmd (s.noted q).freshId = some (s.cmdOf op q st) := by
  simp only [State.cmd, State.arrive, List.find?_append]
  rw [List.find?_eq_none.mpr]
  · simp [State.cmdOf]
  · intro d hd; simpa using freshId_ne _ d hd

theorem modifyIf_none {α : Type} (l : List α) (p : α → Bool) (f : α → α) (h : ∀ x ∈ l, p x = false) : modifyIf l p f = l := by
  unfold modifyIf
  induction l with
  | nil => rfl
  | cons a l ih =>
    simp only [List.map_cons, h a (by simp)]
    simp only [Bool.false_eq_true, if_false]
    rw [ih fun x hx => h x (by simp [hx])]

/-- A packet that passes the decode checks becomes a command of the device, which takes hold or is considered for admission. -/
theorem packet_arrives (op : Nat) (q : Pkt) (s : State) (r : s.reached q) (h : s.decodes op q) (n0 : op ≠ 0) :
    packetStep op q s = if fastPath op then admitOne (s.arrive op q .waiting) (s.noted q).freshId
      else if needsCapacity op then admitOne (takeHold (s.arrive op q .ready) (s.noted q).freshId) (s.noted q).freshId
      else takeHold (s.arrive op q .ready) (s.noted q).freshId := by
  obtain ⟨d, b⟩ := h
  obtain ⟨-, ha, hs⟩ := r
  unfold packetStep
  rw [if_neg (by rintro (h | ⟨h, k⟩); omega; exact k (hs h)), if_neg n0]
  unfold State.noted at d b
  simp only [d, b, Option.orElse_eq_orElse, Option.orElse_none]
  cases hf : fastPath op
  · simp only [Bool.false_eq_true, if_false]
    rfl
  · simp only [if_true]
    rfl

/-- A packet that a decode check refuses is answered (R54). -/
theorem packet_refused (op : Nat) (q : Pkt) (s : State) (r : s.reached q) (f : Final) (h : decodeBad op q (s.noted q) = some f) (n0 : op ≠ 0) :
    packetStep op q s = refusePkt op q (reserveRecord q (noteSeq q s)).2 f (s.noted q) := by
  obtain ⟨-, ha, hs⟩ := r
  unfold packetStep
  rw [if_neg (by rintro (h | ⟨h, k⟩); omega; exact k (hs h)), if_neg n0]
  unfold State.noted at h
  simp only [h, Option.orElse_eq_orElse, Option.orElse_some]
  rfl

/-- A slow-path packet that is accepted acts as it takes hold. -/
theorem packet_holds (op : Nat) (q : Pkt) (s : State) (h : s.takesHold op q) (n0 : op ≠ 0) (f : fastPath op = false)
    (n : needsCapacity op = false) : act (packetRow op q) s = .next (s.after op q fun t => holdOp (s.holder op q) t) := by
  obtain ⟨r, hd, fe, hb, pb⟩ := h
  rw [act_packet _ _ _ r.1, packet_arrives op q s r hd n0]
  unfold State.after
  simp only [f, n, Bool.false_eq_true, if_false]
  unfold takeHold
  rw [arrive_cmd s op q _]
  simp only
  have e1 : (s.cmdOf op q .ready).op = op := rfl
  have e2 : (s.cmdOf op q .ready).q = q := rfl
  have e3 : (s.cmdOf op q .ready).state = .ready := rfl
  simp only [fe, e3, e1, e2, hb, pb, n]
  simp
  rfl

/-- A fast-path packet that is accepted and has room is admitted at once. -/
theorem packet_admits (op : Nat) (q : Pkt) (s : State) (l : List Stage) (a : Ask) (h : s.admits op q l a) (n0 : op ≠ 0)
    (f : fastPath op = true) : act (packetRow op q) s = .next (s.admitted op q l a) := by
  obtain ⟨r, hd, fe, hb, pb⟩ := h
  rw [act_packet _ _ _ r.1, packet_arrives op q s r hd n0]
  unfold State.admitted
  simp only [f, if_true]
  unfold admitOne
  rw [arrive_cmd s op q _]
  simp only
  have e3 : (s.cmdOf op q .waiting).state = .waiting := rfl
  simp only [fe, e3, hb, pb]
  simp

/-- A slow-path packet that needs capacity takes hold and is then admitted like a fast-path one. -/
theorem packet_holds_admits (op : Nat) (q : Pkt) (s : State) (l : List Stage) (a : Ask) (h : s.takesHold op q) (k : s.admits op q l a)
    (n0 : op ≠ 0) (f : fastPath op = false) (n : needsCapacity op = true) :
    act (packetRow op q) s = .next (s.admitted op q l a) := by
  obtain ⟨r, hd, fe, hb, pb⟩ := h
  obtain ⟨-, -, fe2, hb2, pb2⟩ := k
  rw [act_packet _ _ _ r.1, packet_arrives op q s r hd n0]
  unfold State.admitted
  simp only [f, n, Bool.false_eq_true, if_false, if_true]
  have e : takeHold (s.arrive op q .ready) (s.noted q).freshId = s.arrive op q .waiting := by
    unfold takeHold
    rw [arrive_cmd s op q _]
    have e1 : (s.cmdOf op q .ready).op = op := rfl
    have e2 : (s.cmdOf op q .ready).q = q := rfl
    have e3 : (s.cmdOf op q .ready).state = .ready := rfl
    simp only [fe, e3, e1, e2, hb, pb, n]
    simp only [bne_self_eq_false, Bool.or_self, Bool.false_eq_true, if_false, if_true]
    have : modifyIf (s.noted q).cmds (fun c => c.id == (s.noted q).freshId) (fun d => { d with state := .waiting }) = (s.noted q).cmds := by
      apply modifyIf_none
      intro d hd
      simpa using freshId_ne _ d hd
    unfold State.setCmd State.arrive
    simp only [modifyIf] at this
    simp only [modifyIf, List.map_append, this]
    simp [State.cmdOf]
  rw [e]
  unfold admitOne
  rw [arrive_cmd s op q _]
  simp only
  have e3 : (s.cmdOf op q .waiting).state = .waiting := rfl
  simp only [fe2, e3, hb2, pb2]
  simp

end Sys2Proof.Machine
end

