-- ==== Sys2Proof/Laws/Ops.lean ====
section
/-! SUPPORT. The shared operations: replies, records, events, alarms and audit entries leave all that commands work on as it stood. -/

namespace Sys2Proof.Machine

/-! ## Lists of numbered things -/

@[simp] theorem modifyAt_length {α : Type} (l : List α) (i : Nat) (f : α → α) : (modifyAt l i f).length = l.length := by
  induction l generalizing i with
  | nil => rfl
  | cons a l ih => cases i with
    | zero => rfl
    | succ i => simp [modifyAt, ih]

theorem modifyAt_getD {α : Type} (l : List α) (i j : Nat) (f : α → α) (d : α) :
    (modifyAt l i f).getD j d = if i = j ∧ i < l.length then f (l.getD j d) else l.getD j d := by
  induction l generalizing i j with
  | nil => simp [modifyAt]
  | cons a l ih => cases i with
    | zero => cases j with
      | zero => simp [modifyAt]
      | succ j => simp [modifyAt]
    | succ i => cases j with
      | zero => simp [modifyAt]
      | succ j => simpa [modifyAt] using ih i j

/-- A port after a change of one port. -/
theorem setPort_port (p r : Nat) (f : Port → Port) (s : State) : (s.setPort p f).port r = if p = r ∧ p < s.ports.length then f (s.port r) else s.port r :=
  modifyAt_getD s.ports p r f {}

@[simp] theorem setPort_ports_length (p : Nat) (f : Port → Port) (s : State) : (s.setPort p f).ports.length = s.ports.length := by simp [State.setPort]

theorem assocGet_put {α : Type} (k j : Nat) (v : α) (l : List (Nat × α)) : assocGet j (assocPut k v l) = if j = k then some v else assocGet j l := by
  unfold assocGet
  induction l with
  | nil =>
    simp only [assocPut, List.lookup]
    by_cases h : j = k
    · simp [h]
    · have : (j == k) = false := by simpa using h
      simp [h, this]
  | cons a l ih =>
    obtain ⟨x, y⟩ := a
    simp only [assocPut]
    by_cases h : x = k
    · subst h
      simp only [beq_self_eq_true, if_true, List.lookup_cons]
      by_cases g : j = x
      · simp [g]
      · have : (j == x) = false := by simpa using g
        simp [g, this]
    · have hb : (x == k) = false := by simpa using h
      simp only [hb, Bool.false_eq_true, if_false, List.lookup_cons]
      by_cases g : j = x
      · subst g; simp [h]
      · have : (j == x) = false := by simpa using g
        simp [this, ih]

/-! ## What replies, events and audit entries leave alone -/

theorem sameWork_refl (s : State) : s.sameWork s := by simp [State.sameWork]

theorem sameWork_trans {s t u : State} (h : s.sameWork t) (k : t.sameWork u) : s.sameWork u := by
  unfold State.sameWork at *
  obtain ⟨h1, h2, h3, h4, h5, h6, h7, h8, h9, h10, h11, h12, h13, h14, h15, h16, h17, h18⟩ := h
  obtain ⟨k1, k2, k3, k4, k5, k6, k7, k8, k9, k10, k11, k12, k13, k14, k15, k16, k17, k18⟩ := k
  exact ⟨k1.trans h1, k2.trans h2, k3.trans h3, k4.trans h4, k5.trans h5, k6.trans h6, k7.trans h7, k8.trans h8, k9.trans h9, k10.trans h10,
    k11.trans h11, k12.trans h12, k13.trans h13, k14.trans h14, k15.trans h15, k16.trans h16, k17.trans h17, k18.trans h18⟩

theorem setPort_sameWork (p : Nat) (f : Port → Port) (s : State) : s.sameWork (s.setPort p f) := by simp [State.sameWork, State.setPort]
theorem setMgmt_sameWork (f : Mgmt → Mgmt) (s : State) : s.sameWork (s.setMgmt f) := by simp [State.sameWork, State.setMgmt]
theorem setFrame_sameWork (f : Frame → Frame) (s : State) : s.sameWork (s.setFrame f) := by simp [State.sameWork, State.setFrame]
theorem setCmd_sameWork (id : Nat) (f : Cmd → Cmd) (s : State) : s.sameWork (s.setCmd id f) := by simp [State.sameWork, State.setCmd]
theorem draw_sameWork (s : State) : s.sameWork (draw s).2 := by simp [State.sameWork, draw]
theorem free_sameWork (n : Nat) (s : State) : s.sameWork { s with free := n } := by simp [State.sameWork]

theorem hostPost_sameWork (p : Nat) (w : HostPost) (s : State) : s.sameWork (hostPost p w s) := by
  unfold hostPost
  split
  · exact sameWork_refl s
  · split
    · simp [State.sameWork]
    · exact setPort_sameWork _ _ s

theorem foldl_sameWork {α : Type} (f : State → α → State) (h : ∀ (s : State) a, s.sameWork (f s a)) (l : List α) : ∀ s : State, s.sameWork (l.foldl f s) := by
  induction l with
  | nil => exact sameWork_refl
  | cons a l ih => intro s; exact sameWork_trans (h s a) (ih _)

theorem hostPosts_sameWork (p : Nat) (ws : List HostPost) (s : State) : s.sameWork (hostPosts p ws s) :=
  foldl_sameWork _ (fun s w => hostPost_sameWork p w s) ws s

theorem putGeneral_sameWork (code flags port count first last subject : Nat) (d : Bytes) (s : State) :
    s.sameWork (putGeneral code flags port count first last subject d s) := setMgmt_sameWork _ s
theorem putAlarm_sameWork (code flags port count first last subject : Nat) (d : Bytes) (s : State) :
    s.sameWork (putAlarm code flags port count first last subject d s) := setMgmt_sameWork _ s

theorem putGap_sameWork (cls : Nat) (s : State) : s.sameWork (putGap cls s) := by
  unfold putGap
  split
  · exact sameWork_refl s
  · exact sameWork_trans (putGeneral_sameWork _ _ _ _ _ _ _ _ s) (setMgmt_sameWork _ _)

theorem putRecord_sameWork (cls code flags port count first last subject : Nat) (d : Bytes) (s : State) :
    s.sameWork (putRecord cls code flags port count first last subject d s) := by
  unfold putRecord
  split
  · exact putAlarm_sameWork _ _ _ _ _ _ _ _ s
  · exact sameWork_trans (sameWork_trans (putGap_sameWork cls s) (putGeneral_sameWork _ _ _ _ _ _ _ _ _)) (setMgmt_sameWork _ _)

/-- An event touches the journal alone (R385–R387). -/
theorem logEvent_sameWork (cls code port subject : Nat) (d : Bytes) (s : State) : s.sameWork (logEvent cls code port subject d s) := by
  unfold logEvent
  simp only
  split
  · exact setMgmt_sameWork _ s
  · split
    · exact setMgmt_sameWork _ s
    · exact sameWork_trans (putRecord_sameWork _ _ _ _ _ _ _ _ _ s) (setMgmt_sameWork _ _)

theorem event_sameWork (cls : Nat) (name : String) (port subject : Nat) (s : State) : s.sameWork (event cls name port subject s) :=
  logEvent_sameWork _ _ _ _ _ s

/-- An alarm touches the journal, its table and port 0's vectors (R388). -/
theorem raiseAlarm_sameWork (code subject : Nat) (s : State) : s.sameWork (raiseAlarm code subject s) := by
  unfold raiseAlarm
  split
  · exact sameWork_refl s
  · exact sameWork_trans (sameWork_trans (logEvent_sameWork _ _ _ _ _ s) (setMgmt_sameWork _ _)) (setPort_sameWork _ _ _)

theorem clearAlarm_sameWork (code subject : Nat) (s : State) : s.sameWork (clearAlarm code subject s) := by
  unfold clearAlarm
  split
  · exact sameWork_trans (putAlarm_sameWork _ _ _ _ _ _ _ _ s) (setMgmt_sameWork _ _)
  · exact sameWork_refl s

theorem setEvents_sameWork (p mask : Nat) (s : State) : s.sameWork (setEvents p mask s) := setPort_sameWork _ _ s

/-- An audit entry touches the journals alone (R382, R383). -/
theorem auditWrite_sameWork (kind outcome access role tag seq : Nat) (fields : Bytes) (s : State) :
    s.sameWork (auditWrite kind outcome access role tag seq fields s) := by
  unfold auditWrite
  simp only
  repeat' split
  all_goals first
    | exact sameWork_trans (setMgmt_sameWork _ s) (raiseAlarm_sameWork _ _ _)
    | exact setMgmt_sameWork _ s

/-- An audit entry leaves every port's role and the number of ports as they stand. -/
theorem auditWrite_role (kind outcome access role tag seq : Nat) (fields : Bytes) (s : State) :
    (auditWrite kind outcome access role tag seq fields s).ports.length = s.ports.length
      ∧ ∀ p, ((auditWrite kind outcome access role tag seq fields s).port p).role = (s.port p).role := by
  have a : ∀ (code subject : Nat) (t : State), (raiseAlarm code subject t).ports.length = t.ports.length
      ∧ ∀ p, ((raiseAlarm code subject t).port p).role = (t.port p).role := by
    intro code subject t
    have l : (logEvent 0 code 0xFF subject [] t).ports = t.ports := by
      unfold logEvent
      simp only
      split
      · rfl
      · split
        · rfl
        · rfl
    unfold raiseAlarm
    split
    · exact ⟨rfl, fun _ => rfl⟩
    · refine ⟨by simp [State.setMgmt, l], fun p => ?_⟩
      simp only [setPort_port]
      have : ∀ f, ((logEvent 0 code 0xFF subject [] t).setMgmt f).port p = t.port p := by
        intro f; unfold State.port State.setMgmt; rw [l]
      split
      · simp only [this]
      · rw [this]
  unfold auditWrite
  simp only
  repeat' split
  all_goals first
    | exact a _ _ _
    | exact ⟨rfl, fun _ => rfl⟩

theorem auditFor_sameWork (kind outcome : Nat) (q : Pkt) (fields : Bytes) (s : State) : s.sameWork (auditFor kind outcome q fields s) :=
  auditWrite_sameWork _ _ _ _ _ _ _ s

theorem writeRecord_sameWork (p t : Nat) (r : Reply) (s : State) : s.sameWork (writeRecord p t r s) := by
  unfold writeRecord
  split
  · exact sameWork_refl s
  · exact sameWork_trans (sameWork_trans (sameWork_trans (hostPosts_sameWork _ _ s) (hostPost_sameWork _ _ _)) (hostPost_sameWork _ _ _))
      (setPort_sameWork _ _ _)

theorem parkReply_sameWork (p : Nat) (r : Reply) (s : State) : s.sameWork (parkReply p r s) := setPort_sameWork _ _ s

theorem deliver_sameWork (p t epoch : Nat) (reserved : Bool) (r : Reply) (s : State) : s.sameWork (deliver p t epoch reserved r s) := by
  unfold deliver
  simp only
  split
  · exact parkReply_sameWork _ _ s
  · split
    · exact sameWork_refl s
    · split
      · exact sameWork_trans (setPort_sameWork _ _ s) (writeRecord_sameWork _ _ _ _)
      · split
        · exact writeRecord_sameWork _ _ _ s
        · exact setPort_sameWork _ _ s

theorem dropBoot_sameWork (p number : Nat) (s : State) : s.sameWork (dropBoot p number s) := by
  unfold dropBoot
  split
  · simp [State.sameWork]
  · exact sameWork_refl s

theorem settleStreams_sameWork (p : Nat) (s : State) : s.sameWork (settleStreams p s) := by
  unfold settleStreams
  simp only
  generalize (List.filter _ (List.range 4)) = c
  generalize (List.filter _ (List.range 2)) = r
  split
  · split
    · exact sameWork_trans (sameWork_trans (setPort_sameWork _ _ s) (dropBoot_sameWork _ _ _)) (dropBoot_sameWork _ _ _)
    · exact sameWork_trans (setPort_sameWork _ _ s) (dropBoot_sameWork _ _ _)
  · split
    · exact sameWork_trans (setPort_sameWork _ _ s) (dropBoot_sameWork _ _ _)
    · exact setPort_sameWork _ _ s

theorem mgmtReply_sameWork (q : Pkt) (r : Reply) (s : State) : s.sameWork (mgmtReply q r s) := setMgmt_sameWork _ s

theorem countReply_sameWork (q : Pkt) (f : Final) (s : State) : s.sameWork (countReply q f s) := by
  unfold countReply
  split
  · exact setPort_sameWork _ _ s
  · exact sameWork_refl s

theorem suppressReply_sameWork (q : Pkt) (epoch rstream : Nat) (reserved : Bool) (f : Final) (s : State) :
    s.sameWork (suppressReply q epoch rstream reserved f s) := by
  unfold suppressReply
  simp only
  split
  · exact sameWork_trans (hostPosts_sameWork _ _ s) (setPort_sameWork _ _ _)
  · exact hostPosts_sameWork _ _ s

/-- A final reply touches its port, the management port's responses, host memory, bootstrap regions and the draws alone (R58–R60). -/
theorem reply_sameWork (q : Pkt) (epoch rstream : Nat) (reserved : Bool) (f : Final) (s : State) : s.sameWork (reply q epoch rstream reserved f s) := by
  unfold reply
  simp only
  refine sameWork_trans (sameWork_trans (draw_sameWork s) (countReply_sameWork q f _)) ?_
  show State.sameWork (countReply q f (microsNow s).2) _
  split
  · split
    · exact sameWork_refl _
    · exact mgmtReply_sameWork _ _ _
  · split
    · exact sameWork_trans (suppressReply_sameWork _ _ _ _ _ _) (settleStreams_sameWork _ _)
    · exact sameWork_trans (deliver_sameWork _ _ _ _ _ _) (settleStreams_sameWork _ _)

theorem countDeparture_sameWork (p : Nat) (s : State) : s.sameWork (countDeparture p s) := setPort_sameWork _ _ s

theorem track_sameWork (op : Nat) (q : Pkt) (e : Nat) (s : State) : s.sameWork (track op q e s) := setFrame_sameWork _ s

/-- The reply of a command whose sink writes were parked touches no more than a reply does (R351). -/
theorem replyFor_sameWork (c : Cmd) (f : Final) (s : State) : s.sameWork (replyFor c f s) := by
  unfold replyFor
  split
  · exact reply_sameWork _ _ _ _ _ _
  · simp only
    split
    · exact sameWork_trans (setPort_sameWork _ _ s) (sameWork_trans (countReply_sameWork _ _ _) (setPort_sameWork _ _ _))
    · exact sameWork_trans (setPort_sameWork _ _ s) (reply_sameWork _ _ _ _ _ _)

/-- An issued reply touches what `reply` touches, the tracked packets and the port's charge for channels (R45, R64). -/
theorem issueReply_sameWork (c : Cmd) (f : Final) (s : State) : s.sameWork (issueReply c f s) := by
  unfold issueReply
  simp only
  have a := track_sameWork c.op c.q c.epoch s
  split
  · exact sameWork_trans a (sameWork_trans (replyFor_sameWork _ _ _) (setPort_sameWork _ _ _))
  · exact sameWork_trans a (replyFor_sameWork _ _ _)

/-- An answer is a reply issued, or one that waits for the tail (R64). -/
theorem answer_sameWork (c : Cmd) (f : Final) (s : State) : s.sameWork (answer c f s) := by
  unfold answer
  split
  · exact setFrame_sameWork _ s
  · exact issueReply_sameWork c f s

/-- A command that is decided leaves the list and is answered (R60). -/
theorem finish_sameWork (c : Cmd) (f : Final) (s : State) : s.sameWork (finish c f s) := by
  unfold finish
  simp only
  have a : s.sameWork { s with cmds := s.cmds.filter fun d => d.id != c.id } := by simp [State.sameWork]
  refine sameWork_trans a (sameWork_trans ?_ (answer_sameWork _ _ _))
  split
  · exact countDeparture_sameWork _ _
  · exact sameWork_refl _

theorem departed_sameWork (c : Cmd) (t : State) : t.sameWork (departed c t) := by
  unfold departed
  split
  · exact sameWork_refl t
  · exact countDeparture_sameWork _ t

theorem noteSeq_sameWork (q : Pkt) (s : State) : s.sameWork (noteSeq q s) := by
  unfold noteSeq
  simp only
  split
  · exact setMgmt_sameWork _ s
  · exact setPort_sameWork _ _ s

theorem reserveRecord_sameWork (q : Pkt) (s : State) : s.sameWork (reserveRecord q s).1 := by
  unfold reserveRecord
  simp only
  split
  · exact sameWork_refl s
  · exact setPort_sameWork _ _ s

theorem noted_sameWork (q : Pkt) (s : State) : s.sameWork (s.noted q) := sameWork_trans (noteSeq_sameWork q s) (reserveRecord_sameWork q _)

theorem takeNext_sameWork (s : State) : s.sameWork s.takeNext := by
  unfold State.takeNext
  simp only
  repeat' split
  all_goals first | exact sameWork_refl s | exact setFrame_sameWork _ s

theorem newCmd_sameWork (op : Nat) (q : Pkt) (r : Bool) (st : CmdState) (s : State) : s.sameWork (newCmd op q r st s) := by
  unfold newCmd
  simp only
  have a : s.sameWork { s with cmds := s.cmds ++ [{ id := s.freshId, op := op, q := q, epoch := (s.port q.access).epoch, rstream := s.replyOf q
                                                    reserved := r, state := st, decoded := s.tick }], nextId := s.freshId + 1 } := by simp [State.sameWork]
  split
  · exact sameWork_trans a (takeNext_sameWork _)
  · exact a

theorem auditSet_sameWork (q : Pkt) (old : Nat) (r : Bool) (s : State) : s.sameWork (auditSet q old r s) := auditFor_sameWork _ _ _ _ s
theorem auditFw_sameWork (q : Pkt) (slot o : Nat) (s : State) : s.sameWork (auditFw q slot o s) := auditFor_sameWork _ _ _ _ s

theorem auditRefusal_sameWork (op : Nat) (q : Pkt) (f : Final) (s : State) : s.sameWork (auditRefusal op q f s) := by
  unfold auditRefusal
  split
  · exact sameWork_refl s
  · split
    · exact auditSet_sameWork _ _ _ s
    · split
      · exact auditFor_sameWork _ _ _ _ s
      · exact sameWork_refl s
    · split
      · exact sameWork_refl s
      · exact auditFw_sameWork _ _ _ s
    · split
      · exact sameWork_refl s
      · exact auditFw_sameWork _ _ _ s
    · split
      · exact auditFor_sameWork _ _ _ _ s
      · exact sameWork_refl s

/-- A refused packet's reply and audit entry (R47, R54). -/
theorem refusePkt_sameWork (op : Nat) (q : Pkt) (r : Bool) (f : Final) (s : State) : s.sameWork (refusePkt op q r f s) := by
  unfold refusePkt
  simp only
  split
  · exact sameWork_trans (t := { (s.setMgmt fun m => { m with cbBusy := satAdd m.cbBusy 1 }) with free := s.free + 1 }) (by simp [State.sameWork, State.setMgmt])
      (sameWork_trans (auditRefusal_sameWork _ _ _ _) (sameWork_trans (track_sameWork _ _ _ _) (reply_sameWork _ _ _ _ _ _)))
  · exact sameWork_trans (auditRefusal_sameWork _ _ _ s) (sameWork_trans (track_sameWork _ _ _ _) (reply_sameWork _ _ _ _ _ _))

/-- What a command leaves stands as its effect left it, but for the queue and host memory. -/
theorem leaves_sameWork (s t : State) : t.sameWork (leaves s t) := by simp [State.sameWork, leaves]

/-- A command that acts when it takes hold, and whose act only answers, leaves the work as it stood. -/
theorem takeHold_sameWork (s : State) (id : Nat) (op : Nat) (n : op ≠ 0x3002) (h : ∀ (c : Cmd) (s : State), c.op = op → s.sameWork (holdOp c s)) (hc : ∀ c, s.cmd id = some c → c.op = op) :
    s.sameWork (takeHold s id) := by
  unfold takeHold
  split
  · exact sameWork_refl s
  · rename_i c e
    split
    · exact sameWork_refl s
    · split
      · have u : unreserve c s = s := by simp [unreserve, hc c e, n]
        rw [u]
        exact sameWork_trans (auditRefusal_sameWork _ _ _ s) (finish_sameWork _ _ _)
      · split
        · exact setCmd_sameWork _ _ s
        · have k : ∀ d : Cmd, d.op = op → s.sameWork (departed d (holdOp d (s.setCmd id fun _ => d))) := fun d k =>
            sameWork_trans (setCmd_sameWork id (fun _ => d) s) (sameWork_trans (h d _ k) (departed_sameWork d _))
          exact k _ (hc c e)

/-- A packet of a slow-path opcode whose act only answers leaves the work as it stood, in every state. -/
theorem packetStep_sameWork (op : Nat) (q : Pkt) (s : State) (f : fastPath op = false) (n : needsCapacity op = false) (ni : op ≠ 0x3002)
    (h : ∀ (c : Cmd) (s : State), c.op = op → s.sameWork (holdOp c s)) : s.sameWork (packetStep op q s) := by
  unfold packetStep
  split
  · exact sameWork_refl s
  · simp only [f, n, Bool.false_eq_true, if_false]
    split
    · exact sameWork_trans (noteSeq_sameWork q s) (track_sameWork _ _ _ _)
    · have a : s.sameWork (reserveRecord q (noteSeq q s)).1 := noted_sameWork q s
      split
      · exact sameWork_trans a (refusePkt_sameWork _ _ _ _ _)
      · refine sameWork_trans a (sameWork_trans (newCmd_sameWork op q _ .ready _) (takeHold_sameWork _ _ op ni h ?_))
        intro c e
        have := arrive_cmd s op q .ready
        unfold State.noted at this
        exact (Option.some.inj (this.symm.trans e)) ▸ rfl

theorem packetEarly_sameWork (op : Nat) (q : Pkt) (s : State) (ni : op ≠ 0x3002)
    (h : ∀ (c : Cmd) (s : State), c.op = op → s.sameWork (holdOp c s)) : s.sameWork (packetEarly op q s) := by
  unfold packetEarly
  simp only
  split
  · exact sameWork_trans (noteSeq_sameWork q s) (track_sameWork _ _ _ _)
  · have a : s.sameWork (reserveRecord q (noteSeq q s)).1 := noted_sameWork q s
    split
    · exact sameWork_trans a (refusePkt_sameWork _ _ _ _ _)
    · split
      · refine sameWork_trans a (sameWork_trans (newCmd_sameWork op q _ .ready _) (takeHold_sameWork _ _ op ni h ?_))
        intro c e
        have := arrive_cmd s op q .ready
        unfold State.noted at this
        exact (Option.some.inj (this.symm.trans e)) ▸ rfl
      · exact sameWork_trans a (newCmd_sameWork op q _ .ready _)

theorem packetRow_sameWork (op : Nat) (q : Pkt) (s : State) (f : fastPath op = false) (n : needsCapacity op = false) (ni : op ≠ 0x3002)
    (h : ∀ (c : Cmd) (s : State), c.op = op → s.sameWork (holdOp c s)) : s.sameWork (packetRow op q s) := by
  unfold packetRow
  split
  · exact packetStep_sameWork op q s f n ni h
  · split
    · exact packetEarly_sameWork op q s ni h
    · exact sameWork_refl s

end Sys2Proof.Machine
end

