-- ==== Sys2Proof/Laws/Objects.lean ====
section
/-! SUPPORT. Laws of reading and writing an object's bytes, which lie in it as differences from what a fresh page of it holds. -/

namespace Sys2Proof.Machine
@[simp] theorem Obj.against_length (o : Obj) (off : Nat) (bs : Bytes) : (o.against off bs).length = bs.length := by
  unfold Obj.against; split <;> simp

/-- Byte `k` of a string against an object depends on byte `k` and its place alone. -/
theorem Obj.against_get (o : Obj) (off : Nat) (bs : Bytes) (k : Nat) (h : k < (o.against off bs).length) :
    (o.against off bs)[k] = (o.against (off + k) [bs[k]'(by simpa using h)])[0]'(by simp) := by
  unfold Obj.against
  split <;> simp

/-- Writing against an object and reading against it gives the bytes back. -/
theorem Obj.against_against (o : Obj) (off : Nat) (bs : Bytes) : o.against off (o.against off bs) = bs := by
  unfold Obj.against
  split
  · rfl
  · apply List.ext_getElem
    · simp
    · intro k h1 h2
      simp [BitVec.xor_assoc]

/-- A slice of a read is a read of the slice. -/
theorem Obj.against_read (o : Obj) (m : Memory) (off n d : Nat) (h : d < n) :
    o.against (off + d) (m.read (off + d) 1) = ((o.against off (m.read off n)).drop d).take 1 := by
  apply List.ext_getElem
  · simp [Memory.read_length]; omega
  · intro k h1 h2
    have k0 : k = 0 := by simp [Memory.read_length] at h1; omega
    subst k0
    simp only [List.getElem_take, List.getElem_drop]
    rw [Obj.against_get o off (m.read off n) (d + 0) (by simpa [Memory.read_length] using h)]
    simp only [Memory.read_get, Nat.add_zero]
    rfl

/-- What a write does to the objects (R285, R305): the named object's bytes and poison change, and its touched pages; `w` says whether the write waits. -/
theorem State.writeObj_objs (s : State) (n off : Nat) (bs : Bytes) (ne : bs.isEmpty = false) : ∃ (w : Bool) (tk : Nat),
    (s.writeObj n off bs).objs = modifyIf s.objs (fun o => o.num == n) fun o => touchPages tk off bs.length w { o with
      data := o.data.write off (o.against off bs)
      poison := o.poison.filter fun g => !(decide (off ≤ 256 * g) && decide (256 * g + 256 ≤ off + bs.length)) } := by
  unfold State.writeObj
  rw [if_neg (by simp [ne])]
  simp only
  split
  · rename_i z
    refine ⟨true, s.tick, ?_⟩
    have l := (raiseAlarm_sameWork 0x005 0 (s.setMem fun m => { m with expansionWait := satAdd m.expansionWait 1 }))
    have o1 := l.2.2.2.2.2.1
    have tk : ∀ q, (raiseAlarm 0x005 0 (s.setMem q)).tick = s.tick := by
      intro q
      unfold raiseAlarm
      split
      · rfl
      · show (logEvent _ _ _ _ _ _).frame.tick = _
        unfold logEvent
        simp only
        split
        · rfl
        · split
          · rfl
          · unfold putRecord; rfl
    show modifyIf (raiseAlarm 0x005 0 _).objs _ _ = _
    rw [o1, tk, z]; rfl
  · rename_i z
    refine ⟨false, s.tick, ?_⟩
    have f : ∀ (l : List (Nat × Nat)) (t : State), (l.foldl (fun s n => freeSpace (.sectors n.1 n.2) s) t).objs = t.objs ∧ (l.foldl (fun s n => freeSpace (.sectors n.1 n.2) s) t).tick = t.tick := by
      intro l
      induction l with
      | nil => intro t; exact ⟨rfl, rfl⟩
      | cons a l ih => intro t; exact ih (freeSpace (.sectors a.1 a.2) t)
    show modifyIf (List.foldl _ s _).objs _ _ = _
    rw [(f _ s).1, (f _ s).2]
    have z' : s.writeWaits n off bs.length = false := by simpa using z
    rw [z']

/-- The object found under a number after one object's update, which keeps numbers. -/
theorem find_modifyIf (n : Nat) (f : Obj → Obj) (h1 : ∀ o, (f o).num = o.num) (h2 : ∀ o, (f o).freed = o.freed) (l : List Obj) (m : Nat) :
    (modifyIf l (fun o => o.num == n) f).find? (fun o => o.num == m && !o.freed) = (l.find? fun o => o.num == m && !o.freed).map fun o => if o.num == n then f o else o := by
  induction l with
  | nil => rfl
  | cons a l ih =>
    simp only [modifyIf, List.map_cons, List.find?_cons] at ih ⊢
    have : ((if a.num == n then f a else a).num == m && !(if a.num == n then f a else a).freed) = (a.num == m && !a.freed) := by
      split
      · rw [h1, h2]
      · rfl
    rw [this]
    cases a.num == m && !a.freed
    · exact ih
    · rfl

end Sys2Proof.Machine
end

