-- ==== Sys2Proof/Tests/Slice0.lean ====
section
/-! SUPPORT. Small tests: the words and sizes the manual writes out, an ill-formed term for each check of well-formedness, and for each statement a concrete
state and operands that meet its premises. Expected values are the manual's, or worked by hand from its rules. -/

namespace Sys2Proof.Tests

/- The tests are checked one at a time, so that a small machine checks them. -/
set_option Elab.async false

open Sys2Proof Sys2Proof.Machine

/-! ## Helper states -/

/-- A command packet with the parameters given, no flags and the lowest level (R53), from port 0 or from the management port (R367). -/
def pk (params : Bytes) (access : Nat := 8) (handle : Nat := 0) (seq : Nat := 0) : Pkt :=
  { access := access, stream := 0, archLevel := 0x10, flags := 0, pktLen := 2 + params.length / 16, rsv := 0, tag := 7, handle := handle, deadline := 0
    seq := seq, growth := 0, params := params }

/-- A module whose port 0 and management port have agreed the level, both in the role given, with one region of 16 MiB at 0x1000000 for port 0. -/
def up (role : Nat) : State :=
  { State.reset with
    ports := modifyAt (modifyAt State.reset.ports 0 fun p => { p with negotiated := some 0x10, role := role }) 8 fun p => { p with role := role }
    regions := [{ port := 0, number := 0, base := 0x1000000, bytes := 0x1000000 }]
    mgmt := { State.reset.mgmt with endpoints := [{ eid := 0, negotiated := some 0x10 }] } }

/-- The same with one command in progress. -/
def busyWith (s : State) (c : Cmd) : State := { s with cmds := s.cmds ++ [c], nextId := c.id + 1 }

/-- A command of a packet, in a given place of its life. -/
def cmdFor (op : Nat) (q : Pkt) (st : CmdState) : Cmd :=
  { id := 0, op := op, q := q, epoch := 1, rstream := 0, reserved := false, state := st, decoded := 1 }

/-- Does a slow-path packet take hold there? -/
def takes (op : Nat) (q : Pkt) (s : State) : Bool :=
  s.up && decide (q.access ≤ 8) && (s.mgmt.moduleState != .safe || q.access == 8) && (decodeBad op q (s.noted q)).isNone
    && (busy op q (s.noted q)).isNone && !(s.arrive op q .ready).fenced (s.cmdOf op q .ready) && (handleBad op q (s.arrive op q .ready)).isNone
    && (paramsBad op q (s.arrive op q .ready)).isNone

theorem takes_takesHold (op : Nat) (q : Pkt) (s : State) (h : takes op q s = true) : s.takesHold op q := by
  simp only [takes, Bool.and_eq_true, decide_eq_true_eq, Bool.or_eq_true, Option.isNone_iff_eq_none, Bool.not_eq_true', beq_iff_eq, bne_iff_ne] at h
  obtain ⟨⟨⟨⟨⟨⟨⟨h1, h2⟩, h3⟩, h4⟩, h5⟩, h6⟩, h7⟩, h8⟩ := h
  exact ⟨⟨h1, h2, fun hs => h3.resolve_left fun n => n hs⟩, ⟨h4, h5⟩, h6, h7, h8⟩

/-- An index of 32 dimensions with its one shard on this member, its regions being objects 11 to 20. -/
def shard0 : Shard := { number := 0, adj := 11, exact := 12, outl := 0, codes := 14, keys := 15, tomb := 16, books := 17, proj := 18, entry := 19, side := 20 }
def index0 : Index :=
  { num := 10, owner := 0, dims := 32, sketch := 0, degree := 16, subspaces := 8, form := 0, metric := 0, outFmt := 0, outDims := [], slots := 1024
    mode := 0, first := 0, count := 1, partitions := 0, shard := some shard0 }

/-- A plain T1 object of port 0, or a region of an index or table. -/
def obj0 (n parent : Nat) : Obj := { num := n, owner := 0, pages := 4, base := 0x100000 * n, tier := 1, parent := parent }

/-- A table of 64 rows of 32 FP32 elements, its heap object 22 and its directory object 23. -/
def table0 : Table :=
  { num := 21, elems := 32, rows := 64, spare := 64, rowBytes := 128, slotBytes := 128, heap := 22, dir := 23, rowsHere := 64, usableFrom := some 1 }

/-- A live channel of each type, in the slot of its number. -/
def chan0 (type : Nat) : Channel :=
  { slot := type, state := .live, type := type, port := 0, primary := if type ≤ 2 then 10 else if type ≤ 4 then 21 else 0
    sinkBase := if type = 1 ∨ type = 3 ∨ type = 5 then 0x1100000 else 0, sinkBytes := if type = 1 ∨ type = 3 ∨ type = 5 then 0x10000 else 0
    settings := freshSettings type 1 1 }
def hd (type : Nat) : Nat := (chan0 type).handle

/-- A kernel image of one phase and one bundle, with an argument of at most 16, two bindings, a ring and an output descriptor (R210, R214). -/
def image (bundle : Nat) : Bytes :=
  leBytes 4 0x4B553453 ++ leBytes 2 1 ++ leBytes 2 1 ++ leBytes 1 1 ++ leBytes 1 1 ++ leBytes 1 1 ++ leBytes 1 2 ++ zeros 4
    ++ leBytes 4 256 ++ leBytes 4 64 ++ leBytes 4 112 ++ leBytes 4 96 ++ zeros 4 ++ zeros 8 ++ leBytes 4 320 ++ zeros 16
    ++ zeros 4 ++ leBytes 1 1 ++ leBytes 1 1 ++ zeros 2 ++ leBytes 4 128 ++ leBytes 4 192 ++ zeros 16
    ++ leBytes 4 0x0101 ++ leBytes 4 0x0101 ++ zeros 8 ++ leBytes 16 16
    ++ zeros 2 ++ leBytes 1 3 ++ leBytes 1 1 ++ leBytes 2 4 ++ leBytes 1 0 ++ leBytes 1 15 ++ leBytes 4 4096 ++ leBytes 4 3 ++ leBytes 6 4096 ++ zeros 42
    ++ leBytes 1 13 ++ zeros 3 ++ leBytes 1 15 ++ zeros 3 ++ leBytes 4 1 ++ leBytes 4 32 ++ zeros 48 ++ leBytes 64 bundle

/-- The same bytes as cells of an object. -/
def cells (bs : Bytes) : Memory := ((bs.zipIdx).filter fun p => p.1 != 0).map fun p => (p.2, p.1)

/-- A module with a channel of each type, that index, that table, two plain objects, 31 and 32, a load of one entry staged in
33 (R158) and a kernel image in 34. -/
def lib (role : Nat) : State :=
  { up role with
    channels := (List.range 7).map fun i => chan0 (i + 1)
    indexes := [index0], tables := [table0]
    objs := [obj0 10 10] ++ ([11, 12, 14, 15, 16, 17, 19, 20].map fun n => obj0 n 10) ++ [{ obj0 18 10 with data := cells [1] }] ++ [obj0 21 21, obj0 22 21, obj0 23 21, obj0 31 0, obj0 32 0,
      { obj0 33 0 with staged := true, data := cells (leBytes 2 1 ++ zeros 6 ++ leBytes 5 1 ++ zeros 27 ++ leBytes 8 64) },
      { obj0 34 0 with staged := true, data := cells (image (7 * 256)) }]
    mem := { (up role).mem with nextBase := 0x4000000 } }

/-- Is a fast-path packet admitted there at once? -/
def admitsB (op : Nat) (q : Pkt) (s : State) : Bool :=
  s.up && decide (q.access ≤ 8) && (s.mgmt.moduleState != .safe || q.access == 8) && (decodeBad op q (s.noted q)).isNone
    && (busy op q (s.noted q)).isNone && !(s.arrive op q .waiting).fenced (s.cmdOf op q .waiting)
    && (boundaryBad (s.cmdOf op q .waiting) (s.arrive op q .waiting)).isNone
    && (placedFrom (s.cmdOf op q .waiting) (s.arrive op q .waiting).tick (s.arrive op q .waiting)).isSome

theorem admitsB_admits (op : Nat) (q : Pkt) (s : State) (h : admitsB op q s = true) : ∃ l a, s.admits op q l a := by
  simp only [admitsB, Bool.and_eq_true, decide_eq_true_eq, Bool.or_eq_true, Option.isNone_iff_eq_none, Bool.not_eq_true', beq_iff_eq, bne_iff_ne,
    Option.isSome_iff_exists] at h
  obtain ⟨⟨⟨⟨⟨⟨⟨h1, h2⟩, h3⟩, h4⟩, h5⟩, h6⟩, h7⟩, ⟨⟨l, a⟩, h8⟩⟩ := h
  exact ⟨l, a, ⟨h1, h2, fun hs => h3.resolve_left fun n => n hs⟩, ⟨h4, h5⟩, h6, h7, h8⟩

/-- A module whose cluster 0 runs the one bundle given, as phase 0 of the kernel of a command; X3 holds 65,536. -/
def running (bundle : Nat) : State :=
  let s := lib 1
  let run := pk (leBytes 1 1 ++ leBytes 15 2 ++ leBytes 64 16 ++ leBytes 16 31 ++ leBytes 16 32) 0 (hd 5)
  busyWith { s with
    kernels := [{ id := 0, slot := 5, image := image bundle, clusters := [0] }]
    clusters := modifyAt s.clusters 0 fun c => { c with
      run := some { cmd := 0, kernel := 0, phase := 0, logical := 0, binds := [(.object 31, 0), (.object 32, 0)] }, owner := some 5
      x := c.x.set 3 65536, a := c.a.set 0 (some 0, 0) } } (cmdFor 0x5002 run .running)

/-- May the operation issue on cluster 0? -/
def issuesB (op : KOp) (s : State) : Bool := s.up && (canIssue s 0 op).isSome && (s.cluster 0).guard (opGuard op)

theorem issuesB_issues (op : KOp) (s : State) (h : issuesB op s = true) : ∃ r, s.issues 0 op r := by
  simp only [issuesB, Bool.and_eq_true, Option.isSome_iff_exists] at h
  obtain ⟨⟨h1, r, h2⟩, h3⟩ := h
  exact ⟨r, h1, h2, h3⟩

/-! ## Premises of the statements: packets -/

theorem test_step_premise : ({ State.reset with pending := [.cutOff, .listLimit] } : State).pending = .cutOff :: [.listLimit] := by decide

theorem test_idle_premise : State.reset.pending = [] := by decide

theorem test_canonical_premise : ({ State.reset with pending := [.lockoutEnd] } : State).Canonical
    ∧ ∃ t, step { State.reset with pending := [.lockoutEnd] } = .next t :=
  ⟨⟨rfl, rfl⟩, _, rfl⟩

theorem test_unpowered_premise : let s : State := { State.reset with power := { State.reset.power with on := false } }
    powerCommand .tickBoundary = false ∧ s.up = false ∧ s.posted = [] ∧ s.mgmtUp = false := by decide

/-- A start past S2: the management port is served, and the module is not up; a packet of a port goes nowhere (R367). -/
theorem test_starting_premise :
    let s := (State.reset.setPower fun w => { w with inStart := true }).setMgmt fun m => { m with steps := modifyAt m.steps 2 fun _ => { outcome := 2 } }
    s.up = false ∧ s.mgmtUp = true ∧ s.posted = [] ∧ busCommand (.pad (pk [] 0)) = false ∧ packetOf (.pad (pk [] 0)) = some (0, pk [] 0) ∧ (pk [] 0).access ≠ 8 := by
  decide +kernel

/-- A packet that a decode check refuses: a level other than the agreed one, and a packet before agreement (R62). -/
theorem test_refused_premise :
    let q := { pk (zeros 16) with archLevel := 0x11 }
    (up 0).reached q ∧ decodeBad 0x0003 q ((up 0).noted q) = some { status := status 2 4, detail := 0x210 }
    ∧ State.reset.agreed q = none ∧ (up 0).agreed q = some 0x10 ∧ ∃ t, exec (.nopEcho q) (up 0) = .next t := by
  unfold State.reached
  exact ⟨by decide +kernel, by decide +kernel, by decide +kernel, by decide +kernel, _, rfl⟩

theorem test_reading_premise : packetOf (.nopEcho (pk [])) = some (0x0003, pk [])
    ∧ [0x0000, 0x0002, 0x0003, 0x0004, 0x1003, 0x3006, 0x7001, 0x8002, 0x9001, 0x9002, 0xA003, 0xA004, 0xB003].contains 0x0003 = true
    ∧ ∃ t, exec (.nopEcho (pk [])) State.reset = .next t := ⟨rfl, by decide, _, rfl⟩

/-- The session packets: PAD on port 0; NEGOTIATE of levels 0x10 to 0x10, before agreement and after it; the four reports; REDELIVER of stream 1. -/
theorem test_session_premise :
    let n := pk (leBytes 1 0x10 ++ leBytes 1 0x10 ++ zeros 14)
    ((up 0).reached (pk [] 0) ∧ (pk [] 0).access < 8)
    ∧ (State.reset.takesHold 0x0001 { n with access := 0 } ∧ n.access < 9 ∧ (State.reset.holding 0x0001 { n with access := 0 }).agreed { n with access := 0 } = none
        ∧ fld n.params 1 1 ≤ 0x10 ∧ 0x10 ≤ fld n.params 0 1)
    ∧ ((up 0).takesHold 0x0001 { n with access := 0 } ∧ ∀ d ∈ ((up 0).holding 0x0001 { n with access := 0 }).cmds,
        d.id ≠ ((up 0).holder 0x0001 { n with access := 0 }).id → d.q.access ≠ 0)
    ∧ (up 0).takesHold 0x0002 (pk (zeros 16)) ∧ (up 0).takesHold 0x0003 (pk (zeros 16 ++ leBytes 16 5)) ∧ (up 0).takesHold 0x0004 (pk (zeros 16))
    ∧ (up 0).takesHold 0x0005 (pk (leBytes 16 1) 0) := by
  intros
  and_intros
  all_goals first | exact takes_takesHold _ _ _ (by decide +kernel) | decide +kernel | (unfold State.reached; decide +kernel)

/-- ABORT: nothing of that SEQ fetched; one fetched and forgotten; one over; a command that runs, of this port and of another; a wrong tag; another ABORT. -/
theorem test_abort_premise :
    let q := fun (seq tag access : Nat) => pk (leBytes 1 access ++ zeros 3 ++ leBytes 4 seq ++ leBytes 8 tag) 8 0 5
    let s := (up 1).setMgmt fun m => { m with endpoints := [{ eid := 0, nextSeq := 3, negotiated := some 0x10 }] }
    let run := busyWith s (cmdFor 0x0003 (pk [] 8 0 2) .queued)
    let run0 := busyWith s (cmdFor 0x0003 (pk [] 0 0 2) .queued)
    let beyond := s.setFrame fun f => { f with tracked := [⟨8, 0, 1, 1, 0x0003, 7, 0⟩] }
    (s.takesHold 0xC001 (q 3 7 8) ∧ (s.holding 0xC001 (q 3 7 8)).abortTarget (q 3 7 8) = none ∧ (s.holding 0xC001 (q 3 7 8)).abortOver (q 3 7 8) = none
      ∧ (s.holding 0xC001 (q 9 7 8)).notFetched (q 9 7 8) = true)
    ∧ (s.takesHold 0xC001 (q 2 7 8) ∧ (s.holding 0xC001 (q 2 7 8)).abortTarget (q 2 7 8) = none ∧ (s.holding 0xC001 (q 2 7 8)).abortOver (q 2 7 8) = none
      ∧ (s.holding 0xC001 (q 2 7 8)).notFetched (q 2 7 8) = false)
    ∧ (beyond.takesHold 0xC001 (q 1 7 8) ∧ (beyond.holding 0xC001 (q 1 7 8)).abortTarget (q 1 7 8) = none
      ∧ (beyond.holding 0xC001 (q 1 7 8)).abortOver (q 1 7 8) = some (0x0003, 7, false))
    ∧ (run.takesHold 0xC001 (q 2 7 8) ∧ ((run.holding 0xC001 (q 2 7 8)).abortTarget (q 2 7 8)).any (fun d => d.op != 0xC001 && d.q.tag == 7 && d.q.access == 8) = true)
    ∧ (run.takesHold 0xC001 (q 2 8 8) ∧ ((run.holding 0xC001 (q 2 8 8)).abortTarget (q 2 8 8)).any (fun d => d.op != 0xC001 && d.q.tag != 8) = true)
    ∧ (run0.takesHold 0xC001 (q 2 7 0) ∧ ((run0.holding 0xC001 (q 2 7 0)).abortTarget (q 2 7 0)).any (fun d => d.op != 0xC001 && d.q.tag == 7 && d.q.access != 8) = true)
    ∧ (s.takesHold 0xC001 (q 5 7 8) ∧ ((s.holding 0xC001 (q 5 7 8)).abortTarget (q 5 7 8)).any (fun d => d.op == 0xC001) = true)
    ∧ ((run.holder 0xC001 (q 2 7 8)).id ≠ 0 ∧ run.cmd 0 = some (cmdFor 0x0003 (pk [] 8 0 2) .queued) ∧ (cmdFor 0x0003 (pk [] 8 0 2) .queued).state ≠ .running) := by
  intros
  and_intros
  all_goals first | exact takes_takesHold _ _ _ (by decide +kernel) | decide +kernel | (unfold State.reached; decide +kernel)

/-- The channel packets: a KERNEL channel made in slot 0 with generation 1, one destroyed, one reported, one bound to reply stream 1. -/
theorem test_channel_premise :
    let q := pk (leBytes 1 5 ++ zeros 15 ++ zeros 48) 0
    let t := (lib 1).holding 0x1001 q
    let r := pk (leBytes 8 4 ++ leBytes 24 1) 0 (hd 5)
    ((lib 1).takesHold 0x1001 q ∧ checkCreate q t = none ∧ (applyOverrides q.params t 4 0
        { slot := 0, state := .live, type := fld q.params 0 1, port := q.access, reply := fld q.params 1 1, primary := fld q.params 4 4
          encoder := fld q.params 8 4, sinkBase := fld q.params 16 8, sinkBytes := fld q.params 24 4
          settings := freshSettings (fld q.params 0 1) t.fabric.members.length t.tick, bindTick := t.tick }).isLeft = true
      ∧ t.quotaAllows q.access 4 1 = true ∧ t.freeSlot = some (0, 1))
    ∧ ((lib 1).takesHold 0x1002 (pk [] 0 (hd 5)) ∧ (((lib 1).holding 0x1002 (pk [] 0 (hd 5))).handleChan (hd 5)).isSome = true)
    ∧ (lib 1).takesHold 0x1003 (pk (zeros 8 ++ leBytes 8 0x1000000) 0 (hd 7))
    ∧ ((lib 1).takesHold 0x1004 r ∧ ((((lib 1).holding 0x1004 r).handleChan r.handle).map fun ch => (rebind ch r ((lib 1).holding 0x1004 r)).isLeft) = some true) := by
  intros
  and_intros
  all_goals first | exact takes_takesHold _ _ _ (by decide +kernel) | decide +kernel

/-- INDEX_DEFINE of 64 slots of the least dimensions and degree on this member. -/
theorem test_index_define_premise :
    let q := pk (leBytes 3 32 ++ leBytes 1 16 ++ leBytes 4 8 ++ zeros 8 ++ List.replicate 16 255 ++ leBytes 5 64 ++ leBytes 1 1 ++ zeros 4
      ++ leBytes 4 1 ++ zeros 18) 0
    (lib 1).takesHold 0x3001 q ∧ defineRefused q ((lib 1).holding 0x3001 q) = none := by
  intros
  and_intros
  all_goals first | exact takes_takesHold _ _ _ (by decide +kernel) | decide +kernel

/-- DELETE, MERGE, BULK_LOAD and INDEX_STAT on the index's channel. -/
theorem test_ingest_premise :
    let d := pk (leBytes 16 1 ++ leBytes 16 5) 0 (hd 2)
    let m := pk (zeros 16) 0 (hd 2)
    let l := pk (leBytes 16 33) 0 (hd 2)
    let st := pk (zeros 8 ++ leBytes 8 0x1000000) 0 (hd 2)
    ((lib 1).takesHold 0x3003 d ∧ (((lib 1).holding 0x3003 d).ingest ((lib 1).holder 0x3003 d)) = some (chan0 2, index0) ∧ index0.loading = false)
    ∧ ((lib 1).takesHold 0x3004 m ∧ (((lib 1).holding 0x3004 m).ingest ((lib 1).holder 0x3004 m)) = some (chan0 2, index0))
    ∧ ((lib 1).takesHold 0x3005 l ∧ (((lib 1).holding 0x3005 l).ingest ((lib 1).holder 0x3005 l)) = some (chan0 2, index0)
      ∧ loadBad 33 index0 l ((lib 1).holding 0x3005 l) = none ∧ loadOver 33 index0 ((lib 1).holding 0x3005 l) = none)
    ∧ ((lib 1).takesHold 0x3006 st ∧ ((lib 1).holding 0x3006 st).handleChan st.handle = some (chan0 2)
      ∧ ((lib 1).holding 0x3006 st).index (chan0 2).primary = some index0 ∧ index0.shard = some shard0 ∧ fld st.params 0 2 = shard0.number ∧ shard0.number ≠ 0xFFFF) := by
  intros
  and_intros
  all_goals first | exact takes_takesHold _ _ _ (by decide +kernel) | decide +kernel

/-- TABLE_DEFINE, KERNEL_LOAD and KERNEL_UNLOAD. -/
theorem test_table_and_kernel_premise :
    let d := pk (leBytes 2 32 ++ leBytes 2 13 ++ leBytes 8 64 ++ leBytes 4 16 ++ leBytes 2 0 ++ leBytes 2 1 ++ zeros 44) 0
    let l := pk (leBytes 16 34) 0 (hd 5)
    let s := { lib 1 with kernels := [{ id := 0, slot := 5, image := image (7 * 256), clusters := [0] }] }
    ((lib 1).takesHold 0x4001 d ∧ tableRefused d ((lib 1).holding 0x4001 d) = none)
    ∧ ((lib 1).takesHold 0x5001 l ∧ loadRefused l ((lib 1).holding 0x5001 l) = none)
    ∧ (s.takesHold 0x5003 (pk [] 0 (hd 5)) ∧ ((s.holding 0x5003 (pk [] 0 (hd 5))).loaded (handleSlot (hd 5))).isSome = true) := by
  intros
  and_intros
  all_goals first | exact takes_takesHold _ _ _ (by decide +kernel) | decide +kernel

/-- OBJ_ALLOC of one page, OBJ_FREE of the index and of a plain object, OBJ_PLACE in place and to T0, OBJ_COPY of 64 bytes, a plan of one page. -/
theorem test_object_premise :
    let a := pk (leBytes 8 65536 ++ leBytes 8 1 ++ zeros 16) 0
    let s := { lib 1 with channels := [] }
    let f := fun n => pk (leBytes 16 n) 0
    let p := fun tier => pk (leBytes 4 31 ++ leBytes 12 tier) 0 (hd 7)
    let t := fun tier => (lib 1).holding 0x6003 (p tier)
    let c := pk (leBytes 4 31 ++ leBytes 4 32 ++ zeros 16 ++ leBytes 8 64) 0 (hd 7)
    let l := pk (leBytes 16 1 ++ leBytes 4 31 ++ leBytes 4 0 ++ leBytes 8 0 ++ leBytes 8 0 ++ leBytes 4 1 ++ leBytes 4 0) 0 (hd 6)
    let u := (lib 1).holding 0x6001 a
    ((lib 1).takesHold 0x6001 a ∧ allocHomes (fld a.params 8 1 % 4) (fld a.params 9 1 % 4) (fld a.params 12 2 % 2048) (fld a.params 14 2 % 4096) u = .inl []
      ∧ roomFor a.access 1 [{ num := u.objNumber 0, owner := a.access, pages := ceilDiv (fld a.params 0 8) 65536, base := 0, tier := fld a.params 8 1 % 4
                              fulled := bit (fld a.params 8 1) 2, hint := bits (fld a.params 8 1) 4 3, staged := bit (fld a.params 8 1) 5
                              spread := fld a.params 9 1 % 4, homes := [] }] u = none)
    ∧ (s.takesHold 0x6002 (f 10) ∧ (s.holding 0x6002 (f 10)).inUse 10 = false
      ∧ (s.holding 0x6002 (f 10)).indexes.any (fun x => x.num == 10 && x.owner == 0 && !x.freed) = true)
    ∧ ((lib 1).takesHold 0x6002 (f 31) ∧ ((lib 1).holding 0x6002 (f 31)).inUse 31 = false
      ∧ ((lib 1).holding 0x6002 (f 31)).indexes.any (fun x => x.num == 31 && x.owner == 0 && !x.freed) = false
      ∧ ((lib 1).holding 0x6002 (f 31)).tables.any (fun x => x.num == 31 && x.owner == 0 && !x.freed) = false
      ∧ ((lib 1).holding 0x6002 (f 31)).ownObj 0 31 = some (obj0 31 0) ∧ (obj0 31 0).parent = 0)
    ∧ ((lib 1).takesHold 0x6003 (p 1) ∧ (t 1).ownObj 0 31 = some (obj0 31 0) ∧ placed (obj0 31 0) 1 (t 1) = .inl (obj0 31 0)
      ∧ (obj0 31 0).samePlace (obj0 31 0) = true)
    ∧ ((lib 1).takesHold 0x6003 (p 0) ∧ (t 0).ownObj 0 31 = some (obj0 31 0) ∧ placed (obj0 31 0) 0 (t 0) = .inl { obj0 31 0 with tier := 0 }
      ∧ (obj0 31 0).samePlace { obj0 31 0 with tier := 0 } = false ∧ placeRefused 0 (obj0 31 0) { obj0 31 0 with tier := 0 } (t 0) = none)
    ∧ ((lib 1).takesHold 0x6007 c ∧ copyRefused c ((lib 1).holding 0x6007 c) = none)
    ∧ ((lib 1).takesHold 0x6004 l ∧ checkPrefetch l ((lib 1).holding 0x6004 l) = none) := by
  intros
  and_intros
  all_goals first | exact takes_takesHold _ _ _ (by decide +kernel) | decide +kernel

/-- REGION_REGISTER in its four forms and REGION_RELEASE of a window and of a region. -/
theorem test_region_premise :
    let g := fun (obj which n : Nat) (base bytes ap : Nat) => pk (leBytes 2 which ++ leBytes 2 n ++ leBytes 4 obj ++ leBytes 8 base ++ leBytes 8 bytes ++ leBytes 8 ap ++ zeros 16) 0
    let t := fun q => (lib 1).holding 0x6005 q
    let a := g 0 0 0 0x4000000 0x1000 0
    let w := g 31 1 0 0 0x10000 0
    let b := g 0 2 0 0 0x1000 0
    let k := g 0 3 0 0 0 0
    let s := { lib 1 with windows := [⟨0, 0, 31, 0, 0x10000, 0, []⟩], channels := [] }
    let r := fun which => pk (leBytes 2 which ++ zeros 14) 0
    ((lib 1).takesHold 0x6005 a ∧ (t a).regions.any (fun r => r.overlaps 0 0x4000000 0x1000) = false
      ∧ lowestFree (((t a).regions.filter fun r => r.port == 0 && decide (r.number < 4094)).map Region.number) 4094 = some 1)
    ∧ ((lib 1).takesHold 0x6005 w ∧ (t w).ownObj 0 31 = some (obj0 31 0) ∧ (obj0 31 0).tier ≠ 2 ∧ (obj0 31 0).spread = 0 ∧ 0 + 0x10000 ≤ (obj0 31 0).pages * 65536
      ∧ (t w).windows = [] ∧ lowestFree [] 64 = some 0)
    ∧ ((lib 1).takesHold 0x6005 b ∧ (((t b).regions.find? fun r => r.port == 0 && r.number == 0).map Region.bytes) = some 0x1000000)
    ∧ ((lib 1).takesHold 0x6005 k ∧ (t k).regions.any (fun r => r.port == 0 && r.number == 0) = true)
    ∧ (s.takesHold 0x6006 (r 1) ∧ (s.holding 0x6006 (r 1)).windows.any (fun r => r.port == 0 && r.number == 0) = true)
    ∧ (s.takesHold 0x6006 (r 0) ∧ ((s.holding 0x6006 (r 0)).regions.find? fun r => r.port == 0 && r.number == 0).isSome = true
      ∧ (s.holding 0x6006 (r 0)).channels = []) := by
  intros
  and_intros
  all_goals first | exact takes_takesHold _ _ _ (by decide +kernel) | decide +kernel

/-! A sum of zeros is zero in every order, so an INSERT of a zero vector is not refused for its norm (R91, R144). -/

theorem permuteBy_zeros (k : Nat) : ∀ (n i : Nat) (l : List Word), (∀ a ∈ l, a = 0) → ∀ a ∈ permuteBy k n i l, a = 0
  | 0, _, l, h => h
  | n + 1, i, l, h => by
    intro a ha
    unfold permuteBy at ha
    split at ha
    · exact h a ha
    · rename_i b hb
      rcases List.mem_cons.mp ha with rfl | ha
      · exact h _ (List.mem_of_getElem? hb)
      · exact permuteBy_zeros k n (i + 1) _ (fun c hc => h c (List.mem_of_mem_eraseIdx hc)) a ha

theorem f32Sum_zeros : ∀ l : List Word, (∀ a ∈ l, a = 0) → f32Sum l = 0 := by
  intro l h
  unfold f32Sum
  induction l with
  | nil => rfl
  | cons a l ih =>
    have ha : a = 0 := h a (by simp)
    subst ha
    exact ih fun b hb => h b (by simp [hb])

def zeroVec : List Word := List.replicate 32 0

theorem derive_zero_over (proj books : Bytes) (k : Nat) : (derive_ index0 proj books k zeroVec).beyond = false := by
  have hz : ((index0.stored zeroVec).vals.zipIdx.map fun p => match index0.outDims.findIdx? (· == p.2) with
      | some i => index0.outVal ((index0.outDims.map fun d => outlierByte index0.outFormat (zeroVec.getD d 0)).getD i (0, {})).1
      | none => p.1).map (fun a => f32Mul a a) = zeroVec := by decide +kernel
  have hs : f32SumFree k zeroVec = 0 := f32Sum_zeros _ (permuteBy_zeros k _ _ _ fun a ha => List.eq_of_mem_replicate ha)
  unfold derive_
  dsimp only
  erw [hz, hs]
  decide +kernel

/-- An INSERT of one zero vector with key 5 on the index's channel. -/
def insertQ : Pkt := pk (leBytes 16 1 ++ leBytes 32 5 ++ zeros 64) 0 (hd 2)

theorem insert_rows : ∃ proj books k, insertRows insertQ index0 ((lib 1).holding 0x3002 insertQ) = [⟨0, 5, 0, 0, derive_ index0 proj books k zeroVec, 0⟩] := by
  have hv : hostVec (fld insertQ.params 2 1) index0.dims (slice insertQ.params (16 + 0 * insertEntry (fld insertQ.params 2 1) index0.dims + 32)
      (vecBytes (fld insertQ.params 2 1) index0.dims)) = zeroVec := by decide +kernel
  have h1 : fld insertQ.params 0 2 = 1 := by decide +kernel
  have h2 : fld insertQ.params (16 + 0 * insertEntry (fld insertQ.params 2 1) index0.dims) 8 = 5 := by decide +kernel
  have h3 : fld insertQ.params (16 + 0 * insertEntry (fld insertQ.params 2 1) index0.dims + 16) 2 = 0 := by decide +kernel
  have h4 : fld insertQ.params (16 + 0 * insertEntry (fld insertQ.params 2 1) index0.dims + 8) 8 = 0 := by decide +kernel
  unfold insertRows
  simp only [h1, List.range_one, List.map_cons, List.map_nil, hv, h2, h3, h4]
  exact ⟨_, _, _, rfl⟩

theorem test_insert_premise :
    let t := (lib 1).holding 0x3002 insertQ
    let rows := insertRows insertQ index0 t
    (lib 1).takesHold 0x3002 insertQ ∧ t.ingest ((lib 1).holder 0x3002 insertQ) = some (chan0 2, index0) ∧ insertRefused insertQ index0 rows = none
    ∧ (∀ r ∈ rows, t.joined (index0.memberOf r.shard) = true) ∧ remoteAnswer (insertRemote index0 rows) (t.free + insertDraws insertQ index0) = none
    ∧ index0.shard = some shard0 ∧ (insertOwn index0 rows).length ≤ shard0.room
    ∧ shard0.issuable index0.slots t.tick (insertOwn index0 rows).length = some ([0], { shard0 with issued := 1 }) := by
  intro t rows
  obtain ⟨proj, books, k, hr⟩ := insert_rows
  have hr : rows = _ := hr
  rw [hr]
  refine ⟨takes_takesHold _ _ _ (by decide +kernel), by decide +kernel, ?_, ?_, rfl, rfl, ?_, ?_⟩
  · have : index0.loading = false := rfl
    simp only [insertRefused, this, Bool.false_eq_true, if_false, List.find?_cons, derive_zero_over, List.find?_nil, Option.map_none]
  · simp only [List.mem_singleton, forall_eq]
    decide +kernel
  · show 1 ≤ shard0.room
    decide +kernel
  · show shard0.issuable index0.slots t.tick 1 = _
    decide +kernel

/-- FABRIC_STATUS, FABRIC_JOIN of number 3 in hall 9, FABRIC_LEAVE, LINK_CONTROL of link 0. -/
theorem test_fabric_packet_premise :
    let j := pk (leBytes 8 3 ++ leBytes 8 9)
    (up 1).takesHold 0x7001 (pk (zeros 16))
    ∧ ((up 1).takesHold 0x7002 j ∧ ((up 1).holding 0x7002 j).fabric.joined = false ∧ (((up 1).holding 0x7002 j).fabric.reached 9).contains 3 = false)
    ∧ (up 1).takesHold 0x7003 (pk []) ∧ (up 1).takesHold 0x7004 (pk (zeros 16)) := by
  intros
  and_intros
  all_goals first | exact takes_takesHold _ _ _ (by decide +kernel) | decide +kernel

/-- SET of a member-wide setting at its least and greatest value and of a channel's, GET of each; what SET refuses, where its rules meet. -/
theorem test_setting_premise :
    let q := fun (sid v h : Nat) => pk (leBytes 8 sid ++ leBytes 8 v) (if h = 0 then 8 else 0) h
    let t := fun p => (lib 1).holding 0x8001 p
    (∀ v ∈ [1, 255], takes 0x8001 (q 0x0105 v 0) (lib 1) = true ∧ chanSetting 0x0105 = false ∧ (setMember 0x0105 v (t (q 0x0105 v 0))).isLeft = true)
    ∧ ((lib 1).takesHold 0x8001 (q 0x0301 3 (hd 5)) ∧ chanSetting 0x0301 = true ∧ (t (q 0x0301 3 (hd 5))).handleChan (hd 5) = some (chan0 5)
      ∧ (settingTypes 0x0301).contains 5 = true ∧ (setChan (chan0 5) 0x0301 3 8 (t (q 0x0301 3 (hd 5)))).isLeft = true)
    ∧ ((lib 1).takesHold 0x8002 (q 0x0105 0 0) ∧ (assocGet 0x0105 ((lib 1).holding 0x8002 (q 0x0105 0 0)).settings).isSome = true)
    ∧ ((lib 1).takesHold 0x8002 (q 0x0301 0x1000000 (hd 5)) ∧ (assocGet 0x0301 (chan0 5).settings).isSome = true)
    ∧ (up 0).fabric.leader = (up 0).self ∧ 4 * (up 0).guard ≤ 40 ∧ 39 < 4 * (up 0).guard ∧ 32 < 29 + (up 0).setting 0x0403
    ∧ ((up 0).setFabric fun f => { f with leader := 5 }).fabric.leader ≠ ((up 0).setFabric fun f => { f with leader := 5 }).self := by
  intros
  and_intros
  all_goals first | exact takes_takesHold _ _ _ (by decide +kernel) | decide +kernel

theorem test_telemetry_premise :
    (up 1).takesHold 0x9001 (pk (zeros 32)) ∧ (up 1).takesHold 0x9002 (pk (leBytes 16 1)) ∧ (up 1).takesHold 0x9003 (pk (zeros 16)) := by
  intros
  and_intros
  all_goals first | exact takes_takesHold _ _ _ (by decide +kernel) | decide +kernel

/-- ROLE_ASSUME asks for a challenge, and answers one 60 s old; ROLE_DROP, ATTEST, AUDIT_READ. -/
theorem test_security_premise :
    let a := pk (leBytes 1 1 ++ leBytes 1 1 ++ zeros 16622)
    let s := ((up 0).setPort 8 fun x => { x with challenge := some ⟨1, [], 0⟩ }).setFrame fun f => { f with elapsed := 60000000 }
    let t := s.holding 0xA001 a
    (up 0).takesHold 0xA001 (pk (leBytes 1 0 ++ leBytes 15 1))
    ∧ (s.takesHold 0xA001 a ∧ fld a.params 0 1 ≠ 0 ∧ (a.access = 0 → t.role 8 = 0) ∧ (t.port 8).challenge = some ⟨1, [], 0⟩
      ∧ (answerKey 1 0 t).isSome = true ∧ t.frame.elapsed - 0 ≤ 60000000)
    ∧ (up 1).takesHold 0xA002 (pk (zeros 16)) ∧ (up 1).takesHold 0xA003 (pk (zeros 48)) ∧ (up 1).takesHold 0xA004 (pk (leBytes 32 (4096 * 2 ^ 32)))
    ∧ 8 < (up 1).ports.length := by
  intros
  and_intros
  all_goals first | exact takes_takesHold _ _ _ (by decide +kernel) | decide +kernel

/-- FW_STAGE in its four steps, FW_ACTIVATE at the next start and now, FW_STATUS, and the maker packets with and without an identity. -/
theorem test_firmware_premise :
    let st := fun (step len off : Nat) => pk (leBytes 4 step ++ leBytes 4 len ++ leBytes 8 off ++ zeros 8 ++ zeros 8 ++ zeros len)
    let s := (up 1).setMgmt fun m => { m with slotB := { state := 1, ranges := [(0, 16)] } }
    let v := (up 1).setMgmt fun m => { m with slotB := { state := 2 } }
    let act := fun (slot how : Nat) => pk (leBytes 1 slot ++ leBytes 15 how)
    let t := fun q => s.holding 0xB001 q
    ((up 1).takesHold 0xB001 (st 0 0 0) ∧ ((up 1).holding 0xB001 (st 0 0 0)).mgmt.draining = none
      ∧ ((up 1).holding 0xB001 (st 0 0 0)).mgmt.ledger.activeSlot ≠ 1 - ((up 1).holding 0xB001 (st 0 0 0)).mgmt.running)
    ∧ (s.takesHold 0xB001 (st 1 16 16) ∧ ((t (st 1 16 16)).mgmt.slot 1).state = 1 ∧ 1 - (t (st 1 16 16)).mgmt.running = 1 ∧ 16 + 16 ≤ 100663296
      ∧ ((t (st 1 16 16)).mgmt.slot 1).ranges.any (fun r => decide (r.1 < 16 + 16) && decide (16 < r.1 + r.2)) = false)
    ∧ (s.takesHold 0xB001 (st 2 0 0) ∧ ((t (st 2 0 0)).mgmt.slot 1).state = 1)
    ∧ s.takesHold 0xB001 (st 3 0 0)
    ∧ (v.takesHold 0xB002 (act 1 0) ∧ ((v.holding 0xB002 (act 1 0)).mgmt.slot 1).state = 2 ∧ (v.holding 0xB002 (act 1 0)).mgmt.draining = none)
    ∧ ((up 1).takesHold 0xB002 (act 0 1) ∧ 0 = ((up 1).holding 0xB002 (act 0 1)).mgmt.running ∧ ((up 1).holding 0xB002 (act 0 1)).mgmt.draining = none)
    ∧ (up 1).takesHold 0xB003 (pk (zeros 16))
    ∧ (up 2).takesHold 0xE001 (pk []) ∧ (up 2).takesHold 0xE002 (pk []) ∧ (up 2).takesHold 0xE004 (pk []) ∧ (up 2).takesHold 0xE005 (pk [])
    ∧ (((up 2).setMgmt fun m => { m with identity := none }).takesHold 0xE003 (pk [])
      ∧ (((up 2).setMgmt fun m => { m with identity := none }).holding 0xE003 (pk [])).mgmt.identity = none) := by
  intros
  and_intros
  all_goals first | exact takes_takesHold _ _ _ (by decide +kernel) | decide +kernel

/-! ## Premises: admission -/

/-- The module with a kernel loaded in slot 5 that is also the SEARCH channel's encoder, and a table with optimiser state and free slots. -/
def libK : State :=
  { lib 1 with
    tables := [{ table0 with opt := true, slotBytes := 384, freeRuns := [(64, 64)] }]
    kernels := [{ id := 0, slot := 5, image := image (7 * 256), clusters := [0] }]
    channels := (lib 1).channels.map fun c => if c.slot = 1 then { c with encoder := hd 5 } else c }

/-- The fast-path packets, each admitted at once: SEARCH, SEARCH_BATCH of one query, SEARCH_ENCODED of 16 bytes, GATHER of one row, KERNEL_RUN with its
argument at its MAX, the three updates of one row inline, and as jobs. -/
theorem test_admitted_premise :
    let row := leBytes 8 3 ++ zeros 136
    let enc := pk (zeros 80 ++ leBytes 16 16 ++ zeros 16) 0 (hd 1)
    let opt := pk (leBytes 4 1 ++ leBytes 28 2 ++ leBytes 16 0 ++ leBytes 16 0x3F800000 ++ row) 0 (hd 4)
    let job := pk (leBytes 4 1 ++ leBytes 1 2 ++ leBytes 3 1 ++ leBytes 8 31 ++ zeros 16) 0 (hd 4)
    let optJob := pk (leBytes 4 1 ++ leBytes 1 2 ++ leBytes 3 1 ++ leBytes 8 31 ++ zeros 16 ++ leBytes 16 0 ++ leBytes 16 0x3F800000) 0 (hd 4)
    let inl := pk (leBytes 4 1 ++ leBytes 28 2 ++ row) 0 (hd 4)
    (∃ l a, libK.admits 0x2001 (pk (zeros 144) 0 (hd 1)) l a)
    ∧ (∃ l a, libK.admits 0x2002 (pk (zeros 12 ++ leBytes 4 1 ++ zeros 128) 0 (hd 1)) l a)
    ∧ (libK.takesHold 0x2003 enc ∧ ∃ l a, libK.admits 0x2003 enc l a)
    ∧ (∃ l a, libK.admits 0x4002 (pk (leBytes 4 1 ++ leBytes 4 1 ++ zeros 24 ++ leBytes 4 0xFFFFFFFF ++ zeros 28) 0 (hd 3)) l a)
    ∧ (∃ l a, libK.admits 0x5002 (pk (leBytes 1 1 ++ leBytes 15 2 ++ leBytes 64 16 ++ leBytes 16 31 ++ leBytes 16 32) 0 (hd 5)) l a)
    ∧ (fld inl.params 5 1 ≠ 1 ∧ ∃ l a, libK.admits 0x4003 inl l a) ∧ (∃ l a, libK.admits 0x4004 inl l a)
    ∧ (fld opt.params 5 1 ≠ 1 ∧ libK.takesHold 0x4005 opt ∧ ∃ l a, libK.admits 0x4005 opt l a)
    ∧ (fld job.params 5 1 = 1 ∧ ∃ l a, libK.admits 0x4003 job l a) ∧ (∃ l a, libK.admits 0x4004 job l a)
    ∧ (fld optJob.params 5 1 = 1 ∧ libK.takesHold 0x4005 optJob ∧ ∃ l a, libK.admits 0x4005 optJob l a) := by
  intros
  and_intros
  all_goals first | exact takes_takesHold _ _ _ (by decide +kernel) | exact admitsB_admits _ _ _ (by decide +kernel) | decide +kernel

/-- LIST_MERGE of one member's list of four, AT 1, no greater than its DEADLINE. -/
theorem test_list_merge_premise :
    let q := pk (leBytes 4 31 ++ leBytes 4 32 ++ zeros 8 ++ leBytes 4 1 ++ leBytes 4 64 ++ leBytes 4 1 ++ leBytes 2 4 ++ leBytes 2 1) 0
    let t := libK.arrive 0x6008 q .waiting
    let c := libK.cmdOf 0x6008 q .waiting
    libK.takesHold 0x6008 q ∧ admitsB 0x6008 q libK = true
    ∧ listMergeRefused q (chargeNow [] (chargeQuota 0 3 0 ((countDeparture 0 t).setCmd c.id fun x => { x with
        state := .running, admitTick := t.tick, deadline := (countDeparture 0 t).dOf c, strict := (countDeparture 0 t).strictOf c
        stages := [{ kind := .slow, tick := 2, charge := [] }] }))) = none := by
  intros
  and_intros
  all_goals first | exact takes_takesHold _ _ _ (by decide +kernel) | decide +kernel

/-- BUSY at its limits: 1,024 commands pending on port 0, 16 on the management port, 128 of a port and 512 in all in the Control Bar's queue; a command that
has waited 15 boundaries and one that has waited 16, for a phase that has no capacity. -/
theorem test_busy_premise :
    let c := fun (op access : Nat) (st : CmdState) (id : Nat) => ({ cmdFor op (pk [] access) st with id := id } : Cmd)
    let many := fun (n op access : Nat) (st : CmdState) => { up 0 with cmds := (List.range n).map (c op access st) }
    let run := pk (leBytes 1 1 ++ leBytes 15 2 ++ leBytes 64 16 ++ leBytes 16 31 ++ leBytes 16 32) 0 (hd 5)
    let full := fun (w : Nat) => busyWith (libK.setFrame fun f => { f with charged := [(.cycles 0, 240 * 2100)] }) { cmdFor 0x5002 run .waiting with waited := w }
    let k := fun (s : State) => { s with kernels := s.kernels.map fun k => { k with bounds := [1] } }
    1024 ≤ (many 1024 0x2001 0 .waiting).pendingCount 0 ∧ 16 ≤ (many 16 0x0003 8 .queued).pendingCount 8
    ∧ (128 ≤ ((many 128 0x0003 0 .queued).cbQueue.filter fun c => c.q.access == 0).length ∧ (many 128 0x0003 0 .queued).pendingCount 0 < 1024)
    ∧ (512 ≤ (many 512 0x0003 1 .queued).cbQueue.length ∧ (many 512 0x0003 1 .queued).pendingCount 0 < 1024) ∧ fastPath 0x0003 = false
    ∧ (∀ w ∈ [15, 16], let s := k (full w)
        let d := { cmdFor 0x5002 run .waiting with waited := w }
        s.cmd 0 = some d ∧ s.fenced d = false ∧ boundaryBad d s = none ∧ (placedFrom d s.tick s).isNone = true ∧ s.setting 0x0105 = 16) := by
  intros
  and_intros
  all_goals decide +kernel

/-! ## Premises: kernels -/

/-- CTRL operations 1 to 7, ADDR 1 to 13, MOVE 1 to 3 on either side, ARRAY 1 to 5, EPI 1 to 3, SEL 1 to 6: each the one slot of its bundle, with zero fields. -/
theorem test_issue_premise :
    (∀ k ∈ List.range 8, k = 0 ∨ issuesB (.ctrl k ⟨0, 0, 0, 0, 0⟩) (running (k * 2 ^ 8)) = true)
    ∧ (∀ k ∈ List.range 14, k = 0 ∨ issuesB (.addr k ⟨0, 0, 0, 0, false, 0, 0⟩) (running (k * 2 ^ 408)) = true)
    ∧ (∀ k ∈ List.range 4, k = 0 ∨ issuesB (.move k ⟨0, 0, 0, 0, 0, false, 0⟩) (running (k * 2 ^ 56)) = true
        ∧ issuesB (.move k ⟨1, 0, 0, 0, 0, false, 0⟩) (running (k * 2 ^ 120)) = true)
    ∧ (∀ k ∈ List.range 6, k = 0 ∨ issuesB (arrayOf (k * 16)) (running (k * 2 ^ 184)) = true)
    ∧ (∀ k ∈ List.range 4, k = 0 ∨ issuesB (epiOf (k * 16) 0) (running (k * 2 ^ 280)) = true)
    ∧ (∀ k ∈ List.range 7, k = 0 ∨ issuesB (.sel k ⟨0, 0, 0, 0, false, false, 0⟩) (running (k * 2 ^ 360)) = true) := by
  decide +kernel

theorem test_issue_exists : ∃ r, (running (3 * 2 ^ 8)).issues 0 (.ctrl 3 ⟨0, 0, 0, 0, 0⟩) r := issuesB_issues _ _ (by decide +kernel)

/-- LOOPX at its COUNT and one above it (X3 holds 65,536); an operation that is not of the bundle; one with a false guard. -/
theorem test_issue_rules_premise :
    let s := fun (c : Nat) => running (2 * 2 ^ 8 + 3 * 2 ^ 18 + c * 2 ^ 36)
    let o := fun (c : Nat) => (⟨0, 0, 3, 0, c⟩ : CtrlOp)
    let t := fun (c : Nat) => (s c).setCluster 0 fun k => { k with x := k.x.set 3 65535 }
    (issuesB (.ctrl 2 (o 65535)) (s 65535) = true ∧ 65535 < (((s 65535).cluster 0).xr 3).toNat)
    ∧ (issuesB (.ctrl 2 (o 65535)) (t 65535) = true ∧ (((t 65535).cluster 0).xr 3).toNat ≤ 65535)
    ∧ (kernelOp (.branch 0 (o 0)) = some (0, .ctrl 3 (o 0)) ∧ (canIssue (s 65535) 0 (.ctrl 3 (o 0))).isNone = true)
    ∧ (let g := running (3 * 2 ^ 8 + 1 * 2 ^ 4); (canIssue g 0 (.ctrl 3 ⟨1, 0, 0, 0, 0⟩)).isSome = true ∧ (g.cluster 0).guard (opGuard (.ctrl 3 ⟨1, 0, 0, 0, 0⟩)) = false) := by
  intros
  and_intros
  all_goals first | decide +kernel | rfl

/-- What units wait for: SWAP with an epilogue operation in its unit and without; a START on a ring that still holds a slot; a selection. -/
theorem test_unit_premise :
    let s := running 0
    let busy := s.setCluster 0 fun c => { c with busy := [{ op := epiOf 16 0 }] }
    let held := setRing 0 0 (fun g => { g with slots := [(0, [])] }) s
    (s.cluster 0).unitBusy 5 = false ∧ (busy.cluster 0).unitBusy 5 = true
    ∧ ((held.running 0).map fun r => ((r.ring 0).output, (held.ring 0 0).slots)) = some (false, [(0, [])])
    ∧ ((s.running 0).map fun r => crownRoom r 0 s) = some true ∧ (s.cluster 0).busy = [] := by
  intros
  and_intros
  all_goals decide +kernel

/-! ## Premises: the host's side -/

/-- A module whose command stream 1 and reply stream 1 of port 0, and stream 0 of each, have the area given. -/
def withArea (base size : Nat) : State :=
  (up 0).setPort 0 fun x => { x with cmds := x.cmds.map fun c => { c with base := base, size := size }
                                     replies := x.replies.map fun r => { r with base := base, size := size } }

/-- Areas of 1 and 4,096 pages outside every region on stream 0, one in a region, one outside on stream 1, and the sizes 0 and 4,097. -/
theorem test_stream_premise :
    (up 0).up = true ∧ (up 0).linked 0 = true
    ∧ (∀ n ∈ [1, 4096], let s := withArea 0x4000000 n
        ((s.port 0).cmds[0]?).any (fun c => c.state != .draining && !c.enable && c.size == n) = true ∧ s.regions.any (fun r => r.overlaps 0 0x4000000 (n * 4096)) = false
        ∧ s.sharedArea 0 0x4000000 (n * 4096) = false ∧ ((s.port 0).replies[0]?).any (fun r => !r.enable && r.size == n) = true)
    ∧ (∀ n ∈ [1, 4096], (withArea 0x1000000 n).sharedArea 0 0x1000000 (n * 4096) = true ∧ (withArea 0x1000000 n).regions.any (fun r => r.overlaps 0 0x1000000 (n * 4096)) = true)
    ∧ (∀ n ∈ [0, 4097], ((withArea 0x1000000 n).port 0).cmds[0]?.any (fun c => c.size == 0 || decide (4096 < c.size)) = true)
    ∧ (let s := setReplyStream 0 0 (fun r => { r with enable := true }) (setCmdStream 0 0 (fun c => { c with enable := true, state := .running }) (up 0))
       ((s.port 0).cmds[0]?).any (fun c => c.state != .draining && c.enable) = true ∧ ((s.port 0).replies[0]?).any (fun r => r.enable) = true) := by
  intros
  and_intros
  all_goals decide +kernel

/-- Register writes: POLL_INTERVAL at 1, 1,000, 1,001 and 0; a vector with and without a pending message; a window that permits a requester and one that does
not, and an offset outside every window. -/
theorem test_register_premise :
    (∀ v ∈ [1, 1000], 1 ≤ v % 1024 ∧ v % 1024 ≤ 1000) ∧ (∀ v ∈ [1001, 1024], 1000 < v % 1024 ∨ v % 1024 = 0)
    ∧ (let s := fun (b : Nat) => (up 0).setPort 0 fun x => { x with pba := b }
       let t := fun b => (s b).setPort 0 fun x => { x with msix := modifyAt x.msix 3 fun e => { e with masked := false } }
       bit ((t 0).port 0).pba 3 = false ∧ bit ((t 8).port 0).pba 3 = true)
    ∧ (let s := { up 0 with windows := [⟨0, 0, 31, 0, 64, 128, [(0x100, 0xFF00)]⟩] }
       (s.windows.find? (fun w => w.port == 0 && decide (w.aperture ≤ 188) && decide (188 + 4 ≤ w.aperture + w.bytes))).map (fun w => (w.permits 0x1FF, w.permits 0x2FF))
         = some (true, false)
       ∧ (s.windows.find? (fun w => w.port == 0 && decide (w.aperture ≤ 189) && decide (189 + 4 ≤ w.aperture + w.bytes))).isNone = true) := by
  intros
  and_intros
  all_goals decide +kernel

/-- Packets found and not found: running streams, a watched line; the framing errors in their order at the ends of their ranges; a stream that does not run. -/
theorem test_fetch_premise :
    let run := fun (tail seq : Nat) (hdr : Bytes) => setCmdStream 0 0 (fun c => { c with base := 0x1000000, size := 1, enable := true, state := .running, tail := tail, nextSeq := seq })
      { up 0 with hostMem := postAll (up 0).hostMem [⟨0x1000080, hdr⟩] }
    let hdr := fun (len seq : Nat) => zeros 4 ++ leBytes 16 len ++ leBytes 12 seq
    let at_ := fun (s : State) => (((s.port 0).cmds[0]?).map fun c => (c.state, c.head, c.tail, max c.head 0x80, c.nextSeq))
    let read := fun (s : State) => (fld (s.hostView.read 0x1000080 32) 4 2, fld (s.hostView.read 0x1000080 32) 20 4)
    ((run 0x80 0 []).masters 0 = true)
    ∧ (∀ t ∈ [0x88, 0x70, 0x1000], at_ (run t 0 []) = some (.running, 0, t, 0x80, 0) ∧ (t % 16 ≠ 0 ∨ t < 0x80 ∨ 4096 ≤ t))
    ∧ (∀ n ∈ [1, 4097, 249], read (run 0xFF0 0 (hdr n 0)) = (n, 0) ∧ (n < 2 ∨ 4096 < n ∨ 4096 < 0x80 + 16 * n) ∧ at_ (run 0xFF0 0 (hdr n 0)) = some (.running, 0, 0xFF0, 0x80, 0))
    ∧ (∀ n ∈ [2, 248], read (run 0xFF0 5 (hdr n 4)) = (n, 4) ∧ 0x80 + 16 * n ≤ 4096 ∧ at_ (run 0xFF0 5 (hdr n 4)) = some (.running, 0, 0xFF0, 0x80, 5))
    ∧ (let s := setReplyStream 0 0 (fun r => { r with enable := true, base := 0x1000000, size := 1 }) ((up 0).setPort 0 fun x => { x with watched := [5] })
       ((s.port 0).replies[0]?).any ReplyStream.enable = true ∧ (s.port 0).watched.contains 5 = true ∧ (s.port 0).watched.contains 1 = false)
    ∧ (((up 0).port 0).cmds[0]?).any (fun c => c.state != .running) = true
    ∧ (let s := run 0x80 0 []
       let u := event 1 "STREAM" 0 0 (setEvents 0 4 (s.setPort 0 fun x => { x with cmds := modifyAt x.cmds 0 fun c => { c with state := .faulted, cause := 2 } }))
       s.recordFree 0 0 = false ∧ 0 < s.ports.length ∧ u.recordFree 0 0 = false) := by
  intros
  and_intros
  all_goals decide +kernel

/-- What loses and regains the host. -/
theorem test_host_loss_premise :
    let s := up 0
    s.power.perstN = true ∧ s.power.linkUp = true ∧ s.linked 0 = true ∧ s.linked 7 = true ∧ s.power.vfEnable = true ∧ (s.port 7).busMaster = true ∧ (s.port 7).d0 = true
    ∧ s.power.timeouts < 2 ∧ 2 ≤ (s.setPower fun w => { w with timeouts := 2 }).power.timeouts
    ∧ (s.setPower fun w => { w with linkUp := false }).power.linkUp = false ∧ 8 < s.ports.length := by
  decide

/-- An echo prepared, a SET prepared, GET_TICK prepared, and a SET whose audit entry is the first one pending. -/
theorem test_preparation_premise :
    let c := fun (op : Nat) (st : CmdState) => cmdFor op (pk (leBytes 8 0x0105 ++ leBytes 8 3)) st
    let s := fun (op : Nat) (st : CmdState) => busyWith (up 1) (c op st)
    let a := (s 0x8001 .auditing).setMgmt fun m => { m with auditPending := [0] }
    ((s 0x0003 .queued).cmd 0 = some (c 0x0003 .queued) ∧ preparationBad (c 0x0003 .queued) (s 0x0003 .queued) = none
      ∧ audited 0x0003 (c 0x0003 .queued).q (s 0x0003 .queued) = false)
    ∧ ((s 0x8001 .queued).cmd 0 = some (c 0x8001 .queued) ∧ preparationBad (c 0x8001 .queued) (s 0x8001 .queued) = none
      ∧ audited 0x8001 (c 0x8001 .queued).q (s 0x8001 .queued) = true)
    ∧ ((s 0x0004 .queued).cmd 0 = some (c 0x0004 .queued))
    ∧ (a.cmd 0 = some (c 0x8001 .auditing) ∧ a.mgmt.auditPending = 0 :: []) := by
  intros
  and_intros
  all_goals decide +kernel

/-! A sum of zeros and one other value is that value in every order; so preparation rejects the vector (256, 0, …) whatever the order (R91, R144). -/

theorem permuteBy_perm (k : Nat) : ∀ (n i : Nat) (l : List Word), (permuteBy k n i l).Perm l
  | 0, _, l => .refl l
  | n + 1, i, l => by
    unfold permuteBy
    split
    · exact .refl l
    · rename_i b hb
      refine .trans (.cons b (permuteBy_perm k n (i + 1) _)) ?_
      obtain ⟨h, rfl⟩ := List.getElem?_eq_some_iff.mp hb
      rw [List.eraseIdx_eq_take_drop_succ]
      refine List.perm_middle.symm.trans ?_
      rw [← List.drop_eq_getElem_cons h, List.take_append_drop]

theorem foldl_zeros (a : Word) (ha : f32Add a 0 = a) : ∀ l : List Word, (∀ x ∈ l, x = 0) → l.foldl f32Add a = a
  | [], _ => rfl
  | x :: l, h => by
    have hx : x = 0 := h x (by simp)
    subst hx
    show l.foldl f32Add (f32Add a 0) = a
    rw [ha]
    exact foldl_zeros a ha l fun y hy => h y (by simp [hy])

theorem f32Sum_single (a : Word) (h1 : f32Add a 0 = a) (h2 : f32Add 0 a = a) :
    ∀ l : List Word, a ∈ l → (∀ x ∈ l.erase a, x = 0) → f32Sum l = a
  | [], h, _ => by simp at h
  | x :: l, h, hz => by
    show l.foldl f32Add (f32Add 0 x) = a
    by_cases hx : x = a
    · subst hx
      rw [h2]
      exact foldl_zeros x h1 l fun y hy => hz y (by simpa using hy)
    · have he : (x :: l).erase a = x :: l.erase a := by rw [List.erase_cons, if_neg (by simpa using hx)]
      have hx0 : x = 0 := hz x (by simp [he])
      subst hx0
      have h00 : f32Add 0 0 = 0 := by decide +kernel
      rw [h00]
      refine f32Sum_single a h1 h2 l ?_ fun y hy => hz y (by rw [he]; exact List.mem_cons_of_mem _ hy)
      rcases List.mem_cons.mp h with h | h
      · exact absurd h.symm hx
      · exact h

def tallVec : List Word := 0x43800000 :: List.replicate 31 0

theorem derive_tall_over (proj books : Bytes) (k : Nat) : (derive_ index0 proj books k tallVec).beyond = true := by
  have hz : ((index0.stored tallVec).vals.zipIdx.map fun p => match index0.outDims.findIdx? (· == p.2) with
      | some i => index0.outVal ((index0.outDims.map fun d => outlierByte index0.outFormat (tallVec.getD d 0)).getD i (0, {})).1
      | none => p.1).map (fun a => f32Mul a a) = 0x47800000 :: List.replicate 31 0 := by decide +kernel
  have hs : f32SumFree k (0x47800000 :: List.replicate 31 0) = 0x47800000 := by
    have hp := permuteBy_perm k (0x47800000 :: List.replicate 31 (0 : Word)).length 0 (0x47800000 :: List.replicate 31 0)
    refine f32Sum_single _ (by decide +kernel) (by decide +kernel) _ (hp.mem_iff.mpr (by simp)) fun x hx => ?_
    have := (hp.erase 0x47800000).mem_iff.mp hx
    rw [List.erase_cons_head] at this
    exact List.eq_of_mem_replicate this
  unfold derive_
  dsimp only
  erw [hz, hs]
  decide +kernel

def tallQ : Pkt := pk (leBytes 16 1 ++ leBytes 32 5 ++ leBytes 64 0x4380) 0 (hd 2)

theorem tall_rows (s : State) : ∃ proj books k sh, insertRows tallQ index0 s = [⟨0, 5, 0, 0, derive_ index0 proj books k tallVec, sh⟩] := by
  have hv : hostVec (fld tallQ.params 2 1) index0.dims (slice tallQ.params (16 + 0 * insertEntry (fld tallQ.params 2 1) index0.dims + 32)
      (vecBytes (fld tallQ.params 2 1) index0.dims)) = tallVec := by decide +kernel
  have h1 : fld tallQ.params 0 2 = 1 := by decide +kernel
  have h2 : fld tallQ.params (16 + 0 * insertEntry (fld tallQ.params 2 1) index0.dims) 8 = 5 := by decide +kernel
  have h3 : fld tallQ.params (16 + 0 * insertEntry (fld tallQ.params 2 1) index0.dims + 16) 2 = 0 := by decide +kernel
  have h4 : fld tallQ.params (16 + 0 * insertEntry (fld tallQ.params 2 1) index0.dims + 8) 8 = 0 := by decide +kernel
  unfold insertRows
  simp only [h1, List.range_one, List.map_cons, List.map_nil, hv, h2, h3, h4]
  exact ⟨_, _, _, _, rfl⟩

/-- An INSERT that preparation rejects, with reason 0 at its first entry's vector, parameter byte 48 (R61, R144). -/
theorem test_preparation_rejects :
    let c := cmdFor 0x3002 tallQ .queued
    let s := busyWith (lib 1) c
    s.cmd 0 = some c ∧ c.state = .queued ∧ preparationBad c s = some (badParam 0 48) := by
  refine ⟨by decide +kernel, rfl, ?_⟩
  obtain ⟨proj, books, k, sh, hr⟩ := tall_rows (busyWith (lib 1) (cmdFor 0x3002 tallQ .queued))
  have hi : (busyWith (lib 1) (cmdFor 0x3002 tallQ .queued)).ingest (cmdFor 0x3002 tallQ .queued) = some (chan0 2, index0) := by decide +kernel
  have hl : index0.loading = false := rfl
  have ho : (cmdFor 0x3002 tallQ .queued).op = 0x3002 := rfl
  have hq : (cmdFor 0x3002 tallQ .queued).q = tallQ := rfl
  simp only [preparationBad, ho, if_true, hi, hl, Bool.false_eq_true, if_false, hq, hr, insertRefused, List.find?_cons, derive_tall_over, Option.map_some]
  decide +kernel

/-! ## Premises: the tail, walks, gathers, phases, pages, stacks -/

def walk0 (ph : WalkPhase) : Walk :=
  { id := 0, coord := 0, query := 0, index := 10, shard := 0, k := 4, width := 1, budget := 64, strict := true, degrade := true, escalation := 0, exactCount := 1
    charge := 64, sketch := zeros 32, predicate := zeros 32, tagSet := [], vector := zeros 64, admitTick := 1, deadline := 1, tick := 1, phase := ph }
def entry0 : WEntry := { slot := 3, dist := 5 }
def slot0 : WSlot := { engine := 0, slot := 0, state := .walking, heap := [entry0] }
/-- A module with one walk of the index. -/
def walking (w : Walk) : State := { lib 1 with walks := [w] }

/-- The tail's points: before and after the cut-off, a late and a timely STRICT gather, walks that wait for the limits, replies on either side of the tail. -/
theorem test_tail_premise :
    let s := up 0
    let g : Gather := { cmd := 0, table := 21, pool := 0, bf16 := false, bags := 1, indices := 1, engines := [0], reads := [] }
    let with_ := fun (c : Cmd) => { busyWith (lib 1) c with gathers := [g] }
    let c := { cmdFor 0x4002 (pk [] 0 (hd 3)) .running with deadline := 1 }
    s.frame.tail = false ∧ (s.setFrame fun f => { f with tail := true }).frame.tail = true
    ∧ ((with_ c).gather 0 = some g ∧ (with_ c).cmd 0 = some c ∧ c.strict = true ∧ c.faultTier = none)
    ∧ ((with_ { c with strict := false }).cmd 0 = some { c with strict := false })
    ∧ (repliesInTail 0x0003 (okDone 0) = true ∧ repliesInTail 0x0004 (okDone 0) = false) := by
  intros
  and_intros
  all_goals decide +kernel

/-- Waiting and release: 15 and 16 boundaries waited; a slot freed at this boundary, at the next, and one that is not being destroyed; a job without progress for
254 and for 255 ticks. -/
theorem test_release_premise :
    let c := fun (w : Nat) => { cmdFor 0x2001 (pk [] 0 (hd 1)) .waiting with waited := w }
    let dying := fun (at_ : Nat) => { lib 1 with channels := [{ chan0 5 with state := .destroying, freeAt := at_ }] }
    let job := fun (n : Nat) => ({ id := 0, kind := .prefetch, cmd := none, port := 0, stall := n } : Job)
    let jobs := fun (n : Nat) => { up 0 with jobs := [job n] }
    ((busyWith (lib 1) (c 16)).cmd 0 = some (c 16) ∧ (busyWith (lib 1) (c 16)).setting 0x0105 ≤ 16)
    ∧ ((busyWith (lib 1) (c 15)).cmd 0 = some (c 15) ∧ 15 < (busyWith (lib 1) (c 15)).setting 0x0105)
    ∧ (((dying 1).chan 5).any (fun h => h.state == .destroying && decide (h.freeAt ≤ (dying 1).tick)) = true)
    ∧ (((dying 2).chan 5).any (fun h => h.state == .destroying && decide ((dying 2).tick < h.freeAt)) = true)
    ∧ (((lib 1).chan 5).any (fun h => h.state != .destroying) = true)
    ∧ (∀ n ∈ [254, 255], (jobs n).jobs.find? (fun j => j.id == 0) = some (job n)) := by
  intros
  and_intros
  all_goals decide +kernel

/-- A slot's test: no heap, a best entry beyond a full pool's worst, a spent budget, the tail, no free hop register, and a hop; a slot that does not walk. -/
theorem test_slot_premise :
    let pool := List.replicate 64 { entry0 with dist := 4 }
    let w := fun (k : WSlot) => { walk0 .walking with slots := [k] }
    let s := fun k => walking (w k)
    ((s slot0).walk 0 = some (w slot0) ∧ (w slot0).slots[0]? = some slot0 ∧ (w slot0).freedIn = none)
    ∧ { slot0 with heap := [] }.heap = [] ∧ worstDist pool < entry0.dist ∧ entry0.dist ≤ worstDist []
    ∧ { w slot0 with walkHops := 64 }.walkHops = (w slot0).budget ∧ (w slot0).walkHops ≠ (w slot0).budget
    ∧ (s slot0).frame.tail = false ∧ (s slot0).freeReg 0 = some 0
    ∧ ({ s slot0 with walks := [w slot0, { w slot0 with id := 1, slots := (List.range 8).map fun i => { slot0 with hop := some (0, i) } }] }).freeReg 0 = none
    ∧ ({ slot0 with state := .paused }.state ≠ .walking ∧ { slot0 with hop := some (3, 0) }.hop.isSome = true) := by
  intros
  and_intros
  all_goals decide +kernel

/-- Events of a walk, rescoring: the walk is placed, walking with a hop out, ended with and without candidates, waits for an exact read. -/
theorem test_walk_event_premise :
    let hop := { walk0 .walking with slots := [{ slot0 with hop := some (3, 0), pool := [{ entry0 with pendingTomb := true }] }] }
    let s := walking hop
    let dead := { s with objs := s.objs.map fun o => if o.num = 16 then { o with data := cells [8] } else o }
    let cand : Cand := { slot := 3, side := false, waiting := true }
    let ended := { walk0 .ended with cands := [cand] }
    let exact_ := { walk0 .exact with cands := [cand] }
    ((walking (walk0 .placed)).walk 0 = some (walk0 .placed) ∧ (walk0 .placed).tick ≤ (walking (walk0 .placed)).tick)
    ∧ (s.walks.findSome? (fun w => (w.slots.findIdx? fun k => k.engine == 0 && k.hop.any fun h => h.2 == 0).map fun j => (w, j)) = some (hop, 0)
      ∧ s.index 10 = some index0 ∧ index0.shard = some shard0 ∧ s.poisoned 11 (3 * 16 * index0.recBytes) (16 * index0.recBytes) = false)
    ∧ ((hop.slots.getD 0 { engine := 0, slot := 0 }).pool.any (fun e => e.slot == 3 && e.pendingTomb) = true ∧ s.poisoned 16 0 256 = false
      ∧ ((cacheRead 16 0 1 s).1).tombed shard0 3 = false ∧ ((cacheRead 16 0 1 dead).1).tombed shard0 3 = true)
    ∧ (s.indexes.any (fun y => (y.shard.bind Shard.passWalks).isSome) = false ∧ s.passReady 10 ≠ [] ∧ s.systemClusters ≠ [])
    ∧ ((walking ended).walk 0 = some ended ∧ (∀ c ∈ ended.cands, (walking ended).poisoned 14 (c.slot * 4) 4 = false) ∧ ended.exactCount ≠ 0 ∧ ended.cands ≠ [])
    ∧ ((walking exact_).walk 0 = some exact_ ∧ exact_.cands[0]? = some cand ∧ cand.waiting = true ∧ exact_.degrade = true ∧ (walking exact_).poisoned 12 (3 * index0.exactStride) index0.exactStride = false
      ∧ (walking exact_).poisoned 15 48 16 = false ∧ (walking exact_).poisoned 0 0 0 = false) := by
  intros
  and_intros
  all_goals decide +kernel

/-- The conditions of a walk's end causes, each met: cancelled, faulted, truncated, filtered and starved, spent, complete. -/
theorem test_end_cause_premise :
    let w := walk0 .walking
    let spent := { w with slots := [{ slot0 with why := 2 }] }
    let filt := { spent with predicate := leBytes 32 1 }
    let s := walking w
    { w with cancelled := true }.cancelled = true ∧ { w with faultTier := some 1 }.faultTier ≠ none ∧ { w with truncated := true }.truncated = true
    ∧ (w.cancelled = false ∧ w.faultTier = none ∧ w.truncated = false ∧ w.slots.any (fun k => k.why == 2) = false)
    ∧ (spent.slots.any (fun k => k.why == 2) = true ∧ filtered spent.predicate = false)
    ∧ (filtered filt.predicate = true ∧ (dedupBy WEntry.slot (filt.finalPools s)).length < filt.k)
    ∧ ¬ (dedupBy WEntry.slot (filt.finalPools s)).length < { filt with k := 0 }.k := by
  intros
  and_intros
  all_goals decide +kernel

/-- A maintenance slice with nothing to do, one that ends a sweep pass, the tail; a scan pass that covers a walk. -/
theorem test_slice_premise :
    let idle := (lib 1).setShard 10 fun h => { h with slice := some (1, 1) }
    let pass := (lib 1).setShard 10 fun h => { h with slice := some (1, 1), deleted := [(3, 0)], issued := 4, pass := some (0, 0, 0) }
    let p := (walking (walk0 .walking)).setShard 10 fun h => { h with passWalks := some [0] }
    let after := fun (s : State) => ((sweepSlice 10 (sliceEntries 10 1 s)).index 10).bind Index.shard
    let before := fun (s : State) => (s.index 10).bind Index.shard
    ((before idle).map Shard.slice = some (some (1, 1)) ∧ idle.frame.tail = false ∧ after idle = before idle)
    ∧ ((before pass).map Shard.slice = some (some (1, 1)) ∧ after pass ≠ before pass)
    ∧ (((p.index 10).bind fun x => x.shard.bind Shard.passWalks) = some [0] ∧ (before p).map (fun h => h.scanTail - h.scanHead) = some 0) := by
  intros
  and_intros
  all_goals decide +kernel

/-- A row read of this member, one of another that has been answered, one that waits under DEGRADE, and STRICT and ELASTIC under STALL. No granule of the heap is
poisoned. -/
theorem test_gather_premise :
    let r : GRead := { window := 0, row := 3, member := 0, occurrences := 1, terms := [], state := .row }
    let far := { r with member := 5, tags := [9] }
    let g := fun (r : GRead) => ({ cmd := 0, table := 21, pool := 0, bf16 := false, bags := 1, indices := 1, engines := [0], reads := [r] } : Gather)
    let c := fun (strict : Bool) (late : Nat) => { cmdFor 0x4002 (pk [] 0 (hd 3)) .running with strict := strict, work := [late] }
    let s := fun (r : GRead) => { busyWith (lib 1) (c true 0) with gathers := [g r] }
    let answered := (s far).setFabric fun f => { f with reads := [{ tag := 9, member := 5, data := some (zeros 256) }] }
    ((s r).gather 0 = some (g r) ∧ (s r).cmd 0 = some (c true 0) ∧ (g r).reads[0]? = some r ∧ (s r).table 21 = some table0 ∧ r.member = (s r).self
      ∧ (s r).poisoned 23 24 8 = false)
    ∧ (far.member ≠ answered.self ∧ answered.answered far.tags = true)
    ∧ ((c true 1).work.getD 0 0 = 1 ∧ (c true 0).work.getD 0 0 ≠ 1 ∧ (c true 0).strict = true ∧ (c false 0).strict = false)
    ∧ (r.state ≠ .arrived ∧ r.state ≠ .dropped) := by
  intros
  and_intros
  all_goals decide +kernel

theorem test_gather_heap_clean : ∀ a, (lib 1).poisoned 22 a 128 = false := by
  intro a
  have h : (lib 1).obj 22 = some (obj0 22 21) := by decide +kernel
  have e : (obj0 22 21).poison = [] := rfl
  simp [State.poisoned, h, e]

/-- The start of a queued phase, in the tail and before it; a cluster that system work holds; slots that arrive, now and late; acknowledgements; a late ring. -/
theorem test_phase_premise :
    let s := running 0
    let q := s.setCluster 0 fun c => { c with run := none, queue := [⟨0, 0, 0, 1⟩] }
    let scan := q.setShard 10 fun h => { h with passWalks := some [0] }
    let ring := setRing 0 0 (fun g => { g with active := true, issued := 1, gen := 1, bind := none }) s
    let out := setRing 0 0 (fun g => { g with wrote := 1, acked := 0, bind := none }) s
    let late := ((setRing 0 0 (fun g => { g with active := true, bind := some 0 }) s).setCluster 0 fun c => { c with busy := [{ op := epiOf 32 0 }] }).setChan 5 fun h => h.put 0x0303 2 1
    let named := (s.setCluster 0 fun c => { c with run := c.run.map fun p => { p with late := some 0, named := [0] } }).setChan 5 fun h => h.put 0x0303 2 1
    ((q.cluster 0).run.isNone = true ∧ (q.cluster 0).queue = ⟨0, 0, 0, 1⟩ :: [] ∧ (q.kernel 0).isSome = true ∧ (q.cmd 0).isSome = true
      ∧ q.frame.tail = false ∧ q.systemFirst 0 = false)
    ∧ scan.systemFirst 0 = true
    ∧ ((ring.running 0).map fun r => ((r.ring 0).output, slotUnplaced r (r.ring 0) (ring.ring 0 0) 0 ring, (r.object (ring.ring 0 0)).isNone)) = some (false, false, true)
    ∧ ((ring.ring 0 0).head + (ring.ring 0 0).slots.length < (ring.ring 0 0).issued ∧ 0 < (ring.ring 0 0).gen)
    ∧ ((out.ring 0 0).acked < (out.ring 0 0).wrote ∧ (s.ring 0 0).wrote ≤ (s.ring 0 0).acked)
    ∧ ((late.running 0).map fun r => ((late.ring 0 0).active, (late.ring 0 0).slots, (lateSlot r 0 0 late).isSome, r.run.named.contains (r.stream 0 0))) = some (true, [], true, false)
    ∧ ((late.running 0).map fun r => ((late.chan (handleSlot r.cmd.q.handle)).map fun h => h.setting 0x0303)) = some (some 2)
    ∧ ((named.chan 5).map fun h => (h.setting 0x0303, h.setting 0x030A)) = some (2, 0)
    ∧ (((named.cluster 0).run.map PhaseRun.late) = some (some 0) ∧ ((named.running 0).map fun r => r.run.named.contains (r.stream 0 0)) = some true) := by
  intros
  and_intros
  all_goals decide +kernel

theorem read_empty (i n : Nat) : (Memory.read [] i n).all (· == 0) = true := by
  induction n generalizing i with
  | zero => rfl
  | succ n ih => simp only [Memory.read, List.all_cons, ih]; rfl

/-- The page mover: a page to copy, a page that is full of zeros and so takes one sector, an expansion with a free page and with none, a second report of a page that
waits, an object whose hold is due. A page of more than 12 sectors depends on the compression, which is open (DESIGN CHOICE, log entry 8). -/
theorem test_page_premise :
    let m : Migration := { tier := 0, keep := false, left := [0] }
    let s := fun (f : Obj → Obj) => { (lib 1).setObj 31 f with jobs := [{ id := 0, kind := .migrate 31, cmd := none, port := 0, phase := 1 }] }
    let copy := s fun o => { o with migration := some m }
    let full := s fun o => { o with fulled := true }
    let exp := fun (wait : Bool) => s fun o => o.setPage 0 fun p => { p with fulled := some 3, expandWait := wait }
    let none_ := fun (wait : Bool) => { exp wait with mem := { (exp wait).mem with lent := 10 ^ 9 } }
    (copy.frame.tail = false ∧ (copy.obj 31).map Obj.migration = some (some m) ∧ (copy.migrateJob 31).map Job.phase = some 1 ∧ m.left.contains 0 = true
      ∧ (copy.obj 31).map (fun o => (o.page 0).switching) = some none)
    ∧ ((full.obj 31).map (fun o => (o.canFull 0, full.fullFirst o 0)) = some (true, true) ∧ full.uncharged full.tick .pages ≠ 0)
    ∧ (((exp false).obj 31).map (fun o => (o.page 0).fulled) = some (some 3) ∧ 0 < (exp false).t1Free ∧ (none_ false).t1Free = 0)
    ∧ (((none_ true).obj 31).map (fun o => (o.page 0).expandWait) = some true ∧ (none_ true).t1Free = 0 ∧ 0 < (exp true).t1Free)
    ∧ (((none_ false).obj 31).map (fun o => (o.page 0).expandWait) = some false) := by
  intros
  and_intros
  all_goals decide +kernel

theorem test_full_zero_page : fulledSize (Memory.read [] 0 65536) = 1 ∧ 1 ≤ 12 := ⟨by unfold fulledSize; rw [read_empty]; rfl, by decide⟩

/-- A stack in service whose report crosses 95 °C upward, stands between 90 and 95 °C, and crosses 90 °C downward; a granule of one of its pages. The refresh
rates at 82, 83, 85, 86, 92, 93, 95 and 96 °C (R302). -/
theorem test_stack_premise :
    let s := lib 1
    let hot := fun (t : Bool) (temp : Nat) => decide (95 < temp) || (t && decide (95 < temp + 5))
    ((s.stackList[0]?).any (fun k => k.inService && !k.throttled && !k.sensorLost && k.throttleAt == 95) = true)
    ∧ ((s.stackList[11]?).isSome = true ∧ (s.stackList[12]?).isNone = true)
    ∧ (hot false 96 = true ∧ hot false 95 = false ∧ hot true 91 = true ∧ hot true 90 = false)
    ∧ (s.obj 31 = some (obj0 31 0) ∧ 255 < 256 ∧ 3 < (obj0 31 0).pages ∧ (obj0 31 0).pageTier 3 = 1 ∧ s.poisoned 31 (3 * 65536 + 256 * 255) 256 = false)
    ∧ [82, 83, 85, 86, 92, 93, 95, 96].map (refreshFor 1) = [1, 1, 1, 2, 2, 2, 2, 4]
    ∧ [82, 83, 85, 86, 92, 93, 95, 96].map (refreshFor 2) = [1, 2, 2, 2, 2, 2, 2, 4]
    ∧ [82, 83, 85, 86, 92, 93, 95, 96].map (refreshFor 4) = [1, 2, 2, 2, 2, 4, 4, 4] := by
  intros
  and_intros
  all_goals decide +kernel

/-! ## Premises: the fabric -/

def hdr0 (src seq : Nat) : FabHdr :=
  { cls := 0, mcast := false, retry := false, poison := false, src := src, dst := 0, pairSeq := seq, coord := 0, query := 4, admitTick := 1, deadline := 1 }
/-- The module in a hall with member 5, its link 0 up, and its leader member 5. -/
def inHall : State :=
  (lib 1).setFabric fun f => { f with
    joined := true, members := [0, 5], leader := 5, hallId := 9, routes := [(5, 0)]
    links := f.links.set 0 { state := .up4, lanes := 15, partner := 5, hallId := 9 } }

/-- A packet in turn, the last early one, a duplicate, one held already, one for another member, a copy, and a module that has not joined (R320). -/
theorem test_pair_order_premise :
    let ahead := fun (seq : Nat) => (seq + 65536 - inHall.nextSeq 5) % 65536
    let held := inHall.setFabric fun f => { f with held := [⟨5, 4095, .badType (hdr0 5 4095) 0x3F⟩] }
    fabHdr (.badType (hdr0 5 0) 0x3F) = some (hdr0 5 0) ∧ inHall.up = true ∧ inHall.fabric.joined = true ∧ (hdr0 5 0).dst = inHall.self
    ∧ ahead 0 = 0 ∧ (0 < ahead 1 ∧ ahead 4095 < 4096) ∧ 4096 ≤ ahead 4096 ∧ 4096 ≤ ahead 65535
    ∧ inHall.fabric.held.any (fun p => p.src == 5 && p.pairSeq == 4095) = false ∧ held.fabric.held.any (fun p => p.src == 5 && p.pairSeq == 4095) = true
    ∧ { hdr0 5 0 with mcast := true }.mcast = true ∧ { hdr0 5 0 with dst := 6 }.dst ≠ inHall.self ∧ (lib 1).fabric.joined = false := by
  intros
  and_intros
  all_goals first | decide +kernel | rfl

theorem test_object_write_premise : (lib 1).obj 31 = some (obj0 31 0) ∧ (obj0 31 0).data.wf = true ∧ (lib 1).obj 34 ≠ none
    ∧ ((lib 1).obj 34).map (fun o => o.data.wf) = some true := by decide +kernel

/-- Addresses of an object here, of one spread over members, of nothing; the first and the last byte of object 31; a row here, one past the table, a table freed. -/
theorem test_memory_packet_premise :
    let s := lib 1
    let away := s.setObj 32 fun o => { o with spread := 2, homes := [5] }
    let bad := s.setObj 22 fun o => { o with poison := [0] }
    s.resolve 0x1F00000 (256 * 64) = some (.here 31 0) ∧ s.resolve (0x1F00000 + 4 * 65536 - 256) 256 = some (.here 31 (4 * 65536 - 256))
    ∧ s.resolve (0x1F00000 + 4 * 65536 - 255) 256 = none ∧ s.resolve (2 ^ 63) 256 = none ∧ away.resolve 0x2000000 256 = some (.away 5)
    ∧ (hdr0 5 0).poison = false
    ∧ (s.table 21 = some table0 ∧ table0.freed = false ∧ 63 < table0.rows ∧ table0.holds s.self 63 = true ∧ table0.rows ≤ 64
      ∧ s.poisoned 22 (8 * (s.dirEntry table0 (table0.localRow 63)).1) 128 = false ∧ bad.poisoned 22 (8 * (bad.dirEntry table0 (table0.localRow 63)).1) 128 = true)
    ∧ ({ table0 with opt := true }.opt = true ∧ { table0 with freed := true }.freed = true) := by
  intros
  and_intros
  all_goals decide +kernel

/-- Atomics of 256 bytes at the end of a granule line and of 4 in its last place, a compare that succeeds and one that fails, operands of a wrong length. -/
theorem test_atomic_premise :
    let s := lib 1
    (s.obj 31 = some (obj0 31 0) ∧ (obj0 31 0).data.wf = true)
    ∧ (s.resolve 0x1F00000 256 = some (.here 31 0) ∧ s.poisoned 31 0 256 = false ∧ 0x1F00000 / 256 = (0x1F00000 + 256 - 1) / 256 ∧ 256 % 8 = 0 ∧ 0x1F00000 % 8 = 0)
    ∧ (s.resolve 0x1F000FC 4 = some (.here 31 252) ∧ s.poisoned 31 252 4 = false ∧ 0x1F000FC / 256 = (0x1F000FC + 4 - 1) / 256 ∧ 4 % 4 = 0 ∧ 0x1F000FC % 4 = 0)
    ∧ (s.resolve 0x1F00008 8 = some (.here 31 8) ∧ s.poisoned 31 8 8 = false ∧ 0x1F00008 % 8 = 0 ∧ (zeros 16).length = 16 ∧ s.readObj 31 8 8 = (zeros 16).take 8
      ∧ s.readObj 31 8 8 ≠ (leBytes 16 1).take 8 ∧ s.dirAt 0x1F00008 = none)
    ∧ ((zeros 6).length % 4 ≠ 0 ∧ 0x1F00002 % 4 ≠ 0 ∧ (zeros 8).length ≠ 16) := by
  intros
  and_intros
  all_goals first | decide +kernel | rfl

/-- A CANCEL that came first, shards elsewhere and here, a walk that is late, one that runs, lists for a query that waits and one that is decided. -/
theorem test_walk_packet_premise :
    let s := inHall.setFabric fun f => { f with cancels := [(0, 4, 1)] }
    let w : WalkMsg := { index := 10, k := 4, width := 1, budget := 64, strict := true, degrade := true, escalation := 0, exact := 1, sketch := zeros 32
                         predicate := zeros 32, tagSet := zeros 32, vector := zeros 64 }
    let late := inHall.setFrame fun f => { f with tick := 3 }
    let runs := { inHall with walks := [{ walk0 .walking with query := 4 }] }
    let q : Query := { number := 4, cmd := 0, index := 10, metric := 0, k := 4, shards := [(0, .waiting)], result := some (okDone 0) }
    let done := { inHall with queries := [q] }
    (∃ c ∈ s.fabric.cancels, c.1 = (hdr0 5 0).coord ∧ c.2.1 = (hdr0 5 0).query ∧ s.tick ≤ c.2.2)
    ∧ inHall.fabric.cancels = [] ∧ (inHall.index 99).bind Index.shard = none ∧ ((inHall.index w.index).bind Index.shard) = some shard0
    ∧ (w.strict = true ∧ (hdr0 5 0).admitTick + (hdr0 5 0).deadline < late.tick)
    ∧ (inHall.tick ≤ (hdr0 5 0).admitTick + (hdr0 5 0).deadline ∧ inHall.walks.any (fun w => w.coord == 0 && w.query == 4 && w.index == 10) = false
      ∧ runs.walks.any (fun w => w.coord == 0 && w.query == 4 && w.index == 10) = true)
    ∧ ((hdr0 5 0).coord = inHall.self ∧ done.queries.find? (fun q => q.number == 4) = some q ∧ q.result ≠ none ∧ q.shards.any (fun p => p.1 == 0 && p.2 == .waiting) = true) := by
  intros
  and_intros
  all_goals first | decide +kernel | exact ⟨_, List.mem_singleton.mpr rfl, by decide +kernel⟩

/-- An ACK, a packet sent three times and four, one in transit, a neighbour's links, and neighbours of this hall, of another, and without a certificate. -/
theorem test_link_packet_premise :
    let p : FabPkt := { typ := 1, cls := 0, mcast := false, dst := 5, pairSeq := 7, coord := 0, query := 0, admitTick := 0, deadline := 0, spec := [], payload := [] }
    let s := fun (k : Nat) => inHall.setFabric fun f => { f with unacked := [(p, k)] }
    inHall.up = true ∧ inHall.fabric.joined = true ∧ (hdr0 5 0).dst = inHall.self
    ∧ (∀ k ∈ [2, 3], (s k).fabric.unacked.find? (fun x => x.1.dst == 5 && x.1.pairSeq == 7 && !(s k).fabric.backlog.contains x.1) = some (p, k))
    ∧ ({ hdr0 7 0 with dst := 5 }.dst ≠ inHall.self ∧ (inHall.routeTo 5).isSome = true)
    ∧ (inHall.fabric.links.getD 0 {}).isUp = true ∧ (9 = inHall.fabric.hallId ∧ 8 ≠ inHall.fabric.hallId ∧ 5 ≠ inHall.self) := by
  intros
  and_intros
  all_goals decide +kernel

/-- Lanes: five, four, two and one good; a lane that fails with the spare good, with three left and with one; a seventh and an eighth replay; training. -/
theorem test_lane_premise :
    let l := fun (bad : List Nat) => ({ state := .up4, lanes := 15, failedLanes := bad } : Link)
    let cut := fun (bad : List Nat) (lane : Nat) => { l bad with failedLanes := bad ++ [lane] }
    let s := fun (k : Link) => inHall.setFabric fun f => { f with links := f.links.set 0 k }
    (l []).good.length = 5 ∧ (l [4]).good.length = 4 ∧ (l [4, 3, 2]).good.length = 2 ∧ (l [4, 3, 2, 1]).good.length = 1
    ∧ ((s (l [])).fabric.links.getD 0 {} = l [] ∧ (l []).failedLanes.contains 3 = false ∧ (l []).isUp = true ∧ bit (l []).lanes 3 = true ∧ 4 ≤ (cut [] 3).good.length)
    ∧ ((l [4]).failedLanes.contains 3 = false ∧ (cut [4] 3).good.length = 3 ∧ (cut [4, 2, 1] 3).good.length = 1)
    ∧ ({ l [] with consecutive := 6 }.consecutive ≠ 7 ∧ { l [] with consecutive := 7 }.consecutive = 7)
    ∧ ((l []).heldOut = false ∧ (l []).state ≠ .disabled ∧ 35 < 36 ∧ ((lib 1).hall = 0) ∧ inHall.hall = 9 ∧ inHall.hall ≠ 0) := by
  intros
  and_intros
  all_goals decide +kernel

theorem test_control_flit_premise :
    ((inHall.setLink 0 fun l => { l with consecutive := 0 }).fabric.links.getD 0 {}).isUp = true
    ∧ ((inHall.setLink 1 fun l => { l with consecutive := 0 }).fabric.links.getD 1 {}).isUp = false := by decide +kernel

/-- The hall tick: markers of this leader, of a lower one and of a higher one; a missed boundary; the reference in use, 15 edges and 14 edges after a loss, at 2,000 ns
and beyond. -/
theorem test_hall_tick_premise :
    let m := fun (leader : Nat) => (⟨7, 50, 2, leader, 1, false, 0⟩ : Marker)
    let missed := inHall.setFrame fun f => { f with missed := 1 }
    let ref := (putSetting 0x0104 1 (lib 1))
    let lost := fun (n : Nat) => ref.setFrame fun f => { f with refAlarm := true, refEdges := n }
    ((inHall.fabric.links.getD 0 {}).isUp = true ∧ (inHall.fabric.links.getD 1 {}).isUp = false)
    ∧ ((m 5).leader = inHall.fabric.leader ∧ (m 5).leader ≠ inHall.self ∧ inHall.frame.align ≠ .freeRun)
    ∧ ((m 3).leader ≠ inHall.fabric.leader ∧ (m 3).leader < inHall.fabric.leader ∧ 40 < (41 : Int).natAbs ∧ ¬ 40 < (40 : Int).natAbs)
    ∧ ((m 6).leader ≠ inHall.fabric.leader ∧ inHall.fabric.leader < (m 6).leader)
    ∧ (missed.fabric.joined = true ∧ missed.fabric.leader ≠ missed.self ∧ missed.frame.marker = none ∧ 1 ≤ missed.frame.missed ∧ missed.frame.align ≠ .freeRun)
    ∧ inHall.frame.missed = 0 ∧ (lib 1).usesRef = false ∧ ref.usesRef = true
    ∧ (2000 < (-2001 : Int).natAbs ∧ (2000 : Int).natAbs ≤ 2000 ∧ ref.frame.refAlarm = false)
    ∧ ((lost 14).frame.refAlarm = true ∧ (lost 14).frame.refEdges + 1 < 16 ∧ 16 ≤ (lost 15).frame.refEdges + 1) := by
  intros
  and_intros
  all_goals decide +kernel

/-! ## Premises: management and power -/

/-- Aging readings at and below the two thresholds of units with and without a spare; a window with and without repeats; a lockout; discarded types; an erase. -/
theorem test_mgmt_premise :
    let s := up 0
    let warned := fun (u : Nat) => s.setMgmt fun m => { m with agingWarned := [u] }
    let w : EventWindow := { code := 0x1001, subject := 0, first := 0, last := 0, port := 0, repeats := 2, opened := 0, length := 1 }
    let open_ := fun (w : EventWindow) => s.setMgmt fun m => { m with windows := [w] }
    let locked := s.setMgmt fun m => { m with lockout := some 250 }
    let c := cmdFor 0xB001 (pk []) .running
    let erase := (busyWith s c).setMgmt fun m => { m with eraseSlot := some (1, 0) }
    s.up = true ∧ (s.setting 0x0502 ≤ 12 ∧ s.setting 0x0502 ≤ 24 ∧ 24 < s.setting 0x0503 ∧ s.setting 0x0503 ≤ 25 ∧ 11 < s.setting 0x0502)
    ∧ (s.mgmt.agingWarned.contains 0 = false ∧ (warned 0).mgmt.agingWarned.contains 0 = true ∧ spareless 0 = false ∧ bit (s.setting 0x0501) 0 = true
      ∧ s.mgmt.swaps.any (fun w => w.1 == 0) = false)
    ∧ ((warned (2 * 2 ^ 32)).mgmt.agingWarned.contains (2 * 2 ^ 32) = true ∧ spareless (2 * 2 ^ 32) = true)
    ∧ (∀ n ∈ [0, 2], let v := { w with repeats := n }
        (open_ v).mgmt.windows.filter (fun x => x.code == v.code && x.subject == v.subject && decide (x.opened + x.length ≤ s.tick)) = [v])
    ∧ (open_ w).mgmt.classNow.getD (w.code / 4096) 0 < (open_ w).logLimit (w.code / 4096)
    ∧ s.mgmt.lockout = none ∧ (locked.mgmt.lockout = some 250 ∧ 250 ≤ locked.frame.elapsed + locked.period)
    ∧ (1 ≠ 0 ∧ 1 ≠ 5 ∧ 1 ≠ 0x7E) ∧ (erase.mgmt.eraseSlot = some (1, 0) ∧ erase.cmd 0 = some c) := by
  intros
  and_intros
  all_goals decide +kernel

theorem test_alert_premise : ((up 0).stackList[0]?).any (fun k => k.inService) = true ∧ (up 0).up = true
    ∧ ∃ t, exec (.telemetrySample []) (up 0) = .next t := ⟨by decide +kernel, by decide, _, rfl⟩

/-- SPDM requests on the responder at each stage, and two MCTP control requests (PRESUMED, log entries 23 and 24). -/
theorem test_bus_premise :
    let at_ := fun (n : Nat) => setSpdm { via := 8, stage := n } ((up 0).setMgmt fun m => { m with chain := zeros 8 })
    let code := fun (n : Nat) => leBytes 8 (0x12 + 256 * n)
    (at_ 3).mgmtUp = true ∧ (∀ n ∈ [0x84, 0xE1, 0xE3, 0x81, 0x82, 0x83, 0xE0], fld (code n) 1 1 = n)
    ∧ (at_ 3).spdmUp 8 = true ∧ (∀ n ∈ [0, 1, 2, 3], ((at_ n).spdmAt 8).stage = n) ∧ fld (code 0x82) 4 2 < (at_ 3).mgmt.chain.length
    ∧ (fld (leBytes 8 0x018000) 1 1 / 128 = 1 ∧ fld (leBytes 8 0x018000) 2 1 = 1 ∧ fld (leBytes 8 (0x018000 + 8 * 2 ^ 32)) 4 1 = 8
      ∧ fld (leBytes 8 (0x018000 + 254 * 2 ^ 32)) 4 1 < 255)
    ∧ fld (leBytes 8 0x028000) 2 1 = 2 := by
  intros
  and_intros
  all_goals decide +kernel

/-- What starts the module; a watchdog in a step whose failure lets the start go on, and in one whose failure does not. -/
theorem test_start_premise :
    let s := State.reset
    let f : StartFound := { steps := [], slotsPass := 3, rates := [], throttle := [], rows := [], aging := [], links := [], marker := none, hostRate := 3, hostWidth := 8
                            hostMode := 0 }
    let off := fun (en rst vin : Bool) => s.setPower fun w => { w with on := false, modEn := en, modRstN := rst, vinOk := vin }
    let at_ := fun (k : Nat) => s.setPower fun w => { w with inStart := true, startStep := k }
    let d : StepFound := { pass := false, attempts := 1, unitsOut := 0, micros := 0, detail := 0 }
    s.power.modEn = true
    ∧ ((off false true true).power.modEn = false ∧ (off false true true).power.vinOk = true ∧ (off false true true).power.modRstN = true ∧ (off false true true).power.on = false)
    ∧ (off false false true).power.modRstN = false
    ∧ ((off true false true).power.modRstN = false ∧ (off true false true).power.modEn = true)
    ∧ ((off true true false).power.vinOk = false ∧ (off false true false).power.modEn = false)
    ∧ (s.up = true ∧ s.mgmt.restartPending = none ∧ (s.setMgmt fun m => { m with restartPending := some 1 }).mgmt.restartPending ≠ none)
    ∧ ((at_ 7).power.on = true ∧ (at_ 7).power.inStart = true ∧ (at_ 7).power.startStep = 7 ∧ (runStep 7 d f (at_ 7)).2 = true)
    ∧ ((runStep 2 d f (at_ 2)).2 = false ∧ (runStep 2 d f (at_ 2)).1.power.on = true ∧ (runStep 2 d f (at_ 2)).1.power.inStart = true)
    ∧ s.power.inStart = false := by
  intros
  and_intros
  all_goals decide +kernel

theorem test_rails_premise : State.reset.power.vinOk = true ∧ State.reset.power.on = true
    ∧ (State.reset.setPower fun w => { w with on := false }).power.on = false := by decide

/-- A start's steps: passing and failing; a module decommissioned; slots that pass, the first, the second and neither; the rollback count below, at and above an SVN. -/
theorem test_firmware_slot_premise :
    let slot := fun (svn : Nat) => ({ state := 2, svn := svn } : FwSlot)
    let s := fun (r : Nat) => State.reset.setMgmt fun m => { m with slotA := slot 3, slotB := slot 5, rollback := r }
    State.reset.mgmt.decommissioned = false ∧ (s 3).firstSlot = 0
    ∧ (s 3).mgmt.slotPasses 1 0 = true ∧ ((s 4).mgmt.slotPasses 3 0 = false ∧ (s 4).mgmt.slotPasses 3 1 = true) ∧ (s 6).mgmt.slotPasses 3 1 = false
    ∧ ((s 4).mgmt.slot 0).svn < (s 4).mgmt.rollback ∧ ({} : FwSlot).field 6 1 < (s 3).mgmt.rollback
    ∧ (s 2).mgmt.lowestSvn = 3 ∧ (slot 3).state = 2 := by
  intros
  and_intros
  all_goals decide +kernel

/-! ## An ill-formed term for each check of well-formedness -/

def badHdr : FabHdr := { cls := 3, mcast := false, retry := false, poison := false, src := 0, dst := 0, pairSeq := 0, coord := 0, query := 0, admitTick := 0, deadline := 0 }
def goodHdr : FabHdr := { badHdr with cls := 2 }
def found0 : StartFound :=
  { steps := [], slotsPass := 1, rates := [], throttle := [], rows := [], aging := [], links := [], marker := none, hostRate := 2, hostWidth := 8, hostMode := 3 }
def walkMsg0 : WalkMsg := { index := 10, k := 1, width := 1, budget := 1, strict := true, degrade := false, escalation := 0, exact := 1, sketch := [], predicate := [], tagSet := [], vector := [] }
def ctrl0 : CtrlOp := ⟨0, 0, 0, 0, 0⟩
def addr0 : AddrOp := ⟨0, 0, 0, 0, false, 0, 0⟩
def move0 : MoveOp := ⟨0, 0, 0, 0, 0, false, 0⟩
def sel0 : SelOp := ⟨0, 1, 0, 0, false, false, 0⟩
def arr0 : ArrayOp := ⟨0, 0, 0, 0, 0, 0, 0, 1, 0, false, 0, true, false, 0, 0, 0, 0, false, false, false, 0, 0⟩
def epi0 : EpiOp := ⟨0, 0, 0, 0, 0, 0, 0, 0, 0, 0, 0, 0, 0, false, 0, 0⟩

theorem test_wf_packet : (Instr.getTick (pk [])).wf = true ∧ (Instr.getTick { pk [] with access := 9 }).wf = false
    ∧ (Instr.getTick { pk [] 0 with stream := 4 }).wf = false ∧ (Instr.getTick { pk [] with tag := 2 ^ 32 }).wf = false
    ∧ (Instr.getTick { pk [] with pktLen := 3 }).wf = false := by decide +kernel
theorem test_wf_kernel : (Instr.loop 0 ctrl0).wf = true ∧ (Instr.loop 8 ctrl0).wf = false ∧ (Instr.loop 0 { ctrl0 with target := 2 ^ 14 }).wf = false
    ∧ (Instr.aadd 0 { addr0 with d := 32 }).wf = false ∧ (Instr.start 0 { move0 with ring := 16 }).wf = false ∧ (Instr.mma 0 ⟨arr0, false⟩).wf = true
    ∧ (Instr.mma 0 ⟨{ arr0 with tile := 128 }, false⟩).wf = false ∧ (Instr.drain 0 ⟨{ epi0 with act := 16 }, false⟩).wf = false ∧ (Instr.topk 0 ⟨{ sel0 with k := 4096 }, false⟩).wf = false := by
  decide +kernel
theorem test_wf_port : (Instr.cmdStreamEnable 8 0 0).wf = false ∧ (Instr.cmdStreamDrain 0 4 0).wf = false ∧ (Instr.replyStreamEnable 0 2 0).wf = false
    ∧ (Instr.replyStreamDisable 0 0 (2 ^ 64)).wf = false ∧ (Instr.registerWrite 0 0 0 (2 ^ 64)).wf = false ∧ (Instr.msixUnmask 0 4).wf = false
    ∧ (Instr.snoopInvalidate 0 0 [⟨2 ^ 64, [0]⟩]).wf = false ∧ (Instr.streamFault 0 0 16 0).wf = false := by decide +kernel
theorem test_wf_unit : (Instr.channelFree 16384).wf = false ∧ (Instr.stackTempReport 12 40).wf = false ∧ (Instr.patrolScrub 0 0 0 256 0).wf = false
    ∧ (Instr.ringSlotArrival 0 16 0 false).wf = false ∧ (Instr.writeAck 8 0).wf = false ∧ (Instr.adjacencyBlockReturn 0 8 0).wf = false := by decide +kernel
theorem test_wf_fabric : (Instr.badType goodHdr 9).wf = true ∧ (Instr.badType badHdr 9).wf = false ∧ (Instr.walk goodHdr walkMsg0).wf = true
    ∧ (Instr.walk goodHdr { walkMsg0 with width := 9 }).wf = false ∧ (Instr.partialList goodHdr ⟨0, 8, false, false, false, 0, 0, 0, []⟩).wf = false
    ∧ (Instr.flitReplay 36).wf = false ∧ (Instr.laneErrorReport 0 5 true).wf = false ∧ (Instr.pktResend 2048 0).wf = false
    ∧ (Instr.markerFlit 0 ⟨2 ^ 48, 50, 2, 0, 1, false, 0⟩ 0).wf = false := by decide +kernel
theorem test_wf_start : (Instr.modEnRise found0).wf = true ∧ (Instr.modEnRise { found0 with hostWidth := 9 }).wf = false
    ∧ (Instr.stepWatchdog 11 found0).wf = false ∧ (Instr.hostLinkUp 4 8 false true false).wf = false ∧ (Instr.mctpControl 256 []).wf = false
    ∧ (Instr.dynamicAddressAssignment 128).wf = false := by decide +kernel
/-- The opcode table gives no row any bits. -/
theorem test_no_word : decodeTableWord 32 0 = none ∧ State.reset.withFetchWord 32 0 = State.reset := ⟨rfl, rfl⟩

/-! ## The manual's worked numbers -/

/-- R66 and the worked sequence of 05: port 3, type 5, slot 42, generation 3. -/
theorem test_handle : ({ slot := 42, type := 5, port := 3, gen := 3 } : Channel).handle = 0x65002A03 := by decide
/-- R11, R21: the reference module, and a work window of 240 µs. -/
theorem test_usable_t1 : State.reset.t1Usable = 3599526191431 := by decide +kernel
theorem test_window_capacity : State.reset.window = 240 ∧ State.reset.capacity .hops = 271360 ∧ State.reset.capacity (.cycles 0) = 504000 ∧ State.reset.capacity .pages = 937 := by
  decide +kernel
/-- R366, 22: QUOTA_WALK_SLOTS of port 5 is setting 0x0254. -/
theorem test_setting_number : settingRange 0x0254 = settingRange 0x0204 ∧ (0x0201 + 0x10 * 5 + 3) = 0x0254 := by decide +kernel
/-- R61: STATUS is the class in the top four bits and the detail below. -/
theorem test_status_words : status 1 3 = 0x1003 ∧ status 2 1 = 0x2001 ∧ statusRank (status 1 4) > statusRank (status 1 1) := by decide
/-- 06's worked record at the reference layout. -/
theorem test_record : parseRec 0 [0x02, 0x9C, 0x1F, 0x3A, 0x00, 0x03, 0x41, 0x00, 0x2C, 0x01, 0x00, 0x00, 0xE8, 0x07, 0x05, 0x00]
    = { slot := 975150082, valid := true, reverse := true, tag := 0x41, attr := 0x000507E80000012C, sketch := [] } := by decide +kernel
/-- 07's worked predicate passes the worked record, and fails it with tag 0x0141. -/
theorem test_predicate :
    let pred : Bytes := [2, 0, 0, 0, 0x64, 0, 0xF4, 1, 0x31, 0, 0, 0, 0xFF, 0, 5, 0, 3, 0, 0, 0, 0, 0, 0, 0, 0, 0, 0, 0, 0, 0, 0, 0]
    let tags : Bytes := zeros 8 ++ [2] ++ zeros 23
    predicateHolds pred tags 0x0041 0x000507E80000012C = true ∧ predicateHolds pred tags 0x0141 0x000507E80000012C = false ∧ predicateBad (pred ++ tags) 0 = none := by
  decide +kernel
/-- R89: a block byte 0x7C and nibble 0xA give −0.75; FP16 0x211F is 2^−7 × (1 + 287/1,024). -/
theorem test_exact_formats : f32Of (Fr.mul (e8m0 0x7C) (Fr.int (s4 0xA))) = 0xBF400000 ∧ Fr.eq (f16Scale 0x211F) ⟨1311, 131072⟩ = true := by decide +kernel
/-- 10's worked block: the E bytes, and the codes of 3.3, −2.9, 1.37 and 0.21, in INT4B and MXFP4. -/
theorem test_sizing :
    let xs := [f32Of ⟨33, 10⟩, f32Of ⟨-29, 10⟩, f32Of ⟨137, 100⟩, f32Of ⟨21, 100⟩]
    ((sizeBlock .int4b xs none).1, (sizeBlock .int4b xs none).2.1) = (0x7E, [7, 10, 3, 0])
      ∧ ((sizeBlock .mxfp4 xs none).1, (sizeBlock .mxfp4 xs none).2.1) = (0x7F, [5, 13, 3, 0]) := by decide +kernel
/-- 10's worked second moment: √v up to 0.05 gives E 0x77, and 0.03 gives code 8. R171: 2.74 takes 3 for draws below 48,496. -/
theorem test_second_moment : sizingE .uint4b [f32Of ⟨5, 100⟩] = 0x77 ∧ (roundElem .uint4b (Fr.div ⟨3, 100⟩ (e8m0 0x77)) none).1 = 8 := by decide +kernel
theorem test_stochastic : (roundElem .int4b ⟨274, 100⟩ (some 48495)).1 = 3 ∧ (roundElem .int4b ⟨274, 100⟩ (some 48496)).1 = 2 := by decide +kernel
/-- 11's worked overflow: one halving, ACC 1,081,072,000 and ACC_EXP −17. -/
theorem test_halving : promoteInt (fun _ _ => (2000, -1)) 4 { set := 0, index := 0, float := false, accExp := -18, rows := [[{ acc := 1900000000 }]] } 0
    = (some { set := 0, index := 0, float := false, accExp := -17, halvings := 1, rows := [[{ acc := 1081072000 }]] }, 1) := by decide +kernel
/-- 12's worked ARRAY slot, 0x0008_00C4_0000_0080_4002_2210. -/
theorem test_array_slot : arrayOf 0x000800C40000008040022210
    = .array 1 { arr0 with fmtA := 2, fmtB := 2, group := 2, ringA := 0, ringB := 2, steps := 64, ringSA := 1, ringSB := 3, relB := true, accAuto := false } := by decide +kernel
/-- 13's worked merge: the entries, SEEN and TIED_OUT of two members' records (VALUE as FP32 words). -/
theorem test_collect :
    let r := fun es => ({ row := 0, entries := es, seen := 4, tied := 0, m := 0x40600000, sumSel := 0, sumOut := 0, op := 1, exp := true } : CList)
    let m := mergeRow 1 3 0 [r [(2, 0x40600000), (0, 0x40000000), (3, 0x3F000000)], r [(4, 0x40600000), (7, 0x40000000), (5, 0x3F800000)]]
    m.entries = [(2, 0x40600000), (4, 0x40600000), (0, 0x40000000)] ∧ m.seen = 8 ∧ m.tied = 1 ∧ m.m = 0x40600000 := by decide +kernel

/-- 08's worked merge: shards 5, 9 and 12, K = 4; scores in hundredths as FP32. -/
def mergeQuery : Query :=
  let e := fun (key score : Nat) (exact : Bool) => ({ key := key, score := f32Of ⟨score, 100⟩, exact := exact, side := false, dup := false, shardField := 0 } : ListEntry)
  let l := fun (sh cause : Nat) (cheap : Bool) es => ({ shard := sh, cause := cause, escalated := false, cheaper := cheap, tied := false, tier := 0, candidates := 0, exactScores := 0, entries := es } : ListMsg)
  { number := 0, cmd := 0, index := 10, metric := 0, k := 4
    shards := [(5, .list (l 5 1 false [e 0x1001 91 true, e 0x1002 88 true, e 0x1003 80 true, e 0x1004 77 true])),
      (9, .list (l 9 1 true [e 0x1005 95 false, e 0x1002 90 false, e 0x1006 70 false])),
      (12, .list (l 12 1 false [e 0x1007 88 true, e 0x1008 80 true, e 0x1003 79 true, e 0x1009 60 true]))] }
theorem test_merge_entries : (mergeQuery.merged.1.take 4).map (fun e => (e.key, e.dup)) = [(0x1001, false), (0x1002, true), (0x1007, false), (0x1003, true)]
    ∧ mergeQuery.merged.2.1 = 2 := by decide +kernel
theorem test_merge_status : mergeQuery.final.status = status 1 3 ∧ mergeQuery.final.detail = 0x8004 ∧ mergeQuery.final.count = 4 := by decide +kernel
/-- 17's worked route: member 70 reaches member 1,601 by member 77, and by member 90 once the first link runs at half width. -/
theorem test_route :
    let up := fun (m : Nat) (adv : List LiveLink) => ({ state := .up4, lanes := 0xF, partner := m, advertised := adv } : Link)
    let f := fun (half : Bool) => ({ joined := true, member := 70, links := [up 77 [⟨77, 31, 1615, 32, half⟩], up 85 [⟨85, 31, 1630, 31, false⟩], up 90 [⟨90, 33, 1607, 31, false⟩]] } : Fabric)
    (f false).firstHop (f false).live 1601 = some (77, false) ∧ (f true).firstHop (f true).live 1601 = some (90, false) := by decide +kernel

/-! ## Premises of further forms -/

/-- NEGOTIATE and a PAD on the management port, with work of another endpoint outstanding; SETs of settings that nothing constrains; INDEX_STAT of every shard. -/
theorem test_session_more_premise :
    let n := pk (leBytes 1 0x10 ++ leBytes 1 0x10 ++ zeros 14)
    let s := busyWith (up 0) { cmdFor 0x0003 { pk [] with stream := 1 } .queued with id := 5 }
    let t := s.holding 0x0001 n
    (s.reached n ∧ s.takesHold 0x0001 n
      ∧ ∀ d ∈ t.cmds ++ t.frame.decided.map Decided.cmd, d.id ≠ (s.holder 0x0001 n).id → d.q.access ≠ n.access ∨ (n.access = 8 ∧ d.q.stream ≠ n.stream)) := by
  intros
  and_intros
  all_goals first | exact takes_takesHold _ _ _ (by decide +kernel) | (unfold State.reached; decide +kernel) | decide +kernel

theorem test_setting_more_premise :
    let q := fun (sid v h : Nat) => pk (leBytes 8 sid ++ leBytes 8 v) (if h = 0 then 8 else 0) h
    (∀ p ∈ [(0x0103, 0), (0x0103, 16), (0x0105, 1), (0x0406, 1), (0x0616, 1024)], takes 0x8001 (q p.1 p.2 0) (lib 1) = true)
    ∧ (∀ sid ∈ [0x0301, 0x030D], takes 0x8001 (q sid 1 (hd 5)) (lib 1) = true ∧ (settingTypes sid).contains 5 = true)
    ∧ ((lib 1).holding 0x8001 (q 0x0301 1 (hd 5))).handleChan (hd 5) = some (chan0 5) := by
  intros
  and_intros
  all_goals decide +kernel

theorem test_index_stat_more_premise :
    let st := pk (leBytes 8 0xFFFF ++ leBytes 8 0x1000000) 0 (hd 2)
    (lib 1).takesHold 0x3006 st ∧ ((lib 1).holding 0x3006 st).handleChan st.handle = some (chan0 2) := by
  intros
  and_intros
  all_goals first | exact takes_takesHold _ _ _ (by decide +kernel) | decide +kernel

/-- A lockout runs: what a ROLE_ASSUME that takes hold finds. BEGIN for the slot that the ledger names; a search for a channel without walk slots. -/
theorem test_role_and_stage_more_premise :
    let locked := (up 0).setMgmt fun m => { m with lockout := some 250 }
    let st := pk (zeros 32)
    let s := writeLedger (fun l => { l with activeSlot := 1 - (up 1).mgmt.running }) (up 1)
    locked.mgmt.lockout ≠ none ∧ (s.takesHold 0xB001 st ∧ (s.holding 0xB001 st).mgmt.draining = none
      ∧ (s.holding 0xB001 st).mgmt.ledger.activeSlot = 1 - (s.holding 0xB001 st).mgmt.running) := by
  intros
  and_intros
  all_goals first | exact takes_takesHold _ _ _ (by decide +kernel) | decide +kernel

/-- An update of a row of a table without a free slot, which has waited 15 boundaries and 16. -/
theorem test_slots_short_premise :
    let s := { libK with tables := [{ table0 with opt := true, slotBytes := 384 }] }
    ∀ w ∈ [15, 16],
      let d := { cmdFor 0x4003 (pk (leBytes 4 1 ++ leBytes 28 2 ++ leBytes 8 3 ++ zeros 136) 0 (hd 4)) .waiting with waited := w }
      let t := busyWith s d
      (t.cmd 0).isSome && !t.fenced d && (boundaryBad d t).isNone && (placedFrom d t.tick t).isNone && slotsShort d t
        && (countChan (handleSlot d.q.handle) 21 1 t).setting 0x0105 == 16 := by decide +kernel

/-- STEPS from X3, which holds 65,536, above and at the field; a RELEASE of no count, of XREG; an output ring that still holds bytes; a selection over a good row. -/
theorem test_unit_more_premise :
    let s := running 0
    let o : ArrayOp := ⟨0, 0, 0, 0, 0, 0, 0, 4095, 3, true, 0, true, false, 0, 0, 0, 0, false, false, false, 0, 0⟩
    let t := s.setCluster 0 fun k => { k with x := k.x.set 3 4095 }
    let out := setRing 0 0 (fun g => { g with buf := [1] }) s
    (4095 < ((s.cluster 0).xr 3).toNat ∧ ¬ 4095 < ((t.cluster 0).xr 3).toNat ∧ o.xsEn = true)
    ∧ ((out.ring 0 0).buf ≠ []) ∧ ((s.cluster 0).busy.takeWhile (fun x => x != ({ op := .sel 1 ⟨0, 1, 0, 0, false, false, 0⟩ } : Issued))).any (fun x => opSlot x.op == 5) = false := by
  intros
  and_intros
  all_goals decide +kernel

/-- Streams that are enabled, that drain and that are off; stream 1 of each kind with BASE and SIZE to write; sizes at which no reply stream starts. -/
theorem test_stream_more_premise :
    let on := setReplyStream 0 1 (fun r => { r with enable := true }) (setCmdStream 0 3 (fun c => { c with enable := true, state := .running }) (up 0))
    let drains := setCmdStream 0 0 (fun c => { c with state := .draining }) (up 0)
    (on.up = true ∧ on.linked 0 = true)
    ∧ (((on.port 0).cmds[3]?).any (fun c => c.enable) = true ∧ ((on.port 0).cmds[0]?).any (fun c => !c.enable) = true ∧ 3 < 4)
    ∧ (((drains.port 0).cmds[0]?).any (fun c => c.state == .draining) = true)
    ∧ (((on.port 0).replies[1]?).any (fun r => r.enable) = true ∧ ((on.port 0).replies[0]?).any (fun r => !r.enable) = true ∧ 1 < 2)
    ∧ (bit 3 0 = true ∧ bit 2 0 = false)
    ∧ ∀ n ∈ [0, 4097], ((withArea 0x1000000 n).port 0).replies[0]?.any (fun r => !r.enable && (r.size == 0 || decide (4096 < r.size))) = true := by
  intros
  and_intros
  all_goals decide +kernel

/-- What is next to prepare: a role challenge before all, an echo, a SET that will be performed, one that is to be refused, and another command's turn. -/
theorem test_preparation_more_premise :
    let c := fun (op : Nat) (ps : Bytes) => cmdFor op (pk ps) .queued
    let s := fun (op : Nat) (ps : Bytes) => busyWith (up 1) (c op ps)
    let at_ := fun (op : Nat) (ps : Bytes) => let t := (s op ps).takeNext.setFrame fun f => { f with preparing := none }
      ((s op ps).takeNext.frame.preparing, t.cmd 0 == some (c op ps), audited op (c op ps).q t, performs (c op ps) t)
    (at_ 0x0004 []).1 = some 0 ∧ (at_ 0x0003 (zeros 16)).2.2.1 = false
    ∧ at_ 0x8001 (leBytes 8 0x0105 ++ leBytes 8 3) = (some 0, true, true, true) ∧ at_ 0x8001 (leBytes 8 0x0105 ++ leBytes 8 0) = (some 0, true, true, false)
    ∧ (up 1).takeNext.frame.preparing ≠ some 0 := by
  intros
  and_intros
  all_goals decide +kernel

/-- The module with the first granules of an object bad. -/
def hurt (n : Nat) (s : State) : State := s.setObj n fun o => { o with poison := List.range 16 }

/-- A batch that met an error; walks that are placed with slots and whose hop or tombstone line is poisoned; a scan pass that may begin, one that may not, and one
that ends; the budget reached with a filter and without, and not reached. -/
theorem test_walk_more_premise :
    let g : Gather := { cmd := 0, table := 21, pool := 0, bf16 := false, bags := 1, indices := 1, engines := [0], reads := [] }
    let c := { cmdFor 0x4002 (pk [] 0 (hd 3)) .running with deadline := 1, faultTier := some 2 }
    let batch := { busyWith (lib 1) c with gathers := [g] }
    let placed := { walk0 .placed with slots := [{ slot0 with state := .walking, heap := [] }] }
    let hop := { walk0 .walking with slots := [{ slot0 with hop := some (3, 0), pool := [{ entry0 with pendingTomb := true }] }] }
    let bad := hurt 16 (hurt 11 (walking hop))
    let scan := fun (on : Option (List Nat)) => (walking (walk0 .walking)).setShard 10 fun h => { h with passWalks := on, ready := some 0 }
    let spent := { walk0 .walking with walkHops := 64 }
    (batch.gather 0 = some g ∧ batch.cmd 0 = some c ∧ c.strict = true ∧ c.faultTier = some 2)
    ∧ ((walking placed).walk 0 = some placed ∧ placed.tick ≤ (walking placed).tick ∧ placed.freedIn = none ∧ placed.slots ≠ [])
    ∧ ((bad.walk 0).isSome = true ∧ bad.index 10 = some index0 ∧ bad.poisoned 11 (3 * 16 * index0.recBytes) (16 * index0.recBytes) = true ∧ bad.poisoned 16 0 256 = true)
    ∧ ((scan none).frame.tail = false ∧ (scan none).indexes.any (fun y => (y.shard.bind Shard.passWalks).isSome) = false ∧ (scan none).passReady 10 ≠ []
      ∧ (scan none).nextPass 10 = true ∧ (scan none).systemClusters ≠ [])
    ∧ (((scan (some [0])).indexes.any fun y => (y.shard.bind Shard.passWalks).isSome) = true ∧ (scan (some [0])).idleSystem.length = (scan (some [0])).systemClusters.length)
    ∧ (spent.walkHops = spent.budget ∧ filtered spent.predicate = false ∧ (walk0 .walking).walkHops ≠ (walk0 .walking).budget
      ∧ (dedupBy WEntry.slot ({ spent with predicate := leBytes 32 1 }.finalPools (walking spent))).length < spent.k
      ∧ filtered { spent with predicate := leBytes 32 1 }.predicate = true) := by
  intros
  and_intros
  all_goals decide +kernel

/-- Rescoring with no idle cluster of the system's, with candidates to read and with none; exact reads that meet poison, and the report of an error. -/
theorem test_rescoring_more_premise :
    let cand : Cand := { slot := 3, side := false, waiting := true }
    let ended := { walk0 .ended with cands := [cand] }
    let ex := { walk0 .exact with cands := [cand] }
    let s := walking ended
    let bad := hurt 12 (walking ex)
    let full := s.setFrame fun f => { f with elasticClusters := s.systemClusters }
    (s.walk 0 = some ended ∧ s.idleSystem ≠ [] ∧ s.index 10 = some index0 ∧ index0.shard = some shard0)
    ∧ (full.walk 0 = some ended ∧ full.idleSystem = [])
    ∧ (bad.walk 0 = some ex ∧ ex.cands[0]? = some cand ∧ index0.exactStride ≠ 0 ∧ bad.poisoned 12 (3 * index0.exactStride) index0.exactStride = true)
    ∧ (ex.degrade = true ∧ { ex with degrade := false }.degrade = false) := by
  intros
  and_intros
  all_goals decide +kernel

/-- A slice that has run in this tick; a row of this member, and one of another whose answer has come, with what they need. -/
theorem test_gather_more_premise :
    let ran := (lib 1).setShard 10 fun h => { h with slice := some (1, 1), ran := true }
    let r : GRead := { window := 0, row := 3, member := 0, occurrences := 1, terms := [], state := .row }
    let far := { r with member := 5, tags := [9] }
    let g := fun (r : GRead) => ({ cmd := 0, table := 21, pool := 0, bf16 := false, bags := 1, indices := 1, engines := [0], reads := [r] } : Gather)
    let s := fun (r : GRead) => ({ busyWith (lib 1) (cmdFor 0x4002 (pk [] 0 (hd 3)) .running) with gathers := [g r] }).setFabric fun f =>
      { f with reads := [{ tag := 9, member := 5, data := some (zeros 256) }] }
    ((ran.index 10).bind fun x => x.shard.map fun h => (h.slice, h.ran)) = some (some (1, 1), true)
    ∧ (r.state = .row ∧ r.member = (s r).self ∧ far.member ≠ (s far).self ∧ (s far).answered far.tags = true ∧ (s r).gather 0 = some (g r)
      ∧ (s far).gather 0 = some (g far) ∧ (s far).table 21 = some table0) := by
  intros
  and_intros
  all_goals first | rfl | decide +kernel

/-- A module whose cluster 0 runs as in `running`, ring 0 an output ring when the image's bit says so. -/
def runningOut : State := { running 0 with kernels := (running 0).kernels.map fun k => { k with image := (image 0).set 128 1 } }

/-- The rings' further forms: a response owed to a stage that is over, now and after its retirement; a slot that an operation waits for, in error or poisoned, with
tags that come back; slots of an output ring acknowledged, waiting for an expansion page, or going on; a cluster that runs nothing. -/
theorem test_ring_more_premise :
    let s := running 0
    let owes := fun (old : Bool) => s.setCluster 0 fun c => { c with owed := [{ ring := 0, mover := 0, gen := 0, output := old, tags := [4], retired := true }] }
    let young := setRing 0 0 (fun g => { g with gen := 2 }) (owes false)
    let ring := fun (n : Nat) (t : State) => setRing 0 0 (fun g => { g with active := true, len := 8, bind := some 0, issued := n, granted := 4, back := 3 }) t
    let out := fun (w a : Nat) => setRing 0 0 (fun g => { g with active := true, bind := some 0, wrote := w, acked := a, granted := 4, back := 3 }) runningOut
    let waits := (out 1 0).setObj 31 fun o => o.setPage 0 fun p => { p with expandWait := true }
    let at_ := fun (t : State) => (t.running 0).map fun r => ((r.ring 0).output, slotUnplaced r (r.ring 0) (t.ring 0 0) 0 t)
    let poison := fun (t : State) => (t.running 0).bind fun r => (r.object (t.ring 0 0)).map fun o => (slotPieces (r.ring 0) (t.ring 0 0) 0).any fun p => t.poisoned o p.1 p.2
    ((owedResponse 0 0 0 false young).map Prod.fst = some true ∧ 0 < (young.ring 0 0).gen ∧ (owedResponse 0 0 0 true (owes true)).map Prod.fst = some true)
    ∧ (at_ (ring 1 s) = some (false, false) ∧ poison (ring 1 s) = some false ∧ poison (ring 1 (hurt 31 s)) = some true)
    ∧ (at_ (ring 0 s) = some (false, false) ∧ ((ring 0 s).ring 0 0).issued ≤ 0 ∧ ((ring 0 s).ring 0 0).back < ((ring 0 s).ring 0 0).granted)
    ∧ ((at_ (out 1 0)).map Prod.fst = some true ∧ ((out 1 0).ring 0 0).acked < ((out 1 0).ring 0 0).wrote ∧ (owedResponse 0 0 0 true (out 1 0)).isNone = true)
    ∧ (((out 0 0).ring 0 0).wrote ≤ ((out 0 0).ring 0 0).acked ∧ ((out 0 0).ring 0 0).back < ((out 0 0).ring 0 0).granted)
    ∧ ((waits.running 0).map fun r => (pieces (r.ring 0) (waits.ring 0 0) 6 0 4096).any fun p => waits.expanding 31 p.1 p.2) = some true
    ∧ ((lib 1).running 0).isNone = true := by
  intros
  and_intros
  all_goals decide +kernel

/-- A run whose declared-late phase misses its DEADLINE, has a fallback that meets its interface or does not, and one that is not under DEGRADE. -/
theorem test_fallback_premise :
    let z := fun (mode fb : Nat) => ((((setRing 0 0 (fun g => { g with active := true, bind := some 0 }) (running 0)).setCluster 0 fun c =>
      { c with busy := [{ op := epiOf 32 0 }], run := c.run.map fun p => { p with named := [0] } }).setCmd 0 fun c => { c with work := [0, 0, 0, mode, fb], deadline := 4 }) : State)
    let s := fun (mode fb : Nat) (im : Bytes) => { z mode fb with
      channels := (z mode fb).channels ++ [{ chan0 5 with slot := 9 }]
      kernels := (z mode fb).kernels ++ [{ id := 1, slot := 9, image := im, clusters := [1], bounds := [1] }] }
    let other := ({ chan0 5 with slot := 9 } : Channel).handle
    let see := fun (t : State) => ((t.cmd 0).map fun c => (c.runSetting 0, c.fallback, (t.kernelOn (c.runSetting 1)).map Kernel.id), ((t.lateRuns 0).head?).map fun p => p.1.kernel)
    see (s 2 0 []) = (some (2, none, none), some 0) ∧ see (s 1 0 []) = (some (1, none, none), some 0)
    ∧ (see (s 2 other (image 0)) = (some (2, none, some 1), some 0) ∧ fallbackMeets (image 0) (image 0) = true)
    ∧ (see (s 2 other ((image 0).set 8 2)) = (some (2, none, some 1), some 0) ∧ fallbackMeets (image 0) ((image 0).set 8 2) = false)
    ∧ (s 2 other (image 0)).fitsTick 1 (phaseCharge { id := 1, slot := 9, image := image 0, clusters := [1], bounds := [1] } 0) = true
    ∧ (s 2 other (image 0)).fitsTick 1 (phaseCharge { id := 1, slot := 9, image := image 0, clusters := [1], bounds := [10 ^ 6] } 0) = false
    ∧ ((s 2 0 []).chan (handleSlot (hd 5))).isSome = true := by
  intros
  and_intros
  all_goals decide +kernel

/-- A plan's page whose turn it is; pages held for a plan until this tick; a granule of a T1 page on stack 3 of the rotation. -/
theorem test_page_more_premise :
    let plan := cmdFor 0x6004 (pk (leBytes 16 1 ++ leBytes 4 31 ++ leBytes 4 32 ++ leBytes 8 0 ++ leBytes 8 0 ++ leBytes 4 1 ++ leBytes 4 0) 0 (hd 6)) .running
    let s := { busyWith (lib 1) plan with jobs := [{ id := 0, kind := .prefetch, cmd := some 0, port := 0, phase := 1 }] }
    let held := (lib 1).setMem fun m => { m with holds := [(7, 1, 31, 0, 256)] }
    let o := { obj0 31 0 with rotation := [(0, [0, 1, 2, 3])] }
    let t := (lib 1).setObj 31 fun _ => o
    (s.frame.tail = false ∧ (s.migrateJob 32).isNone = true ∧ (s.planFor 32 0).isSome = true)
    ∧ (held.mem.holds.filter (fun h => h.1 == 7 && decide (h.2.1 ≤ held.tick))).isEmpty = false
    ∧ (t.obj 31 = some o ∧ 3 < o.pages ∧ o.pageTier 3 = 1 ∧ o.stackOf 3 = some 3 ∧ t.poisoned 31 (3 * 65536 + 256 * 255) 256 = false ∧ (hurt 31 t).poisoned 31 0 256 = true
      ∧ (t.stackList[3]?).any (fun k => k.inService) = true) := by
  intros
  and_intros
  all_goals decide +kernel

/-- Packets: one marked poisoned; an address of another member's lent page; rows on poisoned granules, of a table with and without optimiser state, past its rows,
of a table freed; a swap of a directory's entry; atomics on a poisoned granule. -/
theorem test_memory_more_premise :
    let s := lib 1
    let bad := hurt 31 (hurt 22 s)
    (({ hdr0 5 0 with poison := true }).poison = true ∧ s.resolve (2 ^ 62 + 5 * 2 ^ 51) 512 = some (.held (2 ^ 62 + 5 * 2 ^ 51)))
    ∧ (bad.table 21 = some table0 ∧ table0.holds bad.self 0 = true ∧ bad.poisoned 22 (8 * (bad.dirEntry table0 (table0.localRow 0)).1) table0.slotBytes = true)
    ∧ ((libK.table 21).map (fun t => (t.opt, t.freed, t.holds libK.self 3)) = some (true, false, true) ∧ table0.opt = false ∧ table0.rows ≤ 64)
    ∧ (s.dirAt 0x1700008 = some (table0, 1) ∧ 0x1700008 % 8 = 0 ∧ s.resolve 0x1700008 8 = some (.here 23 8))
    ∧ (bad.resolve 0x1F00000 256 = some (.here 31 0) ∧ bad.poisoned 31 0 256 = true ∧ bad.resolve 0x1F00008 8 = some (.here 31 8) ∧ bad.poisoned 31 8 8 = true
      ∧ bad.dirAt 0x1F00008 = none) := by
  intros
  and_intros
  all_goals decide +kernel

/-- A WALK that fits this tick, one that comes in the tail and is placed later, and one whose last tick is over; a gateway's copy, a destination without a route;
links of a module that has not joined; a lane beyond five, a spare, a link that is down, held out, disabled. -/
theorem test_fabric_more_premise :
    let w : Walk :=
      { id := 0, coord := 0, query := 4, index := 10, shard := 0, k := 4, width := 1, budget := 64, strict := true, degrade := true, escalation := 0, exactCount := 1
        charge := 64, sketch := zeros 32, predicate := zeros 32, tagSet := zeros 32, vector := zeros 64, admitTick := 1, deadline := 1, tick := 1, noEscalation := true }
    let tail := inHall.setFrame fun f => { f with tail := true }
    let late := inHall.setFrame fun f => { f with tick := 3 }
    let lone := (lib 1).setFabric fun f => { f with links := f.links.set 0 { state := .up4, lanes := 15, partner := 5, hallId := 9 } }
    let empty := { inHall with objs := [] }
    let l : Link := { state := .up4, lanes := 15 }
    (inHall.frame.tail = false ∧ max 1 inHall.tick = inHall.tick ∧ inHall.chargedAt inHall.tick .hops + 64 ≤ inHall.capacity .hops ∧ (placeWalk w inHall.tick inHall).2 = true)
    ∧ (max 1 (tail.tick + 1) ≠ tail.tick ∧ tail.walkTickFrom (tail.tick + 1) 64 1 1 false = some 2)
    ∧ (¬ late.tick ≤ 1 + 1 ∧ late.walkTickFrom 4 64 1 1 false = none)
    ∧ ({ hdr0 7 0 with mcast := true }.mcast = true ∧ (inHall.routeTo 1999).isNone = true)
    ∧ ((lone.fabric.links.getD 0 {}).isUp = true ∧ lone.fabric.joined = false ∧ empty.objs.isEmpty = true)
    ∧ (bit l.lanes 4 = false ∧ l.isUp = true ∧ l.failedLanes.contains 4 = false ∧ { l with failedLanes := [4] }.failedLanes.contains 4 = true
      ∧ ({ l with state := .down } : Link).isUp = false ∧ { l with heldOut := true }.heldOut = true ∧ ({ l with state := .disabled } : Link).state = .disabled) := by
  intros
  and_intros
  all_goals decide +kernel

/-- The hall tick in free running, with this member leading, and of a module that joins and of one that does not. -/
theorem test_hall_tick_more_premise :
    let m := fun (leader : Nat) => (⟨7, 50, 2, leader, 1, false, 0⟩ : Marker)
    let free := inHall.setFrame fun f => { f with align := .freeRun }
    let leads := inHall.setFabric fun f => { f with leader := 0 }
    let joins := fun (j : Bool) => inHall.setFabric fun f => { f with joined := false, joining := if j then some (3, 9) else none }
    ((free.fabric.links.getD 0 {}).isUp = true ∧ (m 5).leader = free.fabric.leader ∧ (m 5).leader ≠ free.self ∧ free.frame.align = .freeRun ∧ (m 6).leader ≠ free.fabric.leader)
    ∧ ((m 0).leader = leads.fabric.leader ∧ (m 0).leader = leads.self)
    ∧ ((joins true).fabric.joined = false ∧ (joins true).fabric.joining ≠ none ∧ (joins false).fabric.joining.isNone = true) := by
  intros
  and_intros
  all_goals decide +kernel

/-- Aging forms: a warned unit with its swap pending, one whose repairs the policy leaves alone, with its alarm and without; a window that the limit delays; a
lockout that goes on; a verification and no firmware work. -/
theorem test_mgmt_more_premise :
    let s := (up 0).setMgmt fun m => { m with agingWarned := [0] }
    let swaps := s.setMgmt fun m => { m with swaps := [(0, 1, 5)] }
    let off := putSetting 0x0501 0 s
    let alarm := raiseAlarm 0x00A (unitCode 0) off
    let w : EventWindow := { code := 0x1001, subject := 0, first := 0, last := 0, port := 0, repeats := 2, opened := 0, length := 1 }
    let full := s.setMgmt fun m => { m with windows := [w], classNow := List.replicate 8 65536 }
    let locked := s.setMgmt fun m => { m with lockout := some 500 }
    let verify := s.setMgmt fun m => { m with verifySlot := some (1, 0) }
    (spareless 0 = false ∧ bit (s.setting 0x0501) 0 = true ∧ swaps.mgmt.swaps.any (fun w => w.1 == 0) = true)
    ∧ (bit (off.setting 0x0501) 0 = false ∧ off.mgmt.alarmTable.any (fun e => e.code == 0x00A && e.subject == unitCode 0 && e.active) = false
      ∧ alarm.mgmt.alarmTable.any (fun e => e.code == 0x00A && e.subject == unitCode 0 && e.active) = true ∧ bit (alarm.setting 0x0501) 0 = false)
    ∧ (full.mgmt.windows.filter (fun x => x.code == w.code && x.subject == w.subject && decide (x.opened + x.length ≤ full.tick)) = [w]
      ∧ full.logLimit (w.code / 4096) ≤ full.mgmt.classNow.getD (w.code / 4096) 0 ∧ w.code / 4096 ≠ 0)
    ∧ (locked.mgmt.lockout = some 500 ∧ locked.frame.elapsed + locked.period < 500)
    ∧ (verify.mgmt.eraseSlot.isNone = true ∧ verify.mgmt.verifySlot = some (1, 0) ∧ s.mgmt.verifySlot.isNone = true) := by
  intros
  and_intros
  all_goals decide +kernel

/-- DOE with the host link down; requests of the wrong code, slot or index; measurements' counts and all, signed and not; control messages (PRESUMED, log entries 23
and 24). What starts the module when another condition fails. -/
theorem test_bus_and_start_more_premise :
    let s := up 0
    let down := s.setPower fun w => { w with linkUp := false }
    let at_ := fun (n : Nat) => setSpdm { via := 8, stage := n } (s.setMgmt fun m => { m with chain := zeros 8 })
    let meas := fun (attr op : Nat) => [0x12, 0xE0, attr, op].flatMap (leBytes 1)
    let chal := fun (slot sum : Nat) => [0x12, 0x83, slot, sum].flatMap (leBytes 1)
    let off := fun (en rst vin on : Bool) => State.reset.setPower fun w => { w with on := on, modEn := en, modRstN := rst, vinOk := vin }
    ((s.mgmt.responses.length = 0) ∧ down.spdmUp 0x100 = false ∧ (at_ 3).spdmUp 8 = true)
    ∧ (∀ op ∈ [0, 1, 6, 7, 0xFF], fld (meas 1 op) 3 1 = op ∧ fld (meas 1 op) 1 1 = 0xE0 ∧ bit (fld (meas 1 op) 2 1) 0 = true ∧ bit (fld (meas 0 op) 2 1) 0 = false)
    ∧ (∀ sum ∈ [0, 1, 0xFF], fld (chal 0 sum) 3 1 = sum ∧ fld (chal 1 sum) 2 1 ≠ 0 ∧ fld (chal 0 sum) 1 1 = 0x83)
    ∧ (((at_ 0).spdmAt 8).stage < 1 ∧ ((at_ 2).spdmAt 8).stage < 3 ∧ (at_ 3).mgmt.chain.length ≤ 8 ∧ fld (leBytes 8 0) 1 1 / 128 = 0)
    ∧ ((off false true false false).power.vinOk = false ∧ (off false true false false).power.modEn = false)
    ∧ ((off true false true true).power.on = true ∧ (off true false true true).power.modRstN = false)
    ∧ ((off true false false false).power.vinOk = false ∧ (off true false false false).power.modRstN = false)
    ∧ (State.reset.power.modRstN = true ∧ State.reset.power.vinOk = true ∧ State.reset.power.inStart = false) := by
  intros
  and_intros
  all_goals decide +kernel

end Sys2Proof.Tests
end

namespace Sys2Proof.Proofs

/-! The commands of the host port that write a register, unmask a vector or use the BAR2 aperture: what each does while the module is up (R5, R36, R339, R340,
R344, R345, R348), and the block's step on a waiting queue (log entry 1). -/

open Sys2Proof Sys2Proof.Machine Sys2Proof.Laws

/-! ## An effect of a running module -/

/-- A running module makes the effect, the queue kept and its host writes carried out. -/
theorem act_whenUp {s : State} (up : s.up = true) (f : State → State) : act (whenUp f) s = .next (leaves s (f s)) := by
  have runs : whenUp f s = f s := by rw [whenUp, if_pos up]
  calc act (whenUp f) s = .next (leaves s (whenUp f s)) := rfl
    _ = .next (leaves s (f s)) := by rw [runs]

/-- The same for an effect that needs the port's function to be within reach (R350). -/
theorem act_whenUp_linked {s : State} {p : Nat} (up : s.up = true) (linked : s.linked p = true) (f : State → State) :
    act (whenUp fun t => if t.linked p then f t else t) s = .next (leaves s (f s)) := by
  rw [act_whenUp up, if_pos linked]

theorem exec_registerWrite {s : State} {p : Nat} (up : s.up = true) (linked : s.linked p = true) (off n v : Nat) :
    exec (.registerWrite p off n v) s = .next (leaves s (regWrite p off n v s)) :=
  act_whenUp_linked up linked (regWrite p off n v)

theorem exec_msixUnmask {s : State} {p : Nat} (up : s.up = true) (linked : s.linked p = true) (k : Nat) :
    exec (.msixUnmask p k) s = .next (leaves s (unmaskVector p k s)) :=
  act_whenUp_linked up linked (unmaskVector p k)

theorem exec_apertureWrite {s : State} (up : s.up = true) (p req : Nat) (memory : Bool) (off : Nat) (bs : Bytes) :
    exec (.apertureWrite p req memory off bs) s = .next (leaves s (apertureWritten p req memory off bs s)) :=
  act_whenUp up (apertureWritten p req memory off bs)

theorem exec_apertureRead {s : State} (up : s.up = true) (p req off n : Nat) : exec (.apertureRead p req off n) s = .next (leaves s s) :=
  act_whenUp up id

/-! ## A write to BAR0, register by register -/

theorem regWrite_events (p n v : Nat) (s : State) :
    regWrite p 0x008 n v s = s.setPort p fun x => { x with events := clearBits 4 x.events v } := by simp [regWrite]

theorem regWrite_irqCtrl (p n v : Nat) (s : State) :
    regWrite p 0x2014 n v s = s.setPort p fun x => { x with irqCtrl := v % (if p = 0 then 16 else 8) } := by simp [regWrite]

theorem regWrite_irqStatus (p n v : Nat) (s : State) :
    regWrite p 0x2018 n v s = s.setPort p fun x => { x with irqStatus := clearBits 4 x.irqStatus v } := by simp [regWrite]

/-- INTERVAL's ten bits lie in the low two bytes, so a write of two bytes or more fixes them whatever the register held. -/
theorem putField_mod_1024 (old n v : Nat) (wide : 2 ≤ n) : putField old 4 0 (min n 4) v % 1024 = v % 1024 := by
  have low : putField old 4 0 (min n 4) v % 256 ^ min n 4 = v % 256 ^ min n 4 := putField_low old 4 (min n 4) v (Nat.min_le_right n 4)
  have divides : 1024 ∣ 256 ^ min n 4 := Nat.dvd_trans (by decide : 1024 ∣ 256 ^ 2) (Nat.pow_dvd_pow 256 (by omega))
  rw [← Nat.mod_mod_of_dvd _ divides, low, Nat.mod_mod_of_dvd _ divides]

theorem regWrite_pollInterval (p n v : Nat) (s : State) (wide : 2 ≤ n) :
    regWrite p 0x00C n v s = if 1 ≤ v % 1024 ∧ v % 1024 ≤ 1000 then s.setPort p fun x => { x with pollInterval := v % 1024 } else s := by
  simp [regWrite, putField_mod_1024 _ n v wide]

/-- The BAR0 offsets on which a write can act: the rest are RO or RSV (R5, R36, R339, R340). -/
def bar0Writable (off : Nat) : Bool :=
  off == 0x008 || off == 0x00C || (decide (0x100 ≤ off) && decide (off < 0x1C0)) || (decide (0x1000 ≤ off) && decide (off < 0x1040))
    || off == 0x2014 || off == 0x2018

theorem regWrite_of_not_writable {off : Nat} (ro : bar0Writable off = false) (p n v : Nat) (s : State) : regWrite p off n v s = s := by
  simp only [bar0Writable, Bool.or_eq_false_iff, beq_eq_false_iff_ne, Bool.and_eq_false_iff, decide_eq_false_iff_not] at ro
  obtain ⟨⟨⟨⟨⟨events, poll⟩, streams⟩, msix⟩, irqCtrl⟩, irqStatus⟩ := ro
  have cmds : ¬(0x100 ≤ off ∧ off < 0x180) := by omega
  have replies : ¬(0x180 ≤ off ∧ off < 0x1C0) := by omega
  have table : ¬(0x1000 ≤ off ∧ off < 0x1040) := by omega
  rw [regWrite, if_neg events, if_neg poll, if_neg cmds, if_neg replies, if_neg table, if_neg irqCtrl, if_neg irqStatus]

/-! ## Unmasking a vector (R348) -/

/-- The state in which vector `k` of port `p` is no longer masked. -/
def unmasked (p k : Nat) (s : State) : State :=
  s.setPort p fun x => { x with msix := modifyAt x.msix k fun e => { e with masked := false } }

/-- The state in which vector `k`'s message has left the pending bits and gone to the host. -/
def pendingSent (p k : Nat) (s : State) : State :=
  { (s.setPort p fun x => { x with pba := x.pba - 2 ^ k }) with
    msixSent := s.msixSent ++ [(p, k, ((s.port p).msix.getD k {}).addr, ((s.port p).msix.getD k {}).data)] }

theorem unmaskVector_eq {p k : Nat} (vector : k < 4) (s : State) :
    unmaskVector p k s = if bit ((unmasked p k s).port p).pba k then pendingSent p k (unmasked p k s) else unmasked p k s := by
  rw [unmaskVector, if_neg (Nat.not_le.mpr vector)]
  rfl

theorem unmaskVector_of_clear {p k : Nat} (vector : k < 4) {s : State} (clear : bit ((unmasked p k s).port p).pba k = false) :
    unmaskVector p k s = unmasked p k s := by
  rw [unmaskVector_eq vector, clear, if_neg Bool.false_ne_true]

theorem unmaskVector_of_pending {p k : Nat} (vector : k < 4) {s : State} (set : bit ((unmasked p k s).port p).pba k = true) :
    unmaskVector p k s = pendingSent p k (unmasked p k s) := by
  rw [unmaskVector_eq vector, if_pos set]

/-! ## A write to the BAR2 aperture (R344, R345) -/

/-- The window of port `p` that the `len` bytes from offset `off` of its aperture lie in. -/
def apertureWindow (s : State) (p off len : Nat) : Option Window :=
  s.windows.find? fun w => w.port == p && decide (w.aperture ≤ off) && decide (off + len ≤ w.aperture + w.bytes)

section
variable {s : State} {p : Nat} {bs : Bytes} (linked : s.linked p = true) (some_bytes : bs ≠ [])
include linked some_bytes

theorem apertureWritten_of_none (req off : Nat) (memory : Bool) (here : apertureWindow s p off bs.length = none) :
    apertureWritten p req memory off bs s = denied p s := by
  rw [apertureWindow] at here
  simp [apertureWritten, linked, some_bytes, here]

theorem apertureWritten_of_some (req off : Nat) (memory : Bool) {w : Window} (here : apertureWindow s p off bs.length = some w) :
    apertureWritten p req memory off bs s
      = if memory && w.permits req then s.writeObj w.object (w.base + (off - w.aperture)) bs else denied p s := by
  rw [apertureWindow] at here
  simp [apertureWritten, linked, some_bytes, here]

/-- A configuration or I/O request is turned away, whatever window it would lie in. -/
theorem apertureWritten_not_memory (req off : Nat) : apertureWritten p req false off bs s = denied p s := by
  cases here : apertureWindow s p off bs.length with
  | none => exact apertureWritten_of_none linked some_bytes req off false here
  | some w => simpa using apertureWritten_of_some linked some_bytes req off false here

end

/-! ## The obligations -/

/-- Settles O1: a queue that is not empty takes the step's second branch. -/
theorem stepRunsQueueFront : Obligations.StepRunsQueueFront := by
  intro c rest s waiting
  rw [step, waiting]

/-- Settles O29: each command is what `regWrite`, `unmaskVector` or `apertureWritten` makes of the state, and each register, pending bit or window is one branch
of those. -/
theorem registerWrites : Obligations.RegisterWrites := by
  refine ⟨fun s p n v up linked => ?registers, fun s p req off bs up => ⟨fun linked some_bytes => ?aperture, exec_apertureRead up p req off⟩⟩
  case registers =>
    have write : ∀ o, exec (.registerWrite p o n v) s = .next (leaves s (regWrite p o n v s)) := fun o => exec_registerWrite up linked o n v
    refine ⟨?events, ?poll_taken, ?poll_ignored, ?irqCtrl, ?irqStatus, ?readOnly, ?silent, ?pending⟩
    case events => rw [write, regWrite_events]
    case poll_taken =>
      intro wide low high
      rw [write, regWrite_pollInterval p n v s wide, if_pos ⟨low, high⟩]
    case poll_ignored =>
      intro wide outside
      rw [write, regWrite_pollInterval p n v s wide, if_neg (by omega)]
    case irqCtrl => rw [write, regWrite_irqCtrl]
    case irqStatus => rw [write, regWrite_irqStatus]
    case readOnly =>
      intro o listed
      have ro : ∀ o ∈ [0x000, 0x004, 0x010, 0x014, 0x240, 0x2000, 0x2004, 0x2008, 0x2020, 0x2024], bar0Writable o = false := by decide
      rw [write, regWrite_of_not_writable (ro o listed)]
    case silent =>
      intro k vector clear
      rw [exec_msixUnmask up linked, unmaskVector_of_clear vector clear, unmasked]
    case pending =>
      intro k vector t set
      rw [exec_msixUnmask up linked, unmaskVector_of_pending vector set, pendingSent, unmasked]
  case aperture =>
    have write : ∀ memory, exec (.apertureWrite p req memory off bs) s = .next (leaves s (apertureWritten p req memory off bs s)) :=
      fun memory => exec_apertureWrite up p req memory off bs
    refine ⟨?permitted, ?refused, ?outside, ?notMemory⟩
    case permitted =>
      intro w here permits
      rw [write, apertureWritten_of_some linked some_bytes req off true here, permits, Bool.and_self, if_pos rfl]
    case refused =>
      intro w here permits
      rw [write, apertureWritten_of_some linked some_bytes req off true here, permits, Bool.and_false, if_neg Bool.false_ne_true, denied]
    case outside =>
      intro here
      rw [write, apertureWritten_of_none linked some_bytes req off true here, denied]
    case notMemory => rw [write, apertureWritten_not_memory linked some_bytes, denied]

end Sys2Proof.Proofs

namespace Sys2Proof.Proofs

/-! The state after reset (R13, R15, R36, R38, R359), the fabric command packets (R13, R330–R332), the tail's points and what a boundary sets free (R7, R18, R19,
R24, R27, R69, R130, R328), links, neighbours and packets in transit (R317, R320, R325, R330), and the events of the management core (R8, R42, R361, R368,
R374, R387). -/

open Sys2Proof Sys2Proof.Machine Sys2Proof.Laws

/-! ## The state after reset -/

theorem reset_canonical : State.reset.Canonical := ⟨rfl, rfl⟩

/-- All nine access points start alike: operator, epoch 1, nothing negotiated, every stream off (R36, R38). -/
theorem reset_port {x : Port} (here : x ∈ State.reset.ports) :
    x.role = 0 ∧ x.epoch = 1 ∧ x.negotiated = none ∧ (∀ c ∈ x.cmds, c.state = .disabled) ∧ ∀ r ∈ x.replies, r.enable = false := by
  obtain rfl : x = {} := List.eq_of_mem_replicate here
  refine ⟨rfl, rfl, rfl, fun c stream => ?_, fun r stream => ?_⟩
  · rw [List.eq_of_mem_replicate stream]
  · rw [List.eq_of_mem_replicate stream]

/-! ## Fabric command packets as they take hold -/

section
variable {s : State} {q : Pkt}

theorem exec_fabricStatus (holds : s.takesHold 0x7001 q) : exec (.fabricStatus q) s = .next (s.after 0x7001 q (holdFabricStatus (s.holder 0x7001 q))) :=
  packet_holds 0x7001 q s holds (by decide) rfl rfl

theorem exec_fabricJoin (holds : s.takesHold 0x7002 q) : exec (.fabricJoin q) s = .next (s.after 0x7002 q (holdFabricJoin (s.holder 0x7002 q))) :=
  packet_holds 0x7002 q s holds (by decide) rfl rfl

theorem exec_fabricLeave (holds : s.takesHold 0x7003 q) : exec (.fabricLeave q) s = .next (s.after 0x7003 q (holdFabricLeave (s.holder 0x7003 q))) :=
  packet_holds 0x7003 q s holds (by decide) rfl rfl

theorem exec_linkControl (holds : s.takesHold 0x7004 q) : exec (.linkControl q) s = .next (s.after 0x7004 q (holdLinkControl (s.holder 0x7004 q))) :=
  packet_holds 0x7004 q s holds (by decide) rfl rfl

end

/-- The state of a module that is to become member `m` of `hall` at the next boundary, its FABRIC_JOIN audited and waiting for that boundary (R330). -/
def joining (c : Cmd) (m hall : Nat) (s : State) : State :=
  let u := auditFor 8 0 c.q (afield m ++ afield 0xFF ++ afield 0) s
  (u.setFabric fun f => { f with joining := some (m, hall) }).setCmd c.id fun d =>
    { d with state := .running, admitTick := u.tick, stages := [{ kind := .slow, tick := u.tick + 1, charge := [] }] }

theorem holdFabricJoin_of_free {c : Cmd} {s : State} (standalone : s.fabric.joined = false)
    (free : (s.fabric.reached (fld c.q.params 8 8)).contains (fld c.q.params 0 2 % 2048) = false) :
    holdFabricJoin c s = joining c (fld c.q.params 0 2 % 2048) (fld c.q.params 8 8) s := by
  have accepted : joinRefused c.q s = false := by rw [joinRefused, standalone, free, Bool.or_self]
  rw [holdFabricJoin, accepted, if_neg Bool.false_ne_true, joining]

theorem reserveDefault_fabric (joined : Bool) (s : State) : (reserveDefault joined s).fabric = s.fabric := by
  unfold reserveDefault
  repeat' split
  all_goals rfl

/-- A module that leaves is standalone: it knows itself alone, leads itself and has no routes (R13, R331). -/
theorem leaveFabric_standalone (t : State) :
    (leaveFabric t).fabric.joined = false ∧ (leaveFabric t).fabric.members = [t.fabric.member] ∧ (leaveFabric t).fabric.leader = t.fabric.member
      ∧ (leaveFabric t).fabric.routes = [] := by
  simp [leaveFabric, reserveDefault_fabric]

/-! ## The points of a tick -/

section
variable {s : State} (up : s.up = true)
include up

theorem exec_cutOff : exec .cutOff s = .next (leaves s (cutOff s)) := act_whenUp up cutOff

theorem exec_exactLimit : exec .exactLimit s = .next (leaves s (exactLimit s)) := act_whenUp up exactLimit

theorem exec_listLimit : exec .listLimit s = .next (leaves s (listLimit s)) := act_whenUp up listLimit

theorem exec_admissionWaitExpiry (id : Nat) : exec (.admissionWaitExpiry id) s = .next (leaves s (admissionExpired id s)) :=
  act_whenUp up (admissionExpired id)

theorem exec_channelFree (k : Nat) : exec (.channelFree k) s = .next (leaves s (freeChannel k s)) := act_whenUp up (freeChannel k)

theorem exec_spaceRelease : exec .spaceRelease s = .next (leaves s (releaseFreed s)) := act_whenUp up releaseFreed

theorem exec_jobStalled (id : Nat) : exec (.jobStalled id) s = .next (leaves s (jobStalled id s)) := act_whenUp up (jobStalled id)

end

/-- The cut-off takes effect once a tick (R24). -/
theorem cutOff_of_tail {s : State} (tail : s.frame.tail = true) : cutOff s = s := by rw [cutOff, if_pos tail]

theorem cutOff_of_open {s : State} (before : s.frame.tail = false) :
    cutOff s =
      (let w := walksCutOff (s.setFrame fun f => { f with tail := true })
       let p := (w.cmds.map Cmd.id).foldl phaseCutOff w
       let g := (p.gathers.map Gather.cmd).foldl gatherCutOff p
       pageJobsCutOff ((g.updates.map Update.cmd).foldl updCutOff g)) := by
  rw [cutOff, before, if_neg Bool.false_ne_true]

section
variable {s : State} {id : Nat} {c : Cmd} {g : Gather} (batch : s.gather id = some g) (command : s.cmd id = some c)
include batch command

theorem gatherCutOff_of_elastic (elastic : c.strict = false) : gatherCutOff s id = s := by
  simp [gatherCutOff, batch, command, elastic]

/-- A STRICT batch that has met no error misses its deadline (R24, R257). -/
theorem gatherCutOff_of_miss (strict : c.strict = true) (sound : c.faultTier = none) :
    gatherCutOff s id = finish c { status := status 4 3, detail := missDetail g.late } (dropGather id s) := by
  simp [gatherCutOff, batch, command, strict, sound]

/-- An uncorrectable error seen before outranks the miss (R61). -/
theorem gatherCutOff_of_fault (strict : c.strict = true) {tier : Nat} (hurt : c.faultTier = some tier) :
    gatherCutOff s id = finish c { status := status 5 1, detail := tier } (dropGather id s) := by
  simp [gatherCutOff, batch, command, strict, hurt]

end

theorem answer_waits {c : Cmd} {f : Final} {s : State} (before : s.frame.tail = false) (tailed : repliesInTail c.op f = true) :
    answer c f s = s.setFrame fun x => { x with decided := x.decided ++ [⟨c, f⟩] } := by
  rw [answer, tailed, before, Bool.not_false, Bool.and_self, if_pos rfl]

theorem answer_issues {c : Cmd} {f : Final} {s : State} (due : s.frame.tail = true ∨ repliesInTail c.op f = false) : answer c f s = issueReply c f s := by
  have now : ¬(repliesInTail c.op f && !s.frame.tail) = true := by
    rcases due with tail | prompt
    · simp [tail]
    · simp [prompt]
  rw [answer, if_neg now]

/-! ## Waiting and release -/

theorem admissionExpired_of_waited {s : State} {id : Nat} {c : Cmd} (command : s.cmd id = some c) (waiting : c.state = .waiting)
    (long : s.setting 0x0105 ≤ c.waited) : admissionExpired id s = admitOne s id := by
  simp [admissionExpired, command, waiting, long]

theorem admissionExpired_of_early {s : State} {id : Nat} {c : Cmd} (command : s.cmd id = some c) (early : c.waited < s.setting 0x0105) :
    admissionExpired id s = s := by
  simp [admissionExpired, command, Nat.not_le.mpr early]

theorem modifyIf_cons {α : Type} (a : α) (l : List α) (p : α → Bool) (f : α → α) :
    modifyIf (a :: l) p f = (if p a then f a else a) :: modifyIf l p f := rfl

/-- Changing the elements of key `k`, each into one of key `k`, changes what a search by key finds at `k` alone. -/
theorem find?_modifyIf_key {α : Type} (key : α → Nat) (k j : Nat) {f : α → α} (keeps : ∀ x, key x = k → key (f x) = k) (l : List α) :
    (modifyIf l (fun x => key x == k) f).find? (fun x => key x == j) = (l.find? fun x => key x == j).map fun x => if j = k then f x else x := by
  induction l with
  | nil => rfl
  | cons a l ih =>
    by_cases hit : key a = k
    · by_cases found : k = j
      · subst found
        simp [modifyIf_cons, hit, keeps a hit]
      · simp [modifyIf_cons, hit, keeps a hit, found, ih]
    · by_cases found : key a = j
      · have other : j ≠ k := found ▸ hit
        simp [modifyIf_cons, found, other]
      · simp [modifyIf_cons, hit, found, ih]

theorem setChan_chan (k j : Nat) {f : Channel → Channel} (keeps : ∀ h : Channel, h.slot = k → (f h).slot = k) (s : State) :
    (s.setChan k f).chan j = (s.chan j).map fun h => if j = k then f h else h :=
  find?_modifyIf_key Channel.slot k j keeps s.channels

/-- What CHANNEL_FREE makes of the channel in the slot it names (R66, R69). -/
def slotFreed (tick : Nat) (h : Channel) : Channel :=
  if h.state == .destroying && decide (h.freeAt ≤ tick) then { slot := h.slot, gen := h.gen % 255 + 1 } else h

theorem slotFreed_slot (tick : Nat) (h : Channel) : (slotFreed tick h).slot = h.slot := by
  unfold slotFreed
  split <;> rfl

theorem slotFreed_of_due {tick : Nat} {h : Channel} (destroying : h.state = .destroying) (due : h.freeAt ≤ tick) :
    slotFreed tick h = { slot := h.slot, gen := h.gen % 255 + 1 } := by
  simp [slotFreed, destroying, due]

theorem slotFreed_of_not_due {tick : Nat} {h : Channel} (kept : h.state ≠ .destroying ∨ tick < h.freeAt) : slotFreed tick h = h := by
  rcases kept with alive | early
  · simp [slotFreed, alive]
  · simp [slotFreed, Nat.not_le.mpr early]

theorem freeChannel_chan (k j : Nat) (s : State) : (freeChannel k s).chan j = (s.chan j).map fun h => if j = k then slotFreed s.tick h else h :=
  setChan_chan k j (fun h here => (slotFreed_slot s.tick h).trans here) s

theorem freeChannel_chan_same {k : Nat} {s : State} {h : Channel} (here : s.chan k = some h) : (freeChannel k s).chan k = some (slotFreed s.tick h) := by
  rw [freeChannel_chan, here, Option.map_some, if_pos rfl]

theorem freeChannel_chan_other {k j : Nat} (other : j ≠ k) (s : State) : (freeChannel k s).chan j = s.chan j := by
  rw [freeChannel_chan]
  simp [other]

theorem jobStalled_of_find {s : State} {id : Nat} {j : Job} (here : s.jobs.find? (fun j => j.id == id) = some j) :
    jobStalled id s = if 255 ≤ j.stall then raiseAlarm 0x004 id s else s := by
  rw [jobStalled, here]

/-! ## Links, neighbours and packets in transit -/

section
variable {s : State} (up : s.up = true)
include up

theorem exec_ack {h : FabHdr} (joined : s.fabric.joined = true) (mine : h.dst = s.self) (upTo : Nat) :
    exec (.ack h upTo) s = .next (leaves s (acked h.src upTo s)) := by
  have taken : (!s.fabric.joined || h.dst != s.self) = false := by simp [joined, mine]
  calc exec (.ack h upTo) s = .next (leaves s (if !s.fabric.joined || h.dst != s.self then s else acked h.src upTo s)) :=
        act_whenUp up fun s => if !s.fabric.joined || h.dst != s.self then s else acked h.src upTo s
    _ = .next (leaves s (acked h.src upTo s)) := by rw [taken, if_neg Bool.false_ne_true]

theorem exec_pktResend (dst seq : Nat) : exec (.pktResend dst seq) s = .next (leaves s (resend dst seq s)) := act_whenUp up (resend dst seq)

theorem exec_transitForward (h : FabHdr) (typ : Nat) (bs : Bytes) (ms : List Nat) :
    exec (.transitForward h typ bs ms) s = .next (leaves s (forward h typ bs ms s)) := act_whenUp up (forward h typ bs ms)

theorem exec_linkInfo (k : Nat) (live : List LiveLink) : exec (.linkInfo k live) s = .next (leaves s (linkInfo k live s)) := act_whenUp up (linkInfo k live)

theorem exec_join (k hall member : Nat) (ok : Bool) : exec (.join k hall member ok) s = .next (leaves s (joinArrives k hall member ok s)) :=
  act_whenUp up (joinArrives k hall member ok)

end

/-- The state after packet `p`, sent `k` times before, is sent again with RETRY (R320). -/
def sentAgain (dst : Nat) (p : FabPkt) (k : Nat) (s : State) : State :=
  s.setFabric fun f => { f with
    sent := f.sent ++ [{ p with retry := true, link := assocGet dst f.routes }]
    unacked := modifyIf f.unacked (fun x => x == (p, k)) fun x => (x.1, k + 1)
    pktResend := satAdd f.pktResend 1 }

/-- The state after packet `p` is given up: its consumer's rule decides, and packets that waited for the pair's window go out (R320). -/
def givenUp (dst seq : Nat) (p : FabPkt) (k : Nat) (s : State) : State :=
  updAcked (sendBacklog dst ((updLost dst seq s).setFabric fun f => { f with
    unacked := f.unacked.filter fun x => x != (p, k), pktUnreachable := satAdd f.pktUnreachable 1 }))

theorem resend_of_find {s : State} {dst seq k : Nat} {p : FabPkt}
    (here : s.fabric.unacked.find? (fun p => p.1.dst == dst && p.1.pairSeq == seq && !s.fabric.backlog.contains p.1) = some (p, k)) :
    resend dst seq s = if k < 3 then sentAgain dst p k s else givenUp dst seq p k s := by
  rw [resend, here]
  rfl

/-- A packet that passes through, as this member sends it on to `dst` (R317, R325). -/
def transitPkt (h : FabHdr) (typ : Nat) (bs : Bytes) (dst : Nat) : FabPkt :=
  { typ := typ, cls := h.cls, mcast := h.mcast, dst := dst, pairSeq := h.pairSeq, coord := h.coord, query := h.query, admitTick := h.admitTick
    deadline := h.deadline, poison := h.poison, retry := h.retry, spec := bs.take 11, payload := bs.drop 11, src := some h.src }

theorem forward_of_multicast {h : FabHdr} (multicast : h.mcast = true) (typ : Nat) (bs : Bytes) (ms : List Nat) (s : State) :
    forward h typ bs ms s
      = (ms.filter fun m => m / 32 == s.self / 32 && m != s.self && s.canReach m).foldl (fun t m => sendRaw (transitPkt h typ bs m) t) s := by
  rw [forward, if_pos multicast]
  rfl

theorem forward_of_route {h : FabHdr} (unicast : h.mcast = false) {s : State} (away : h.dst ≠ s.self) {l : Nat} (route : s.routeTo h.dst = some l)
    (typ : Nat) (bs : Bytes) (ms : List Nat) : forward h typ bs ms s = sendRaw (transitPkt h typ bs h.dst) s := by
  have goes : h.dst ≠ s.self ∧ (s.routeTo h.dst).isSome = true := ⟨away, by rw [route]; rfl⟩
  rw [forward, unicast, if_neg Bool.false_ne_true, if_pos goes, ← unicast]
  rfl

theorem forward_of_no_route {h : FabHdr} (unicast : h.mcast = false) {s : State} (lost : s.routeTo h.dst = none) (typ : Nat) (bs : Bytes) (ms : List Nat) :
    forward h typ bs ms s = s := by
  have stays : ¬(h.dst ≠ s.self ∧ (s.routeTo h.dst).isSome = true) := by simp [lost]
  rw [forward, unicast, if_neg Bool.false_ne_true, if_neg stays]

theorem linkInfo_of_up {s : State} {k : Nat} (isUp : (s.fabric.links.getD k {}).isUp = true) (live : List LiveLink) :
    linkInfo k live s =
      (let t := s.setLink k fun l => { l with advertised := live }
       routesStale (if s.fabric.joined then learnOf (live.flatMap fun p => [p.a, p.b]) t else t)) := by
  rw [linkInfo, if_pos isUp]
  rfl

theorem lentBack_of_no_objects {s : State} (bare : s.objs = []) (m : Nat) : lentBack s m = s := by simp [lentBack, bare]

theorem foldl_lentBack_of_no_objects {s : State} (bare : s.objs = []) (ms : List Nat) : ms.foldl lentBack s = s := by
  induction ms with
  | nil => rfl
  | cons m ms ih => rw [List.foldl_cons, lentBack_of_no_objects bare, ih]

/-- With no objects nothing is lent, so learning of members changes what is known of the fabric alone (R13, R301). -/
theorem learnOf_of_no_objects {s : State} (bare : s.objs = []) (ms : List Nat) : learnOf ms s = s.setFabric fun f => f.learn ms := by
  have still : (s.setFabric fun f => f.learn ms).objs = [] := bare
  rw [learnOf, foldl_lentBack_of_no_objects still]

section
variable {s : State} {k : Nat} (link : k < 36) (joined : s.fabric.joined = true) (isUp : (s.fabric.links.getD k {}).isUp = true)
include link joined isUp

/-- On a link that is up a JOIN turns on the partner's hall and certificate, and on its number (R330). -/
theorem joinArrives_of_up (hall member : Nat) (ok : Bool) :
    joinArrives k hall member ok s =
      if !ok || hall != s.fabric.hallId then routesStale (s.setLink k fun l => { l with state := .refused, lanes := 0, hallId := hall })
      else if member = s.self then s
      else routesStale (learnOf [member] (s.setLink k fun l => { l with hallId := hall, partner := member }.settle)) := by
  have carries : ¬(36 ≤ k ∨ s.fabric.joined = false ∨ (s.fabric.links.getD k {}).state = .disabled ∨ (s.fabric.links.getD k {}).state = .down
      ∨ (s.fabric.links.getD k {}).state = .training) := by
    rintro (beyond | standalone | off | off | off)
    · omega
    · rw [joined] at standalone; contradiction
    all_goals rw [Link.isUp, Link.widthCode, off] at isUp; contradiction
  rw [joinArrives, if_neg carries]

theorem joinArrives_of_foreign {hall : Nat} {ok : Bool} (foreign : ok = false ∨ hall ≠ s.fabric.hallId) (member : Nat) :
    joinArrives k hall member ok s = routesStale (s.setLink k fun l => { l with state := .refused, lanes := 0, hallId := hall }) := by
  rw [joinArrives_of_up link joined isUp, if_pos]
  simpa using foreign

theorem joinArrives_of_partner {member : Nat} (other : member ≠ s.self) :
    joinArrives k s.fabric.hallId member true s
      = routesStale (learnOf [member] (s.setLink k fun l => { l with hallId := s.fabric.hallId, partner := member }.settle)) := by
  rw [joinArrives_of_up link joined isUp, if_neg (by simp), if_neg other]

end

/-! ## Aging readings -/

theorem setting_of_sameWork {s t : State} (same : s.sameWork t) (sid : Nat) : t.setting sid = s.setting sid := by
  obtain ⟨-, -, -, settings, -⟩ := same
  rw [State.setting, State.setting, settings]

/-- A unit's first reading below AGING_WARN is noted and is an event (R361). -/
def agingWarned (u : Nat) (s : State) : State :=
  event 3 "AGING_WARN" 0xFF (unitCode u) (s.setMgmt fun m => { m with agingWarned := m.agingWarned ++ [u] })

theorem agingWarned_setting (u : Nat) (s : State) (sid : Nat) : (agingWarned u s).setting sid = s.setting sid :=
  setting_of_sameWork (sameWork_trans (setMgmt_sameWork _ s) (event_sameWork _ _ _ _ _)) sid

/-- What a reading below AGING_MARGIN decides (R361, R363). -/
def agingDecided (u r : Nat) (s : State) : State :=
  if spareless u then raiseAlarm 0x00B (unitCode u) s
  else if bit (s.setting 0x0501) 0 then
    (if s.mgmt.swaps.any (fun w => w.1 == u) then s else s.setMgmt fun m => { m with swaps := m.swaps ++ [(u, 1, r)] })
  else if s.mgmt.alarmTable.any fun e => e.code == 0x00A && e.subject == unitCode u && e.active then s
  else raiseAlarm 0x00A (unitCode u) (recordRepair 11 1 (unitCode u) 0xFFFFFFFF r s)

theorem agingRead_eq (s : State) (u r : Nat) :
    agingRead s (u, r) =
      (let t := if decide (r < s.setting 0x0503) && !s.mgmt.agingWarned.contains u then agingWarned u s else s
       if t.setting 0x0502 ≤ r then t else agingDecided u r t) := rfl

theorem agingRead_of_quiet {s : State} {u r : Nat} (enough : s.setting 0x0502 ≤ r)
    (quiet : s.setting 0x0503 ≤ r ∨ s.mgmt.agingWarned.contains u = true) : agingRead s (u, r) = s := by
  have silent : (decide (r < s.setting 0x0503) && !s.mgmt.agingWarned.contains u) = false := by
    rcases quiet with high | known
    · simp [Nat.not_lt.mpr high]
    · rw [known, Bool.not_true, Bool.and_false]
  rw [agingRead_eq, silent]
  exact if_pos enough

theorem agingRead_of_first_warning {s : State} {u r : Nat} (enough : s.setting 0x0502 ≤ r) (low : r < s.setting 0x0503)
    (first : s.mgmt.agingWarned.contains u = false) : agingRead s (u, r) = agingWarned u s := by
  have warns : (decide (r < s.setting 0x0503) && !s.mgmt.agingWarned.contains u) = true := by rw [first, decide_eq_true low]; rfl
  rw [agingRead_eq, warns]
  exact if_pos (by rw [if_pos rfl, agingWarned_setting]; exact enough)

section
variable {s : State} {u r : Nat} (known : s.mgmt.agingWarned.contains u = true) (low : r < s.setting 0x0502)
include known low

theorem agingRead_of_low : agingRead s (u, r) = agingDecided u r s := by
  rw [agingRead_eq, known, Bool.not_true, Bool.and_false]
  exact if_neg (Nat.not_le.mpr low)

theorem agingRead_of_spareless (bare : spareless u = true) : agingRead s (u, r) = raiseAlarm 0x00B (unitCode u) s := by
  rw [agingRead_of_low known low, agingDecided, if_pos bare]

section
variable (spared : spareless u = false)
include spared

theorem agingRead_of_auto (auto : bit (s.setting 0x0501) 0 = true) :
    agingRead s (u, r)
      = if s.mgmt.swaps.any (fun w => w.1 == u) then s else s.setMgmt fun m => { m with swaps := m.swaps ++ [(u, 1, r)] } := by
  rw [agingRead_of_low known low, agingDecided, spared, if_neg Bool.false_ne_true, if_pos auto]

theorem agingRead_of_operator (operator : bit (s.setting 0x0501) 0 = false) :
    agingRead s (u, r)
      = if s.mgmt.alarmTable.any (fun e => e.code == 0x00A && e.subject == unitCode u && e.active) then s
        else raiseAlarm 0x00A (unitCode u) (recordRepair 11 1 (unitCode u) 0xFFFFFFFF r s) := by
  rw [agingRead_of_low known low, agingDecided, spared, operator, if_neg Bool.false_ne_true, if_neg Bool.false_ne_true]

end
end

/-! ## Windows, the lockout, the management bus, the flash -/

/-- The windows of a code and subject that have run their length close (R387). -/
def dueClosed (code subject : Nat) (s : State) : State :=
  (s.mgmt.windows.filter fun w => w.code == code && w.subject == subject && s.windowDue w).foldl closeWindow s

section
variable {s : State} (up : s.up = true)
include up

theorem exec_agingMonitorRead (rs : List (Nat × Nat)) : exec (.agingMonitorRead rs) s = .next (leaves s (rs.foldl agingRead s)) :=
  act_whenUp up fun s => rs.foldl agingRead s

theorem exec_agingMonitorRead_one (u r : Nat) : exec (.agingMonitorRead [(u, r)]) s = .next (leaves s (agingRead s (u, r))) :=
  exec_agingMonitorRead up [(u, r)]

theorem exec_coalesceWindowClose (code subject : Nat) :
    exec (.coalesceWindowClose code subject) s = .next (leaves s (dueClosed code subject s)) :=
  act_whenUp up (dueClosed code subject)

theorem exec_lockoutEnd : exec .lockoutEnd s = .next (leaves s (lockoutEnded s)) := act_whenUp up lockoutEnded

theorem exec_controlBarSaturated :
    exec .controlBarSaturated s = .next (leaves s (raiseAlarm 0x00F 0 (s.setMgmt fun m => { m with calmTicks := 0 }))) :=
  act_whenUp up fun s => raiseAlarm 0x00F 0 (s.setMgmt fun m => { m with calmTicks := 0 })

theorem exec_discardedMctpMessage (typ : Nat) :
    exec (.discardedMctpMessage typ) s
      = .next (leaves s (if typ == 0 || typ == 5 || typ == 0x7E then s else s.setMgmt fun m => { m with badMsg := satAdd m.badMsg 1 })) :=
  act_served (fun s => if typ == 0 || typ == 5 || typ == 0x7E then s else s.setMgmt fun m => { m with badMsg := satAdd m.badMsg 1 }) s (mgmtUp_of_up s up)

theorem exec_dynamicAddressAssignment (addr : Nat) :
    exec (.dynamicAddressAssignment addr) s = .next (leaves s (s.setMgmt fun m => { m with dynAddr := addr % 128 })) :=
  act_served (fun s => s.setMgmt fun m => { m with dynAddr := addr % 128 }) s (mgmtUp_of_up s up)

theorem exec_flashEraseEnd : exec .flashEraseEnd s = .next (leaves s (flashEnded s)) := act_whenUp up flashEnded

end

theorem dueClosed_of_only {s : State} {w : EventWindow}
    (only : s.mgmt.windows.filter (fun x => x.code == w.code && x.subject == w.subject && decide (x.opened + x.length ≤ s.tick)) = [w]) :
    dueClosed w.code w.subject s = closeWindow s w := by
  have due : s.mgmt.windows.filter (fun x => x.code == w.code && x.subject == w.subject && s.windowDue x) = [w] := only
  rw [dueClosed, due, List.foldl_cons, List.foldl_nil]

theorem closeWindow_of_no_repeats {w : EventWindow} (unrepeated : w.repeats = 0) (s : State) : closeWindow s w = dropWindow w s := by
  rw [closeWindow, if_pos unrepeated]

section
variable {w : EventWindow} (some_repeats : w.repeats ≠ 0) {s : State}
include some_repeats

theorem closeWindow_of_room (room : s.mgmt.classNow.getD (w.code / 4096) 0 < s.logLimit (w.code / 4096)) :
    closeWindow s w = putRecord (w.code / 4096) (w.code % 4096) 1 w.port w.repeats w.first w.last w.subject [] (dropWindow w s) := by
  rw [closeWindow, if_neg some_repeats, if_neg fun spent => Nat.not_le.mpr room spent.2]

theorem closeWindow_of_spent (limited : w.code / 4096 ≠ 0) (spent : s.logLimit (w.code / 4096) ≤ s.mgmt.classNow.getD (w.code / 4096) 0) :
    closeWindow s w = s.setMgmt fun m => { m with
      windows := modifyIf m.windows (fun x => x.code == w.code && x.subject == w.subject && x.opened == w.opened) fun x => { x with closing := true } } := by
  rw [closeWindow, if_neg some_repeats, if_pos ⟨limited, spent⟩]

end

theorem lockoutEnded_of_none {s : State} (clear : s.mgmt.lockout = none) : lockoutEnded s = s := by rw [lockoutEnded, clear]

theorem lockoutEnded_of_some {s : State} {t : Nat} (locked : s.mgmt.lockout = some t) :
    lockoutEnded s =
      if t ≤ s.frame.elapsed + s.period then
        clearAlarm 0x001 0 (auditWrite 3 0 8 (s.role 8) 0 0 (afield 4) (s.setMgmt fun m => { m with lockout := none, failedAnswers := 0 }))
      else s := by
  rw [lockoutEnded, locked]

theorem flashEnded_of_erase {s : State} {slot id : Nat} {c : Cmd} (erasing : s.mgmt.eraseSlot = some (slot, id)) (command : s.cmd id = some c) :
    flashEnded s = finish c (okDone 0) (s.setMgmt fun m => { m with eraseSlot := none }) := by
  have still : (s.setMgmt fun m => { m with eraseSlot := none }).cmd id = some c := command
  simp [flashEnded, erasing, still]

theorem flashEnded_of_verify {s : State} {slot id : Nat} (idle : s.mgmt.eraseSlot = none) (verifying : s.mgmt.verifySlot = some (slot, id)) :
    flashEnded s = fwVerified slot id s := by
  simp [flashEnded, idle, verifying]

theorem flashEnded_of_idle {s : State} (idle : s.mgmt.eraseSlot = none) (unverified : s.mgmt.verifySlot = none) : flashEnded s = s := by
  simp [flashEnded, idle, unverified]

/-! ## The obligations -/

/-- Settles O5: each member of the reset state is read off its definition, the ports by being copies of one default port. -/
theorem resetLeaves : Obligations.ResetLeaves :=
  ⟨⟨reset_canonical, rfl⟩, rfl, rfl, rfl, rfl, rfl, rfl, fun _ here => reset_port here, rfl, rfl, rfl, rfl, rfl, rfl, rfl, rfl, rfl, rfl⟩

/-- Settles O17: a packet that takes hold does what its opcode's act does; the act of a JOIN turns on `joinRefused`. -/
theorem fabricPackets : Obligations.FabricPackets := by
  intro s q
  refine ⟨fun holds => exec_fabricStatus holds, ?join, fun holds => exec_fabricLeave holds, fun holds => exec_linkControl holds, leaveFabric_standalone⟩
  case join =>
    intro t holds standalone free
    have accepted : holdFabricJoin (s.holder 0x7002 q) t = joining (s.holder 0x7002 q) (fld q.params 0 2 % 2048) (fld q.params 8 8) t :=
      holdFabricJoin_of_free standalone free
    rw [exec_fabricJoin holds, State.after, accepted]
    rfl

/-- Settles O35: each point of the tail and each release is its operation, and each operation's cases are those of its definition. -/
theorem tailAndRelease : Obligations.TailAndRelease := by
  refine ⟨fun s up => ⟨?cutOffOnce, ?cutOff, ?batchEnds, ?batchGoesOn, exec_exactLimit up, exec_listLimit up, ?replies⟩,
    fun s up => ⟨?waited, ?early, ?slot, exec_spaceRelease up, ?stalled⟩⟩
  case cutOffOnce =>
    intro tail
    rw [exec_cutOff up, cutOff_of_tail tail]
  case cutOff =>
    intro before
    rw [exec_cutOff up, cutOff_of_open before]
    rfl
  case batchEnds =>
    intro id c g batch command strict
    exact ⟨fun sound => gatherCutOff_of_miss batch command strict sound, fun tier hurt => gatherCutOff_of_fault batch command strict hurt⟩
  case batchGoesOn =>
    intro id c g batch command elastic
    exact gatherCutOff_of_elastic batch command elastic
  case replies => exact fun c f => ⟨answer_waits, answer_issues⟩
  case waited =>
    intro id c command waiting long
    rw [exec_admissionWaitExpiry up, admissionExpired_of_waited command waiting long]
  case early =>
    intro id c command early
    rw [exec_admissionWaitExpiry up, admissionExpired_of_early command early]
  case slot =>
    intro k h here
    have freed : (leaves s (freeChannel k s)).chan k = some (slotFreed s.tick h) := freeChannel_chan_same here
    refine ⟨_, exec_channelFree up k, fun destroying due => ?_, fun kept => ?_, fun j other => freeChannel_chan_other other s⟩
    · rw [freed, slotFreed_of_due destroying due]
    · rw [freed, slotFreed_of_not_due kept]
  case stalled =>
    intro id j here
    have alarm := jobStalled_of_find here
    constructor
    · intro long
      rw [exec_jobStalled up, alarm, if_pos long]
    · intro short
      rw [exec_jobStalled up, alarm, if_neg (Nat.not_le.mpr short)]

/-- Settles O50: each link command is its operation, whose cases are those of its definition; a module without objects has lent no page, so what it learns of
members is all that changes. -/
theorem linkPackets : Obligations.LinkPackets := by
  intro s up
  refine ⟨fun h upTo joined mine => exec_ack up joined mine upTo, ?resend, ?transit, ?multicastOrLost, ?linkInfo, fun ms t bare => learnOf_of_no_objects bare ms, ?join⟩
  case resend =>
    intro dst seq k p here
    have retried := resend_of_find here
    constructor
    · intro few
      rw [exec_pktResend up, retried, if_pos few]
      rfl
    · intro many
      rw [exec_pktResend up, retried, if_neg (Nat.not_lt.mpr many)]
      rfl
  case transit =>
    intro h typ l bs unicast away route
    rw [exec_transitForward up, forward_of_route unicast away route, transitPkt, unicast]
    rfl
  case multicastOrLost =>
    intro h typ bs ms
    constructor
    · intro multicast
      rw [exec_transitForward up, forward_of_multicast multicast]
      simp only [transitPkt, multicast]
    · intro unicast lost
      rw [exec_transitForward up, forward_of_no_route unicast lost]
  case linkInfo =>
    intro k live isUp t
    have told := linkInfo_of_up isUp live
    constructor
    · intro joined
      rw [exec_linkInfo up, told, joined]
      rfl
    · intro standalone
      rw [exec_linkInfo up, told, standalone]
      rfl
  case join =>
    intro k hall member ok link joined isUp
    constructor
    · intro foreign
      rw [exec_join up, joinArrives_of_foreign link joined isUp foreign]
    · rintro rfl rfl other
      rw [exec_join up, joinArrives_of_partner link joined isUp other]

/-- Settles O54: each event of the management core is its operation, whose cases are those of its definition; a warning leaves the settings, so a reading that
warns is still held to AGING_MARGIN as it stood. -/
theorem mgmtEvents : Obligations.MgmtEvents := by
  intro s up
  refine ⟨?warning, ?swap, ?bare, ?operator, ?decided, exec_agingMonitorRead up, ?window, ?locked, ?unlocked, ?lockoutEnds, exec_controlBarSaturated up,
    ?badMessage, ?message, ?address, ?erased, ?verified, ?idle⟩
  case warning =>
    intro u r enough
    constructor
    · intro quiet
      rw [exec_agingMonitorRead_one up, agingRead_of_quiet enough quiet]
    · intro low first
      rw [exec_agingMonitorRead_one up, agingRead_of_first_warning enough low first, agingWarned]
  case swap =>
    intro u r known low spared auto undecided
    rw [exec_agingMonitorRead_one up, agingRead_of_auto known low spared auto, undecided, if_neg Bool.false_ne_true]
  case bare =>
    intro u r known low bare
    rw [exec_agingMonitorRead_one up, agingRead_of_spareless known low bare]
  case operator =>
    intro u r known low spared operator
    have alarm := agingRead_of_operator known low spared operator
    constructor
    · intro quiet
      rw [exec_agingMonitorRead_one up, alarm, quiet, if_neg Bool.false_ne_true]
    · intro active
      rw [exec_agingMonitorRead_one up, alarm, if_pos active]
  case decided =>
    intro u r known low spared auto decided
    rw [exec_agingMonitorRead_one up, agingRead_of_auto known low spared auto, if_pos decided]
  case window =>
    intro w only gone
    refine ⟨fun unrepeated => ?_, fun some_repeats room => ?_, fun some_repeats limited spent => ?_⟩
    · rw [exec_coalesceWindowClose up, dueClosed_of_only only, closeWindow_of_no_repeats unrepeated]
      rfl
    · rw [exec_coalesceWindowClose up, dueClosed_of_only only, closeWindow_of_room some_repeats room]
      rfl
    · rw [exec_coalesceWindowClose up, dueClosed_of_only only, closeWindow_of_spent some_repeats limited spent]
  case locked =>
    intro t locked early
    rw [exec_lockoutEnd up, lockoutEnded_of_some locked, if_neg (Nat.not_le.mpr early)]
  case unlocked =>
    intro clear
    rw [exec_lockoutEnd up, lockoutEnded_of_none clear]
  case lockoutEnds =>
    intro t locked ended
    rw [exec_lockoutEnd up, lockoutEnded_of_some locked, if_pos ended]
  case badMessage =>
    intro typ not0 not5 not7E
    rw [exec_discardedMctpMessage up, if_neg (by simp [not0, not5, not7E])]
  case message =>
    intro typ served
    rw [exec_discardedMctpMessage up, if_pos (by simpa [or_assoc] using served)]
  case address =>
    intro addr small
    rw [exec_dynamicAddressAssignment up, Nat.mod_eq_of_lt small]
  case erased =>
    intro slot id c erasing command
    rw [exec_flashEraseEnd up, flashEnded_of_erase erasing command]
  case verified =>
    intro slot id idle verifying
    rw [exec_flashEraseEnd up, flashEnded_of_verify idle verifying]
  case idle =>
    intro idle unverified
    rw [exec_flashEraseEnd up, flashEnded_of_idle idle unverified]

end Sys2Proof.Proofs

namespace Sys2Proof.Proofs

/-! Command packets: those that only read (R75, R161, R332, R366, R376, R379, R384, R389, R390, R407), the session packets and ABORT (R48, R62, R64, R353,
R407), the object packets (R279, R285, R288, R289, R292), the packets that are admitted (R19, R22, R70, R259, R327), and BUSY (R20, R55). -/

open Sys2Proof Sys2Proof.Machine Sys2Proof.Laws

/-! ## Packet rows -/

/-- Every packet row is the packet front end's row of its opcode (R407). -/
theorem exec_of_packetOf {i : Instr} {op : Nat} {q : Pkt} (row : packetOf i = some (op, q)) (s : State) : exec i s = act (packetRow op q) s := by
  unfold packetOf at row
  split at row
  all_goals cases row
  all_goals rfl

/-! ## Packets that only read (R17, R75, R161, R332, R366, R376, R379, R384, R389, R390, R407) -/

/-- PAD and the opcodes whose act is a report (R407). -/
def readingOps : List Nat :=
  [0x0000, 0x0002, 0x0003, 0x0004, 0x1003, 0x3006, 0x7001, 0x8002, 0x9001, 0x9002, 0xA003, 0xA004, 0xB003]

section
variable (c : Cmd) (s : State)

theorem holdNopEcho_sameWork : s.sameWork (holdNopEcho c s) := by
  unfold holdNopEcho
  split
  · exact finish_sameWork _ _ s
  · exact finish_sameWork _ _ s

theorem holdGetTick_sameWork : s.sameWork (holdGetTick c s) := sameWork_trans (draw_sameWork s) (finish_sameWork _ _ _)

theorem holdChannelStatus_sameWork : s.sameWork (holdChannelStatus c s) := by
  unfold holdChannelStatus
  split
  · exact finish_sameWork _ _ s
  · exact finish_sameWork _ _ s

theorem holdIndexStat_sameWork : s.sameWork (holdIndexStat c s) := by
  unfold holdIndexStat
  split
  · exact finish_sameWork _ _ s
  · split
    · exact finish_sameWork _ _ s
    · exact sameWork_trans (free_sameWork _ s) (finish_sameWork _ _ _)

theorem holdGet_sameWork : s.sameWork (holdGet c s) := by
  unfold holdGet
  dsimp only
  generalize (if chanSetting (fld c.q.params 0 2) then _ else _ : Option SetVal) = held
  cases held with
  | none => exact finish_sameWork _ _ s
  | some value => exact finish_sameWork _ _ s

theorem freeCount_sameWork : s.sameWork (freeCount s).2 := draw_sameWork s

theorem holdFabricStatus_sameWork : s.sameWork (holdFabricStatus c s) := sameWork_trans (freeCount_sameWork s) (finish_sameWork _ _ _)
theorem holdLogRead_sameWork : s.sameWork (holdLogRead c s) := sameWork_trans (freeCount_sameWork s) (finish_sameWork _ _ _)
theorem holdCountersRead_sameWork : s.sameWork (holdCountersRead c s) := sameWork_trans (freeCount_sameWork s) (finish_sameWork _ _ _)
theorem holdAuditRead_sameWork : s.sameWork (holdAuditRead c s) := sameWork_trans (setMgmt_sameWork _ s) (finish_sameWork _ _ _)
theorem holdFwStatus_sameWork : s.sameWork (holdFwStatus c s) := sameWork_trans (freeCount_sameWork s) (finish_sameWork _ _ _)

/-- The act of a packet that only reads is a reply, with at most a draw or AUDIT_READ's mark before it. -/
theorem holdOp_sameWork_of_reading (reads : c.op ∈ readingOps) : s.sameWork (holdOp c s) := by
  simp only [readingOps, List.mem_cons, List.not_mem_nil, or_false] at reads
  unfold holdOp
  rcases reads with op | op | op | op | op | op | op | op | op | op | op | op | op <;> rw [op]
  · exact sameWork_refl s
  · exact finish_sameWork _ _ s
  · exact holdNopEcho_sameWork c s
  · exact holdGetTick_sameWork c s
  · exact holdChannelStatus_sameWork c s
  · exact holdIndexStat_sameWork c s
  · exact holdFabricStatus_sameWork c s
  · exact holdGet_sameWork c s
  · exact holdLogRead_sameWork c s
  · exact holdCountersRead_sameWork c s
  · exact finish_sameWork _ _ s
  · exact holdAuditRead_sameWork c s
  · exact holdFwStatus_sameWork c s

end

/-- None of these opcodes is on the fast path, waits for capacity, or is INSERT's. -/
theorem readingOps_slow : ∀ op ∈ readingOps, fastPath op = false ∧ needsCapacity op = false ∧ op ≠ 0x3002 := by decide

/-- Settles O9: whatever state the packet meets, the front end answers it or lets it act, and its act only answers. -/
theorem readingPacketsKeepWork : Obligations.ReadingPacketsKeepWork := by
  intro i op q s t row listed runs
  have reads : op ∈ readingOps := List.contains_iff_mem.mp listed
  obtain ⟨slow, unstaged, notInsert⟩ := readingOps_slow op reads
  have acts : s.sameWork (packetRow op q s) :=
    packetRow_sameWork op q s slow unstaged notInsert fun c u is => holdOp_sameWork_of_reading c u (is ▸ reads)
  rw [exec_of_packetOf row] at runs
  obtain rfl : leaves s (packetRow op q s) = t := Host.Outcome.next.inj runs
  exact sameWork_trans acts (leaves_sameWork s _)

/-! ## Packets as they take hold -/

/-- PAD takes its SEQ and is tracked (R48, R64). -/
theorem packetStep_pad {s : State} {q : Pkt} (reached : s.reached q) : packetStep 0 q s = track 0 q (s.port q.access).epoch (noteSeq q s) := by
  obtain ⟨-, point, safe⟩ := reached
  have taken : ¬(8 < q.access ∨ (s.mgmt.moduleState = .safe ∧ q.access ≠ 8)) := by
    rintro (beyond | ⟨inSafe, port⟩)
    · omega
    · exact port (safe inSafe)
  rw [packetStep, if_neg taken]
  exact if_pos rfl

theorem noteSeq_port {q : Pkt} (port : q.access < 8) (s : State) :
    noteSeq q s = s.setPort q.access fun x => { x with cmds := modifyAt x.cmds q.stream fun c => { c with nextSeq := (q.seq + 1) % 2 ^ 32 } } :=
  if_neg (Nat.ne_of_lt port)

section
variable {s : State} {op : Nat} {q : Pkt}

/-- A slow-path packet that takes hold does what its opcode's act does (R56). -/
theorem exec_of_takesHold {i : Instr} (row : packetOf i = some (op, q)) (holds : s.takesHold op q) (acts : op ≠ 0) (slow : fastPath op = false)
    (unstaged : needsCapacity op = false) : exec i s = .next (s.after op q (holdOp (s.holder op q))) := by
  rw [exec_of_packetOf row]
  exact packet_holds op q s holds acts slow unstaged

/-- What a command leaves rests on what its act makes of the module as it takes hold. -/
theorem after_congr {f g : State → State} (same : f (s.holding op q) = g (s.holding op q)) : s.after op q f = s.after op q g := by
  rw [State.after, same, State.after]

/-- What a packet leaves as it takes hold is told by what its act makes of the module. -/
theorem leaves_of_act {i : Instr} {act f : State → State} (runs : exec i s = .next (s.after op q act))
    (acts : act (s.holding op q) = f (s.holding op q)) : exec i s = .next (s.after op q f) := by
  rw [runs, after_congr acts]

/-- A packet whose act is a decision is answered. -/
theorem answers_of_act {i : Instr} {act : State → State} {f : State → Final} {g : State → State} (runs : exec i s = .next (s.after op q act))
    (acts : act (s.holding op q) = finish (s.holder op q) (f (s.holding op q)) (g (s.holding op q))) : exec i s = .next (s.answering op q f g) := by
  rw [State.answering]
  exact leaves_of_act runs acts

end

section
variable {s : State} {q : Pkt}

theorem exec_negotiate (holds : s.takesHold 0x0001 q) : exec (.negotiate q) s = .next (s.after 0x0001 q (holdNegotiate (s.holder 0x0001 q))) :=
  exec_of_takesHold rfl holds (by decide) rfl rfl

theorem exec_identify (holds : s.takesHold 0x0002 q) : exec (.identify q) s = .next (s.after 0x0002 q (holdIdentify (s.holder 0x0002 q))) :=
  exec_of_takesHold rfl holds (by decide) rfl rfl

theorem exec_nopEcho (holds : s.takesHold 0x0003 q) : exec (.nopEcho q) s = .next (s.after 0x0003 q (holdNopEcho (s.holder 0x0003 q))) :=
  exec_of_takesHold rfl holds (by decide) rfl rfl

theorem exec_getTick (holds : s.takesHold 0x0004 q) : exec (.getTick q) s = .next (s.after 0x0004 q (holdGetTick (s.holder 0x0004 q))) :=
  exec_of_takesHold rfl holds (by decide) rfl rfl

theorem exec_redeliver (holds : s.takesHold 0x0005 q) : exec (.redeliver q) s = .next (s.after 0x0005 q (holdRedeliver (s.holder 0x0005 q))) :=
  exec_of_takesHold rfl holds (by decide) rfl rfl

theorem exec_abort (holds : s.takesHold 0xC001 q) : exec (.abort q) s = .next (s.after 0xC001 q (holdAbort (s.holder 0xC001 q))) :=
  exec_of_takesHold rfl holds (by decide) rfl rfl

end

/-! ## The session packets' acts (R62, R353, R407) -/

/-- Level 1, minor 0 agreed for a port, or for an endpoint of the management port (R62). -/
def levelAgreed (q : Pkt) (s : State) : State :=
  if q.access = 8 then s.setMgmt fun m => { m with endpoints := modifyIf m.endpoints (fun e => e.eid == q.stream) fun e => { e with negotiated := some 0x10 } }
  else s.setPort q.access fun x => { x with negotiated := some 0x10 }

section
variable {c : Cmd} {s : State}

theorem holdNegotiate_of_first
    (first : s.agreed c.q = none ∨ ∀ d ∈ s.cmds ++ s.frame.decided.map Decided.cmd,
      d.id ≠ c.id → d.q.access ≠ c.q.access ∨ (c.q.access = 8 ∧ d.q.stream ≠ c.q.stream))
    (low : fld c.q.params 1 1 ≤ 0x10) (high : 0x10 ≤ fld c.q.params 0 1) :
    holdNegotiate c s = finish c { status := status 0 0, detail := 0x10 } (levelAgreed c.q s) := by
  have allowed : ((s.agreed c.q).isSome && (s.cmds ++ s.frame.decided.map Decided.cmd).any fun d =>
      d.id != c.id && d.q.access == c.q.access && (c.q.access != 8 || d.q.stream == c.q.stream)) = false := by
    rcases first with fresh | alone
    · rw [fresh]
      rfl
    · rw [Bool.and_eq_false_iff, List.any_eq_false]
      refine .inr fun d here => ?_
      rcases Decidable.em (d.id = c.id) with self | other
      · simp [self]
      · rcases alone d here other with apart | ⟨bus, apart⟩
        · simp [apart]
        · simp [bus, apart]
  rw [holdNegotiate]
  simp only [allowed, Bool.false_eq_true, if_false]
  exact if_pos ⟨low, high⟩

theorem holdNopEcho_eq : holdNopEcho c s =
    finish c (if c.q.access ≠ 8 ∧ fld c.q.params 8 8 = 0 then okDone 0
      else okDone (c.q.params.drop 16).length [⟨fld c.q.params 8 8, c.q.params.drop 16⟩]) s := by
  unfold holdNopEcho
  dsimp only
  split <;> rfl

theorem startJob_find (c : Cmd) (k : JobKind) (args : List Nat) (s : State) :
    (startJob c k args s).1.jobs.find? (fun j => j.id == (startJob c k args s).2)
      = some { id := s.freshJob, kind := k, cmd := some c.id, port := c.q.access, args := args } := by
  have none : s.jobs.find? (fun j => j.id == s.freshJob) = none :=
    List.find?_eq_none.mpr fun j here => by simpa using freshJob_ne s j here
  have appended : ∀ j : Job, j.id = s.freshJob → (s.jobs ++ [j]).find? (fun j => j.id == s.freshJob) = some j := by
    intro j fresh
    simp [none, fresh]
  exact appended _ rfl

/-- REDELIVER's first slice is that of the job it has just started (R353). -/
theorem holdRedeliver_eq : holdRedeliver c s =
    redeliverSlice { id := s.freshJob, kind := .redeliver, cmd := some c.id, port := c.q.access, args := [fld c.q.params 0 1] }
      (startJob c .redeliver [fld c.q.params 0 1] s).1 := by
  rw [holdRedeliver, startJob_find]

end

/-! ## ABORT's outcomes (R64) -/

/-- A command that waits is ended with nothing done; an INSERT's reservation is given back (R64). -/
theorem endCmd_of_waiting {code detail : Nat} {d : Cmd} {u : State} (here : u.cmd d.id = some d) (waits : d.state ≠ .running) :
    endCmd code detail u d.id = finish d { status := status 4 code, detail := detail } (if d.op = 0x3002 then releaseStaged d.id u else u) := by
  rw [endCmd, here]
  exact if_pos (by simpa using waits)

section
variable {c : Cmd} {q : Pkt} {s : State} (packet : c.q = q)
include packet

theorem holdAbort_of_unfetched (gone : s.abortTarget q = none) (untracked : s.abortOver q = none) (ahead : s.notFetched q = true) :
    holdAbort c s = finish c (badParam 3 4) s := by
  subst packet
  rw [holdAbort, gone, untracked]
  exact if_pos ahead

/-- A packet that was fetched and is no longer tracked is over long since (R64). -/
theorem holdAbort_of_expired (gone : s.abortTarget q = none) (untracked : s.abortOver q = none) (fetched : s.notFetched q = false) :
    holdAbort c s = finish c { status := status 0 1 } s := by
  subst packet
  rw [holdAbort, gone, untracked]
  exact if_neg (Bool.eq_false_iff.mp fetched)

theorem holdAbort_of_over (gone : s.abortTarget q = none) {op tag : Nat} {ended : Bool} (tracked : s.abortOver q = some (op, tag, ended)) :
    holdAbort c s = finish c (abortLate q op tag ended)
      (reEnd 1 (q.seq % 65536) (fun d => d.named q s && d.q.tag == fld q.params 8 4) s) := by
  subst packet
  rw [holdAbort, gone, tracked]

variable {d : Cmd} (target : s.abortTarget q = some d)
include target

theorem holdAbort_of_abort (another : d.op = 0xC001) : holdAbort c s = finish c (badParam 2 4) s := by
  subst packet
  rw [holdAbort, target]
  exact if_pos another

variable (other : d.op ≠ 0xC001)
include other

theorem holdAbort_of_wrong_tag (wrong : d.q.tag ≠ fld q.params 8 4) : holdAbort c s = finish c (badParam 3 8) s := by
  subst packet
  rw [holdAbort, target]
  exact (if_neg other).trans (if_pos wrong)

variable (tag : d.q.tag = fld q.params 8 4)
include tag

/-- The command that is named ends; the end of another port's command is audited (R47, R64). -/
theorem holdAbort_of_target : holdAbort c s = finish c (okDone 0) (endCmd 1 (q.seq % 65536)
    (if d.q.access ≠ q.access then auditFor 9 0 q (afield d.q.access ++ afield d.q.tag) s else s) d.id) := by
  subst packet
  rw [holdAbort, target]
  exact (if_neg other).trans (if_neg (not_not_intro tag))

theorem holdAbort_of_own (own : d.q.access = q.access) : holdAbort c s = finish c (okDone 0) (endCmd 1 (q.seq % 65536) s d.id) := by
  rw [holdAbort_of_target packet target other tag, if_neg (not_not_intro own)]

theorem holdAbort_of_foreign (foreign : d.q.access ≠ q.access) :
    holdAbort c s = finish c (okDone 0) (endCmd 1 (q.seq % 65536) (auditFor 9 0 q (afield d.q.access ++ afield d.q.tag) s) d.id) := by
  rw [holdAbort_of_target packet target other tag, if_pos foreign]

end

/-- Settles O10: each session packet by what its act does, and an ABORT by what it finds of the command it names. -/
theorem sessionPackets : Obligations.SessionPackets := by
  refine ⟨fun s q => ⟨?pad, ?padPort, ?negotiate, ?identify, ?echo, ?tick, ?redeliver⟩,
    fun s q holds => ⟨?unfetched, ?expired, ?late, ?abort, ?wrongTag, ?own, ?foreign, ?waiting⟩⟩
  case pad =>
    intro reached
    obtain ⟨up, -⟩ := id reached
    calc exec (.pad q) s = .next (leaves s (packetStep 0 q s)) := act_packet 0 q s up
      _ = .next (leaves s (track 0 q (s.port q.access).epoch (noteSeq q s))) := by rw [packetStep_pad reached]
  case padPort =>
    intro reached port
    obtain ⟨up, -⟩ := id reached
    calc exec (.pad q) s = .next (leaves s (packetStep 0 q s)) := act_packet 0 q s up
      _ = _ := by rw [packetStep_pad reached, noteSeq_port port]
  case negotiate =>
    intro holds first low high
    have agrees := holdNegotiate_of_first (c := s.holder 0x0001 q) (s := s.holding 0x0001 q) first low high
    refine ⟨fun bus => answers_of_act (exec_negotiate holds) (agrees.trans ?_), fun port => answers_of_act (exec_negotiate holds) (agrees.trans ?_)⟩
    · exact congrArg _ (if_pos bus)
    · exact congrArg _ (if_neg port)
  case identify => exact fun holds => exec_identify holds
  case echo => exact fun holds => answers_of_act (exec_nopEcho holds) holdNopEcho_eq
  case tick => exact fun holds => exec_getTick holds
  case redeliver => exact fun holds => leaves_of_act (exec_redeliver holds) holdRedeliver_eq
  case unfetched => exact fun gone untracked ahead => answers_of_act (exec_abort holds) (holdAbort_of_unfetched rfl gone untracked ahead)
  case expired => exact fun gone untracked fetched => answers_of_act (exec_abort holds) (holdAbort_of_expired rfl gone untracked fetched)
  case late =>
    intro op tag ended gone tracked
    refine answers_of_act (exec_abort holds) ?_
    rw [holdAbort_of_over (q := q) rfl gone tracked, abortLate]
  case abort => exact fun d target another => answers_of_act (exec_abort holds) (holdAbort_of_abort rfl target another)
  case wrongTag => exact fun d target other wrong => answers_of_act (exec_abort holds) (holdAbort_of_wrong_tag rfl target other wrong)
  case own => exact fun d target other tag own => answers_of_act (exec_abort holds) (holdAbort_of_own rfl target other tag own)
  case foreign => exact fun d target other tag foreign => answers_of_act (exec_abort holds) (holdAbort_of_foreign rfl target other tag foreign)
  case waiting => exact fun d u _ here waits => endCmd_of_waiting here waits

/-! ## Object packets as they take hold (R279, R285, R288, R289, R292) -/

section
variable {s : State} {q : Pkt}

theorem exec_objAlloc (holds : s.takesHold 0x6001 q) : exec (.objAlloc q) s = .next (s.after 0x6001 q (holdObjAlloc (s.holder 0x6001 q))) :=
  exec_of_takesHold rfl holds (by decide) rfl rfl

theorem exec_objFree (holds : s.takesHold 0x6002 q) : exec (.objFree q) s = .next (s.after 0x6002 q (holdObjFree (s.holder 0x6002 q))) :=
  exec_of_takesHold rfl holds (by decide) rfl rfl

theorem exec_objPlace (holds : s.takesHold 0x6003 q) : exec (.objPlace q) s = .next (s.after 0x6003 q (holdObjPlace (s.holder 0x6003 q))) :=
  exec_of_takesHold rfl holds (by decide) rfl rfl

theorem exec_prefetchPlan (holds : s.takesHold 0x6004 q) : exec (.prefetchPlan q) s = .next (s.after 0x6004 q (holdPrefetch (s.holder 0x6004 q))) :=
  exec_of_takesHold rfl holds (by decide) rfl rfl

theorem exec_objCopy (holds : s.takesHold 0x6007 q) : exec (.objCopy q) s = .next (s.after 0x6007 q (holdObjCopy (s.holder 0x6007 q))) :=
  exec_of_takesHold rfl holds (by decide) rfl rfl

end

/-- The object that an OBJ_ALLOC asks for, but for its number and base, which its creation gives (R285). -/
def objAsked (q : Pkt) (homes : List Nat) (s : State) : Obj :=
  { num := s.objNumber 0, owner := q.access, pages := ceilDiv (fld q.params 0 8) 65536, base := 0, tier := fld q.params 8 1 % 4
    fulled := bit (fld q.params 8 1) 2, hint := bits (fld q.params 8 1) 4 3, staged := bit (fld q.params 8 1) 5, spread := fld q.params 9 1 % 4
    homes := homes }

/-- The object is created and its number, pages and base are answered (R285). -/
def objCreated (c : Cmd) (o : Obj) (t : State) : State :=
  let r := createObj (fun n b => { o with num := n, base := b }) { t with free := t.free + 1 }
  finish c (okDone r.1 (if fld c.q.params 16 8 = 0 ∧ c.q.access ≠ 8 then []
    else [⟨fld c.q.params 16 8, leBytes 4 r.1 ++ leBytes 4 o.pages ++ leBytes 8 t.mem.nextBase⟩])) r.2

/-- An index or table goes with every object of its family (R82, R249, R288). -/
def familyFreed (n : Nat) (t : State) : State :=
  let u := (t.family n).foldl (fun t m => freeObj m t) t
  { u with indexes := modifyIf u.indexes (fun x => x.num == n) fun x => { x with freed := true }
           tables := modifyIf u.tables (fun x => x.num == n) fun x => { x with freed := true } }

/-- Is the number that of an index or table of the port (R288)? -/
def ownsWhole (p n : Nat) (s : State) : Bool :=
  s.indexes.any (fun x => x.num == n && x.owner == p && !x.freed) || s.tables.any (fun x => x.num == n && x.owner == p && !x.freed)

/-- A plan's job starts; its destination pages are unplaced, and its carve-out lines held (R26, R280). -/
def planStarted (c : Cmd) (t : State) : State :=
  let es := (List.range (planCount c.q.params)).map (planEntry c.q.params)
  let u := (startJob c .prefetch (es.map fun _ => 0) t).1.setCmd c.id fun x => { x with
    deadline := planD c.q t, uses := dedupBy (fun n => n) (es.flatMap fun e => if e.dst = 0 then [e.src] else [e.src, e.dst]) }
  let u := es.foldl (fun u e => if e.dst = 0 then u else markPages e.dst (e.dstOff / 65536) e.pages (fun p => { p with unplaced := true, stale := false }) u) u
  let holds := es.filterMap fun e => if e.dst = 0 then some (c.id, u.tick + planD c.q t + e.hold, e.src, e.srcOff / 256, 256 * e.pages) else none
  u.setMem fun m => { m with holds := m.holds ++ holds }

section
variable {c : Cmd} {q : Pkt} {s : State} (packet : c.q = q)
include packet

theorem holdObjAlloc_of_room {homes : List Nat}
    (chosen : allocHomes (fld q.params 8 1 % 4) (fld q.params 9 1 % 4) (fld q.params 12 2 % 2048) (fld q.params 14 2 % 4096) s = .inl homes)
    (room : roomFor q.access 1 [objAsked q homes s] s = none) : holdObjAlloc c s = objCreated c (objAsked q homes s) s := by
  subst packet
  rw [objAsked] at room
  simp only [holdObjAlloc, chosen, pageBytes, room]
  rfl

theorem holdObjFree_of_whole (whole : ownsWhole q.access (fld q.params 0 4) s = true) (unused : s.inUse (fld q.params 0 4) = false) :
    holdObjFree c s = finish c (okDone 0) (familyFreed (fld q.params 0 4) s) := by
  subst packet
  exact (if_pos whole).trans (if_neg (Bool.eq_false_iff.mp unused))

theorem holdObjFree_of_object (single : ownsWhole q.access (fld q.params 0 4) s = false) (unused : s.inUse (fld q.params 0 4) = false) {o : Obj}
    (own : s.ownObj q.access (fld q.params 0 4) = some o) (bare : o.parent = 0) :
    holdObjFree c s = finish c (okDone 0) (freeObj (fld q.params 0 4) s) := by
  subst packet
  refine (if_neg (Bool.eq_false_iff.mp single)).trans ?_
  rw [own]
  exact if_neg (by simp [bare, unused])

section
variable {o o' : Obj} (own : s.ownObj q.access (fld q.params 0 4) = some o) (asked : placed o (fld q.params 4 1) s = .inl o')
include own asked

theorem holdObjPlace_of_same (same : o.samePlace o' = true) : holdObjPlace c s = placeSame c o s := by
  subst packet
  rw [holdObjPlace, own]
  simp only [asked]
  exact if_pos same

theorem holdObjPlace_of_changed (changed : o.samePlace o' = false) (room : placeRefused q.access o o' s = none) :
    holdObjPlace c s = placeChanged c o o' s := by
  subst packet
  rw [holdObjPlace, own]
  simp only [asked, room]
  exact if_neg (Bool.eq_false_iff.mp changed)

end

theorem holdObjCopy_of_accepted (accepted : copyRefused q s = none) :
    holdObjCopy c s =
      (startJob c .copy [fld q.params 0 4, fld q.params 4 4, fld q.params 8 8, fld q.params 16 8, fld q.params 24 8]
        { s with free := s.free + 1 }).1.setCmd c.id fun x => { x with uses := [fld q.params 0 4, fld q.params 4 4] } := by
  subst packet
  rw [holdObjCopy, accepted]

theorem holdPrefetch_of_accepted (accepted : checkPrefetch q s = none) : holdPrefetch c s = planStarted c s := by
  subst packet
  rw [holdPrefetch, accepted]
  rfl

end

/-- Settles O15: each object packet by what its act does where no rule refuses it. -/
theorem objectPackets : Obligations.ObjectPackets := by
  intro s q o
  refine ⟨fun homes holds chosen asked room => ?alloc, fun holds unused => ⟨fun whole => ?whole, fun single own bare => ?object⟩, ?place, ?copy,
    ?plan⟩
  case alloc =>
    subst asked
    exact leaves_of_act (exec_objAlloc holds) (holdObjAlloc_of_room rfl chosen room)
  case whole => exact answers_of_act (exec_objFree holds) (holdObjFree_of_whole rfl whole unused)
  case object => exact answers_of_act (exec_objFree holds) (holdObjFree_of_object rfl single unused own bare)
  case place =>
    intro o' holds own asked
    refine ⟨fun same => leaves_of_act (exec_objPlace holds) ?_, fun changed room => leaves_of_act (exec_objPlace holds) ?_⟩
    · exact holdObjPlace_of_same rfl own asked same
    · exact holdObjPlace_of_changed rfl own asked changed room
  case copy => exact fun holds accepted => leaves_of_act (exec_objCopy holds) (holdObjCopy_of_accepted rfl accepted)
  case plan => exact fun holds accepted => leaves_of_act (exec_prefetchPlan holds) (holdPrefetch_of_accepted rfl accepted)

/-! ## Admitted packets (R19, R22, R55, R70, R259, R327) -/

/-- The record of a command that is admitted with stages `l`, from the state in which its departure has been counted (R22, R70). -/
def recordAdmitted (q : Pkt) (l : List Stage) (a : Ask) (c : Cmd) (t : State) (x : Cmd) : Cmd :=
  { x with
    state := .running, admitTick := t.tick, deadline := (countDeparture q.access t).dOf c, strict := (countDeparture q.access t).strictOf c, stages := l
    work := a.work, uses := a.uses, routes := a.routes, binding := ((t.handleChan q.handle).map Channel.binding).getD 0 }

/-- The state in which a command is admitted: its record written, its walk slots and what it takes of this tick charged (R19, R22, R45). -/
def stateAdmitted (q : Pkt) (l : List Stage) (a : Ask) (c : Cmd) (t : State) : State :=
  chargeNow ((l.filter fun g => g.tick == t.tick).flatMap Stage.charge)
    (chargeQuota q.access 3 a.slots ((countDeparture q.access t).setCmd c.id (recordAdmitted q l a c t)))

theorem stateAdmitted_cmd (q : Pkt) (l : List Stage) (a : Ask) {c : Cmd} {t : State} (here : t.cmd c.id = some c) :
    (stateAdmitted q l a c t).cmd c.id = some (recordAdmitted q l a c t c) := by
  have found : (stateAdmitted q l a c t).cmd c.id = (t.cmd c.id).map fun x => if c.id = c.id then recordAdmitted q l a c t x else x :=
    find?_modifyIf_key Cmd.id c.id c.id (f := recordAdmitted q l a c t) (fun _ same => same) t.cmds
  rw [found, here, Option.map_some, if_pos rfl]

section
variable {c : Cmd} {q : Pkt} (packet : c.q = q) {l : List Stage} {a : Ask} {t : State}
include packet

theorem placeCmd_eq : placeCmd c l a t =
    (let u := stateAdmitted q l a c t
     if c.op = 0x6008 then match u.cmd c.id with
       | some c => holdListMerge c u
       | none => u
     else if isUpdateJob c then match u.cmd c.id with
       | some c => startUpdateJob c u
       | none => u
     else beginStage c.id u) := by
  subst packet
  rfl

theorem placeCmd_of_stages (unmerged : c.op ≠ 0x6008) (inline : isUpdateJob c = false) :
    placeCmd c l a t = beginStage c.id (stateAdmitted q l a c t) := by
  rw [placeCmd_eq packet]
  exact (if_neg unmerged).trans (if_neg (Bool.eq_false_iff.mp inline))

variable (here : t.cmd c.id = some c)
include here

theorem placeCmd_of_job (unmerged : c.op ≠ 0x6008) (job : isUpdateJob c = true) :
    placeCmd c l a t = startUpdateJob (recordAdmitted q l a c t c) (stateAdmitted q l a c t) := by
  rw [placeCmd_eq packet]
  simp only [if_neg unmerged, if_pos job, stateAdmitted_cmd q l a here]

theorem placeCmd_of_merge (merge : c.op = 0x6008) :
    placeCmd c l a t = holdListMerge (recordAdmitted q l a c t c) (stateAdmitted q l a c t) := by
  rw [placeCmd_eq packet]
  simp only [if_pos merge, stateAdmitted_cmd q l a here]

end

theorem holdListMerge_of_accepted {c : Cmd} {q : Pkt} (packet : c.q = q) {s : State} (accepted : listMergeRefused q s = none) :
    holdListMerge c s = s.setCmd c.id fun d => { d with
      state := .running, admitTick := s.tick, deadline := if q.deadline = 0 then 1 else q.deadline, uses := [fld q.params 0 4, fld q.params 4 4]
      stages := [{ kind := .slow, tick := s.tick + fld q.params 30 1, charge := [(.merge, fld q.params 16 2 * fld q.params 28 2 * fld q.params 24 4)] }] } := by
  subst packet
  rw [holdListMerge, accepted]

section
variable {s : State} {op : Nat} {q : Pkt} {l : List Stage} {a : Ask} {i : Instr}

theorem cmdOf_isUpdateJob (job : [0x4003, 0x4004, 0x4005].contains op = true) (st : CmdState) :
    isUpdateJob (s.cmdOf op q st) = (fld q.params 5 1 == 1) := by
  show ([0x4003, 0x4004, 0x4005].contains op && fld q.params 5 1 == 1) = _
  rw [job, Bool.true_and]

theorem cmdOf_isUpdateJob_of_other (other : [0x4003, 0x4004, 0x4005].contains op = false) (st : CmdState) : isUpdateJob (s.cmdOf op q st) = false := by
  show ([0x4003, 0x4004, 0x4005].contains op && fld q.params 5 1 == 1) = _
  rw [other, Bool.false_and]

/-- The state in which packet `q` is admitted as a command of opcode `op`. -/
def packetAdmitted (s : State) (op : Nat) (q : Pkt) (l : List Stage) (a : Ask) : State :=
  stateAdmitted q l a (s.cmdOf op q .waiting) (s.arrive op q .waiting)

variable (placed : exec i s = .next (s.admitted op q l a))
include placed

theorem exec_of_stages (unmerged : op ≠ 0x6008) (inline : isUpdateJob (s.cmdOf op q .waiting) = false) :
    exec i s = .next (leaves s (beginStage (s.cmdOf op q .waiting).id (packetAdmitted s op q l a))) := by
  rw [placed, State.admitted, placeCmd_of_stages (q := q) rfl unmerged inline]
  rfl

theorem exec_of_job (job : [0x4003, 0x4004, 0x4005].contains op = true) (fromObject : fld q.params 5 1 = 1) :
    ∃ c, (packetAdmitted s op q l a).cmd (s.cmdOf op q .waiting).id = some c ∧ c.q = q ∧ c.state = .running
      ∧ exec i s = .next (leaves s (startUpdateJob c (packetAdmitted s op q l a))) := by
  have here := arrive_cmd s op q .waiting
  have unmerged : op ≠ 0x6008 := by
    rintro rfl
    exact absurd job (by decide)
  have isJob : isUpdateJob (s.cmdOf op q .waiting) = true := by rw [cmdOf_isUpdateJob job, fromObject]; rfl
  refine ⟨_, stateAdmitted_cmd q l a here, rfl, rfl, ?_⟩
  rw [placed, State.admitted, placeCmd_of_job (q := q) rfl here unmerged isJob]
  rfl

end

theorem exec_of_merge {s : State} {q : Pkt} {l : List Stage} {a : Ask} {i : Instr} (placed : exec i s = .next (s.admitted 0x6008 q l a))
    (accepted : listMergeRefused q (packetAdmitted s 0x6008 q l a) = none) :
    exec i s = .next (leaves s ((packetAdmitted s 0x6008 q l a).setCmd (s.cmdOf 0x6008 q .waiting).id fun d => { d with
      state := .running, admitTick := (packetAdmitted s 0x6008 q l a).tick, deadline := if q.deadline = 0 then 1 else q.deadline
      uses := [fld q.params 0 4, fld q.params 4 4]
      stages := [{ kind := .slow, tick := (packetAdmitted s 0x6008 q l a).tick + fld q.params 30 1
                   charge := [(.merge, fld q.params 16 2 * fld q.params 28 2 * fld q.params 24 4)] }] })) := by
  have merges := placeCmd_of_merge (c := s.cmdOf 0x6008 q .waiting) (q := q) rfl (l := l) (a := a) (arrive_cmd s 0x6008 q .waiting) rfl
  rw [placed, State.admitted, merges]
  exact congrArg (fun t => Host.Outcome.next (leaves s t)) (holdListMerge_of_accepted rfl accepted)

/-- Settles O23: an admitted packet's command is recorded by `placeCmd`, and its first stage, its job or its merge begins. -/
theorem admittedPackets : Obligations.AdmittedPackets := by
  intro s q l a u
  have fast : ∀ {i : Instr} {op : Nat}, packetOf i = some (op, q) → op ≠ 0 → fastPath op = true → s.admits op q l a →
      exec i s = .next (s.admitted op q l a) := fun row acts path admits => by
    rw [exec_of_packetOf row]
    exact packet_admits _ q s l a admits acts path
  have slow : ∀ {i : Instr} {op : Nat}, packetOf i = some (op, q) → op ≠ 0 → fastPath op = false → needsCapacity op = true → s.takesHold op q →
      s.admits op q l a → exec i s = .next (s.admitted op q l a) := fun row acts path staged holds admits => by
    rw [exec_of_packetOf row]
    exact packet_holds_admits _ q s l a holds admits acts path staged
  have others : ∀ {op : Nat}, [0x4003, 0x4004, 0x4005].contains op = false → isUpdateJob (s.cmdOf op q .waiting) = false :=
    fun other => cmdOf_isUpdateJob_of_other other .waiting
  refine ⟨fun admits => ?search, fun admits => ?batch, fun holds admits => ?encoded, fun admits => ?gather, fun admits => ?run, fun inline => ?inline,
    fun fromObject => ?jobs, fun holds admits accepted => ?merge⟩
  case search => exact exec_of_stages (fast rfl (by decide) rfl admits) (by decide) (others rfl)
  case batch => exact exec_of_stages (fast rfl (by decide) rfl admits) (by decide) (others rfl)
  case encoded => exact exec_of_stages (slow rfl (by decide) rfl rfl holds admits) (by decide) (others rfl)
  case gather => exact exec_of_stages (fast rfl (by decide) rfl admits) (by decide) (others rfl)
  case run => exact exec_of_stages (fast rfl (by decide) rfl admits) (by decide) (others rfl)
  case inline =>
    have within : ∀ {op : Nat}, [0x4003, 0x4004, 0x4005].contains op = true → isUpdateJob (s.cmdOf op q .waiting) = false :=
      fun update => (cmdOf_isUpdateJob update .waiting).trans (beq_eq_false_iff_ne.mpr inline)
    refine ⟨fun admits => ?_, fun admits => ?_, fun holds admits => ?_⟩
    · exact exec_of_stages (fast rfl (by decide) rfl admits) (by decide) (within rfl)
    · exact exec_of_stages (fast rfl (by decide) rfl admits) (by decide) (within rfl)
    · exact exec_of_stages (slow rfl (by decide) rfl rfl holds admits) (by decide) (within rfl)
  case jobs =>
    refine ⟨fun admits => ?_, fun admits => ?_, fun holds admits => ?_⟩
    · exact exec_of_job (fast rfl (by decide) rfl admits) rfl fromObject
    · exact exec_of_job (fast rfl (by decide) rfl admits) rfl fromObject
    · exact exec_of_job (slow rfl (by decide) rfl rfl holds admits) rfl fromObject
  case merge => exact exec_of_merge (slow rfl (by decide) rfl rfl holds admits) accepted

/-! ## BUSY at decode (R20, R55, R64) -/

/-- Pending commands an access point may have (R20, R369). -/
def pendingLimit (access : Nat) : Nat := if access = 8 then 16 else 1024

section
variable {op : Nat} {q : Pkt} {s : State}

theorem busy_of_pending (plain : op ≠ 0xC001) (full : pendingLimit q.access ≤ s.pendingCount q.access) :
    busy op q s = some { status := status 3 2, detail := s.pendingRetry q.access } := if_pos ⟨plain, full⟩

/-- A slow-path packet of a port meets a full Control Bar queue, or a full share of it (R55). -/
theorem busy_of_bar (plain : op ≠ 0xC001) (port : q.access ≠ 8) (room : s.pendingCount q.access < pendingLimit q.access) (slow : fastPath op = false)
    (full : 512 ≤ s.cbQueue.length ∨ 128 ≤ (s.cbQueue.filter fun c => c.q.access == q.access).length) :
    busy op q s = some { status := status 3 3, detail := s.barRetry q.access } :=
  (if_neg fun pending => Nat.not_le.mpr room pending.2).trans (if_pos ⟨plain, port, slow, full⟩)

theorem busy_abort (q : Pkt) (s : State) : busy 0xC001 q s = none := by simp [busy]

end

/-! ## Waiting for admission (R19, R20, R266) -/

/-- SLOT_WAIT counts where row slots alone are lacking (R266). -/
def slotWaitCounted (c : Cmd) (s : State) : State := if slotsShort c s then countChan (handleSlot c.q.handle) 21 1 s else s

/-- The turn of a command that passes the boundary's checks and has no room (R19). -/
theorem admitOne_of_no_room {s : State} {id : Nat} {c : Cmd} (here : s.cmd id = some c) (waits : c.state = .waiting) (unfenced : s.fenced c = false)
    (sound : boundaryBad c s = none) (noRoom : placedFrom c s.tick s = none) :
    admitOne s id =
      (let t := slotWaitCounted c s
       if t.setting 0x0105 ≤ c.waited then finish c { status := status 3 1, detail := max 1 (retryAfter c t) } t
       else t.setCmd id fun d => { d with waited := d.waited + 1 }) := by
  have turn : ¬(c.state != .waiting || s.fenced c) = true := by simp [waits, unfenced]
  rw [admitOne, here]
  simp only [if_neg turn, sound, noRoom]
  rfl

/-- Settles O24: `busy` by its two limits, and a waiting command by whether it has waited ADMISSION_WAIT boundaries. -/
theorem busyAndWaiting : Obligations.BusyAndWaiting := by
  refine ⟨fun op q s => ⟨fun plain port full => ?port, fun plain bus full => ?bus, fun plain port room slow full => ?bar, busy_abort q s⟩,
    fun s id c here waits unfenced sound noRoom => ⟨fun long => ?expired, fun short => ?kept⟩⟩
  case port => exact ⟨_, busy_of_pending plain (by rw [pendingLimit, if_neg port]; exact full), rfl⟩
  case bus => exact ⟨_, busy_of_pending plain (by rw [pendingLimit, if_pos bus]; exact full), rfl⟩
  case bar => exact ⟨_, busy_of_bar plain port (by rw [pendingLimit, if_neg port]; exact room) slow full, rfl⟩
  case expired =>
    rw [admitOne_of_no_room here waits unfenced sound noRoom]
    exact if_pos long
  case kept =>
    rw [admitOne_of_no_room here waits unfenced sound noRoom]
    exact if_neg (Nat.not_le.mpr short)

end Sys2Proof.Proofs

namespace Sys2Proof.Proofs

/-! The frame: the order of admission (R19, R64), the pruning rule and a maintenance job's slice (R18, R26, R150, R151), and the hall tick (R28–R31). -/

open Sys2Proof Sys2Proof.Machine Sys2Proof.Laws

/-! ## Sorting by a strict order -/

section
variable {α : Type} (lt : α → α → Bool)

theorem insertBy_perm (a : α) (l : List α) : (insertBy lt a l).Perm (a :: l) := by
  induction l with
  | nil => exact List.Perm.refl [a]
  | cons b l ih =>
    unfold insertBy
    split
    next => exact List.Perm.refl (a :: b :: l)
    next => exact (ih.cons b).trans (List.Perm.swap a b l)

theorem foldl_insertBy_perm (l acc : List α) : (l.foldl (fun acc a => insertBy lt a acc) acc).Perm (l ++ acc) := by
  induction l generalizing acc with
  | nil => exact List.Perm.refl acc
  | cons a l ih =>
    calc l.foldl (fun acc a => insertBy lt a acc) (insertBy lt a acc)
        |>.Perm (l ++ insertBy lt a acc) := ih _
      _ |>.Perm (l ++ a :: acc) := (insertBy_perm lt a acc).append_left l
      _ |>.Perm (a :: (l ++ acc)) := List.perm_middle

theorem sortBy_perm (l : List α) : (sortBy lt l).Perm l := by
  simpa only [sortBy, List.append_nil] using foldl_insertBy_perm lt l []

variable (asymm : ∀ a b, lt a b = true → lt b a = false) (trans : ∀ a b c, lt a b = true → lt b c = true → lt a c = true)
include asymm trans

theorem insertBy_pairwise (a : α) {l : List α} (sorted : l.Pairwise fun x y => lt y x = false) :
    (insertBy lt a l).Pairwise fun x y => lt y x = false := by
  induction l with
  | nil => exact List.pairwise_singleton _ a
  | cons b l ih =>
    obtain ⟨first, rest⟩ := List.pairwise_cons.mp sorted
    unfold insertBy
    split
    next before =>
      refine List.pairwise_cons.mpr ⟨fun x here => ?_, sorted⟩
      rcases List.mem_cons.mp here with rfl | later
      · exact asymm a x before
      · refine Bool.eq_false_iff.mpr fun less => ?_
        have below : lt x b = true := trans x a b less before
        exact Bool.false_ne_true ((first x later).symm.trans below)
    next after =>
      refine List.pairwise_cons.mpr ⟨fun x here => ?_, ih rest⟩
      rcases List.mem_cons.mp ((insertBy_perm lt a l).mem_iff.mp here) with rfl | later
      · exact Bool.eq_false_iff.mpr after
      · exact first x later

/-- Nothing in a sorted list precedes what stands before it. -/
theorem sortBy_pairwise (l : List α) : (sortBy lt l).Pairwise fun x y => lt y x = false := by
  have folded : ∀ acc : List α, acc.Pairwise (fun x y => lt y x = false) →
      (l.foldl (fun acc a => insertBy lt a acc) acc).Pairwise fun x y => lt y x = false := by
    induction l with
    | nil => exact fun _ sorted => sorted
    | cons a l ih => exact fun acc sorted => ih _ (insertBy_pairwise lt asymm trans a sorted)
  exact folded [] List.Pairwise.nil

end

/-! ## Admission order (R19, R64) -/

/-- Does a command go first as REALTIME? An ABORT ignores the flag (R64). -/
def goesFirst (c : Cmd) : Bool := bit c.q.flags 2 && c.op != 0xC001

/-- What R19 orders commands by: REALTIME, then D, then the port's place in the rotation, then arrival. -/
def admissionKey (s : State) (c : Cmd) : Nat × Nat × Nat × Nat :=
  (if goesFirst c then 0 else 1, s.dOf c, (c.q.access + 9 - s.frame.rotation % 9) % 9, c.id)

/-- The lexicographic order of four numbers. -/
def keyBefore (x y : Nat × Nat × Nat × Nat) : Bool :=
  decide (x.1 < y.1) || (x.1 == y.1 && (decide (x.2.1 < y.2.1) || (x.2.1 == y.2.1 && (decide (x.2.2.1 < y.2.2.1)
    || (x.2.2.1 == y.2.2.1 && decide (x.2.2.2 < y.2.2.2))))))

theorem admissionOrder_eq (s : State) :
    s.admissionOrder = (sortBy (fun a b => keyBefore (admissionKey s a) (admissionKey s b))
      (s.cmds.filter fun c => c.state == .waiting || c.state == .ready)).map Cmd.id := rfl

theorem keyBefore_iff (x y : Nat × Nat × Nat × Nat) :
    keyBefore x y = true ↔
      x.1 < y.1 ∨ x.1 = y.1 ∧ (x.2.1 < y.2.1 ∨ x.2.1 = y.2.1 ∧ (x.2.2.1 < y.2.2.1 ∨ x.2.2.1 = y.2.2.1 ∧ x.2.2.2 < y.2.2.2)) := by
  simp [keyBefore]

theorem keyBefore_asymm (x y : Nat × Nat × Nat × Nat) (before : keyBefore x y = true) : keyBefore y x = false := by
  rw [keyBefore_iff] at before
  rw [Bool.eq_false_iff, ne_eq, keyBefore_iff]
  omega

theorem keyBefore_trans (x y z : Nat × Nat × Nat × Nat) (xy : keyBefore x y = true) (yz : keyBefore y z = true) : keyBefore x z = true := by
  rw [keyBefore_iff] at xy yz ⊢
  omega

theorem keyBefore_eq_false {x y : Nat × Nat × Nat × Nat} (notBefore : keyBefore y x = false) :
    x.1 ≤ y.1 ∧ (x.1 = y.1 → x.2.1 ≤ y.2.1 ∧ (x.2.1 = y.2.1 → x.2.2.1 ≤ y.2.2.1 ∧ (x.2.2.1 = y.2.2.1 → x.2.2.2 ≤ y.2.2.2))) := by
  rw [Bool.eq_false_iff, ne_eq, keyBefore_iff] at notBefore
  omega

theorem sortBy_admissionKey_pairwise (s : State) (l : List Cmd) :
    (sortBy (fun a b => keyBefore (admissionKey s a) (admissionKey s b)) l).Pairwise fun a b => keyBefore (admissionKey s b) (admissionKey s a) = false :=
  sortBy_pairwise _ (fun a b => keyBefore_asymm (admissionKey s a) (admissionKey s b))
    (fun a b c => keyBefore_trans (admissionKey s a) (admissionKey s b) (admissionKey s c)) l

/-- Settles O34: the order is the stable sort of the waiting and ready commands by `admissionKey`. -/
theorem admissionOrder : Obligations.AdmissionOrder := by
  intro s
  refine ⟨_, admissionOrder_eq s, sortBy_perm _ _, ?_⟩
  refine (sortBy_admissionKey_pairwise s _).imp fun {a b} notBefore => ?_
  obtain ⟨realtime, rest⟩ := keyBefore_eq_false notBefore
  refine ⟨fun (urgent : goesFirst b = true) => ?_, fun (alike : goesFirst a = goesFirst b) => ?_⟩
  · show goesFirst a = true
    rcases Bool.eq_false_or_eq_true (goesFirst a) with first | plain
    · exact first
    · simp [admissionKey, plain, urgent] at realtime
  · exact rest (by simp only [admissionKey, alike])

/-! ## Pruning (R151) -/

/-- Does a candidate find no place among the kept neighbours: the list is full, or one kept is as near to it as ALPHA allows (R151)? -/
def Crowded (degree alpha : Nat) (kept : List NRec) (c : NRec × Nat) : Prop :=
  kept.length = degree ∨ ∃ k ∈ kept, alpha * ham k.sketch c.1.sketch ≤ 16 * c.2

theorem prune_append_singleton (degree alpha : Nat) (l : List (NRec × Nat)) (c : NRec × Nat) :
    prune degree alpha (l ++ [c]) =
      if (prune degree alpha l).length = degree then prune degree alpha l
      else if (prune degree alpha l).any fun k => decide (alpha * ham k.sketch c.1.sketch ≤ 16 * c.2) then prune degree alpha l
      else prune degree alpha l ++ [c.1] := by
  rw [prune, List.foldl_append]
  rfl

section
variable {degree alpha : Nat} {l : List (NRec × Nat)} {c : NRec × Nat}

theorem prune_append_of_crowded (crowded : Crowded degree alpha (prune degree alpha l) c) :
    prune degree alpha (l ++ [c]) = prune degree alpha l := by
  rw [prune_append_singleton]
  rcases crowded with full | ⟨k, kept, near⟩
  · rw [if_pos full]
  · rw [if_pos (List.any_eq_true.mpr ⟨k, kept, decide_eq_true near⟩), ite_self]

theorem prune_append_of_room (room : ¬ Crowded degree alpha (prune degree alpha l) c) :
    prune degree alpha (l ++ [c]) = prune degree alpha l ++ [c.1] := by
  obtain ⟨short, far⟩ := not_or.mp room
  rw [prune_append_singleton, if_neg short, if_neg fun near => far (by simpa using near)]

end

theorem not_crowded_iff {degree alpha : Nat} {kept : List NRec} {c : NRec × Nat} :
    ¬ Crowded degree alpha kept c ↔ kept.length ≠ degree ∧ ∀ k ∈ kept, 16 * c.2 < alpha * ham k.sketch c.1.sketch := by
  simp [Crowded]

/-- What holds of the empty list, and of a list with one more at its end where it holds of the list, holds of every list. -/
theorem list_induction_from_end {α : Type} {P : List α → Prop} (nil : P []) (append_singleton : ∀ l a, P l → P (l ++ [a])) (l : List α) : P l := by
  have reversed : ∀ r : List α, P r.reverse := by
    intro r
    induction r with
    | nil => exact nil
    | cons a r ih =>
      rw [List.reverse_cons]
      exact append_singleton _ a ih
  have := reversed l.reverse
  rwa [List.reverse_reverse] at this

/-- The pruned list is chosen from the candidates in their order, and no chosen one crowds a later one. -/
theorem prune_chosen (degree alpha : Nat) (cands : List (NRec × Nat)) : ∃ chosen : List (NRec × Nat),
    prune degree alpha cands = chosen.map Prod.fst ∧ chosen.Sublist cands ∧ chosen.length ≤ degree
      ∧ chosen.Pairwise fun k c => 16 * c.2 < alpha * ham k.1.sketch c.1.sketch := by
  induction cands using list_induction_from_end with
  | nil => exact ⟨[], rfl, List.Sublist.refl [], Nat.zero_le _, List.Pairwise.nil⟩
  | append_singleton l c ih =>
    obtain ⟨chosen, same, part, few, apart⟩ := ih
    by_cases crowded : Crowded degree alpha (prune degree alpha l) c
    · exact ⟨chosen, (prune_append_of_crowded crowded).trans same, part.trans (List.sublist_append_left l [c]), few, apart⟩
    · obtain ⟨short, far⟩ := not_crowded_iff.mp crowded
      rw [same, List.length_map] at short
      refine ⟨chosen ++ [c], ?_, part.append (List.Sublist.refl [c]), ?_, ?_⟩
      · rw [prune_append_of_room crowded, same, List.map_append, List.map_singleton]
      · rw [List.length_append, List.length_singleton]
        omega
      · refine List.pairwise_append.mpr ⟨apart, List.pairwise_singleton _ c, fun k here d last => ?_⟩
        obtain rfl := List.mem_singleton.mp last
        exact far k.1 (same ▸ List.mem_map_of_mem here)

/-! ## A slice of a maintenance job (R18, R26, R149, R150) -/

/-- A change that a search cannot tell is a change of what it finds. -/
theorem find?_modifyIf {α : Type} {p q : α → Bool} {f : α → α} (keeps : ∀ x, q (f x) = q x) (l : List α) :
    (modifyIf l p f).find? q = (l.find? q).map fun x => if p x then f x else x := by
  have same : (q ∘ fun x => if p x then f x else x) = q := by
    funext x
    simp only [Function.comp]
    split
    · exact keeps x
    · rfl
  rw [modifyIf, List.find?_map, same]

theorem index_num {s : State} {n : Nat} {x : Index} (here : s.index n = some x) : x.num = n :=
  beq_iff_eq.mp (Bool.and_eq_true_iff.mp (List.find?_some (p := fun x : Index => x.num == n && !x.freed) here)).1

/-- A change of an index's shard is what a look at that shard finds. -/
theorem setShard_shard (n : Nat) (f : Shard → Shard) (s : State) : ((s.setShard n f).index n).bind Index.shard = ((s.index n).bind Index.shard).map f := by
  have looked : (s.setShard n f).index n = (s.index n).map fun x => if x.num == n then { x with shard := x.shard.map f } else x :=
    find?_modifyIf (f := fun x : Index => { x with shard := x.shard.map f }) (fun _ => rfl) s.indexes
  rw [looked]
  cases found : s.index n with
  | none => rfl
  | some x => simp [index_num found]

/-- A shard whose slice of this tick has run. -/
def ranShard (h : Shard) : Shard := { h with ran := true }

/-- The state after a slice of index `n` that runs: side-list entries, the sweep, and the mark that it ran. -/
def sliceRan (n : Nat) (sh : Shard) (s : State) : State := (sweepSlice n (sliceEntries n (sh.tail - sh.head + 1) s)).setShard n ranShard

/-- The state in which the merge job of index `n` has progressed. -/
def mergeProgressed (n : Nat) (t : State) : State :=
  { t with jobs := t.jobs.map fun j => if j.kind == .mergeIndex n then { j with progressed := true } else j }

section
variable {s : State} {n : Nat} {sh : Shard} (here : (s.index n).bind Index.shard = some sh)
include here

theorem runSlice_of_due (before : s.frame.tail = false) (allowed : sh.slice ≠ none) (first : sh.ran = false) : runSlice n sh.number s = sliceRan n sh s := by
  have slice : sh.slice.isNone = false := by simpa [Option.isSome_iff_ne_none] using allowed
  rw [runSlice, here]
  simp only [before, slice, first, bne_self_eq_false, Bool.or_self]
  rfl

theorem runSlice_of_over (done : s.frame.tail = true ∨ sh.slice = none ∨ sh.ran = true) : runSlice n sh.number s = s := by
  rw [runSlice, here]
  rcases done with tail | none | ran
  · simp [tail]
  · simp [none]
  · simp [ran]

/-- The job has progressed where the slice left its shard other than by the mark that it ran (R26). -/
theorem mergeSlice_eq : mergeSlice n sh.number s =
    if (((runSlice n sh.number s).index n).bind Index.shard).map ranShard = some (ranShard sh) then runSlice n sh.number s
    else mergeProgressed n (runSlice n sh.number s) := by
  have before : ((s.index n).bind Index.shard).map ranShard = some (ranShard sh) := by rw [here, Option.map_some]
  rw [← before]
  exact ite_congr (propext beq_iff_eq) (fun _ => rfl) (fun _ => rfl)

theorem mergeSlice_of_due (before : s.frame.tail = false) (allowed : sh.slice ≠ none) (first : sh.ran = false) : mergeSlice n sh.number s =
    if ((sliceRan n sh s).index n).bind Index.shard = some (ranShard sh) then sliceRan n sh s else mergeProgressed n (sliceRan n sh s) := by
  have marked : (((sliceRan n sh s).index n).bind Index.shard).map ranShard = ((sliceRan n sh s).index n).bind Index.shard := by
    rw [sliceRan, setShard_shard, Option.map_map]
    rfl
  rw [mergeSlice_eq here, runSlice_of_due here before allowed first, marked]

theorem mergeSlice_of_over (done : s.frame.tail = true ∨ sh.slice = none ∨ sh.ran = true) : mergeSlice n sh.number s = s := by
  rw [mergeSlice_eq here, runSlice_of_over here done, here]
  exact if_pos rfl

end

/-- Settles O40: the pruning rule candidate by candidate, and the slice by whether it may still run in this tick. -/
theorem maintenanceRules : Obligations.MaintenanceRules := by
  refine ⟨fun degree alpha cands => ?pruning, fun s n x sh up index shard => ?slice⟩
  case pruning =>
    obtain ⟨chosen, same, part, few, apart⟩ := prune_chosen degree alpha cands
    refine ⟨chosen, same, part, few, apart, fun l c r _ => ⟨prune_append_of_crowded, fun short far => ?_⟩⟩
    exact prune_append_of_room (not_crowded_iff.mpr ⟨short, far⟩)
  case slice =>
    have here : (s.index n).bind Index.shard = some sh := by rw [index, Option.bind_some, shard]
    have runs : exec (.mergeSlice n sh.number) s = .next (leaves s (mergeSlice n sh.number s)) := act_whenUp up (mergeSlice n sh.number)
    refine ⟨fun before allowed first => ⟨fun changed => ?_, fun same => ?_⟩, fun done => ?_⟩
    · rw [runs, mergeSlice_of_due here before allowed first]
      exact congrArg (fun t => Host.Outcome.next (leaves s t)) (if_neg changed)
    · rw [runs, mergeSlice_of_due here before allowed first]
      exact congrArg (fun t => Host.Outcome.next (leaves s t)) (if_pos same)
    · rw [runs, mergeSlice_of_over here done]

/-! ## Markers (R28–R30) -/

section
variable {s : State} (up : s.up = true)
include up

theorem exec_markerFlit (k : Nat) (m : Marker) (err : Int) : exec (.markerFlit k m err) s = .next (leaves s (markerArrives k m err s)) :=
  act_whenUp up (markerArrives k m err)

theorem exec_leaderLost : exec .leaderLost s = .next (leaves s (leaderGone s)) := act_whenUp up leaderGone

theorem exec_tickRefLost : exec .tickRefLost s = .next (leaves s (refLost s)) := act_whenUp up refLost

theorem exec_tickRefEdge (ns : Int) : exec (.tickRefEdge ns) s = .next (leaves s (refEdge ns s)) := act_whenUp up (refEdge ns)

end

/-- The first marker of a tick is the best so far (R28). -/
theorem betterMarker_none (l : Nat) (m : Marker) : betterMarker l m none = true := rfl

theorem betterMarker_some (l k : Nat) (m b : Marker) (e : Int) :
    betterMarker l m (some (k, b, e)) = true ↔ m.hops < b.hops ∨ m.hops = b.hops ∧ l < k := by simp [betterMarker]

/-- The better of the tick's marker so far and this one is kept for the boundary (R28). -/
def keepMarker (k : Nat) (m : Marker) (err : Int) (s : State) : State :=
  s.setFrame fun f => if betterMarker k m f.marker then { f with marker := some (k, m, err) } else f

theorem keepMarker_align (k : Nat) (m : Marker) (err : Int) (s : State) : (keepMarker k m err s).frame.align = s.frame.align := by
  rw [keepMarker, State.setFrame_frame]
  split <;> rfl

theorem takeFrame_frame (m : Marker) (s : State) : (takeFrame m s).frame = s.frame := by
  unfold takeFrame
  dsimp only
  repeat' split
  all_goals rfl

/-- The marker's leader is adopted, with the higher tick number, and its boundary slewed to where it lies off (R29, R30). -/
def leaderAdopted (k : Nat) (m : Marker) (err : Int) (s : State) : State :=
  let a := s.setFabric fun f => { f with leader := m.leader, members := dedupBy id (f.members ++ [m.leader]) }
  let b := takeFrame m ((adoptTick (max s.tick m.tick) a).setFrame fun f =>
    { f with marker := some (k, m, err), missed := 0, freeRunTicks := 0, align := .locked })
  if 40 < err.natAbs then slewTo err b else b

section
variable {k : Nat} {m : Marker} {err : Int} {s : State}

theorem markerArrives_of_down (down : (s.fabric.links.getD k {}).isUp = false) : markerArrives k m err s = flitIntact k s := by
  rw [markerArrives, down]
  rfl

variable (isUp : (s.fabric.links.getD k {}).isUp = true)
include isUp

/-- A standalone module keeps a marker only while it joins (R16). -/
theorem markerArrives_of_standalone (standalone : s.fabric.joined = false) :
    markerArrives k m err s = if s.fabric.joining.isSome then keepMarker k m err (flitIntact k s) else flitIntact k s := by
  have still : (flitIntact k s).fabric.joined = false := standalone
  rw [markerArrives, isUp]
  simp only [still]
  rfl

variable (joined : s.fabric.joined = true)
include joined

theorem markerArrives_of_joined :
    markerArrives k m err s =
      (let t := flitIntact k s
       let u := takeFrame m (keepMarker k m err t)
       if m.leader = s.fabric.leader then
         if m.leader = s.self then t
         else if s.frame.align = .freeRun then u.setFrame fun f => { f with align := .locked, freeRunTicks := 0, missed := 0 } else u
       else if s.frame.align = .freeRun ∨ m.leader < s.fabric.leader then leaderAdopted k m err t else t) := by
  have member : (flitIntact k s).fabric.joined = true := joined
  have align : (takeFrame m (keepMarker k m err (flitIntact k s))).frame.align = s.frame.align := by
    rw [takeFrame_frame, keepMarker_align]
    rfl
  have freeRun : (s.frame.align == .freeRun || decide (m.leader < s.fabric.leader)) = true ↔ s.frame.align = .freeRun ∨ m.leader < s.fabric.leader := by
    simp
  rw [markerArrives, isUp]
  simp only [member, Bool.not_true, Bool.false_eq_true, if_false]
  have stillFree : ((takeFrame m (keepMarker k m err (flitIntact k s))).frame.align == .freeRun) = true ↔ s.frame.align = .freeRun := by
    rw [beq_iff_eq, align]
  refine ite_congr rfl (fun _ => ?_) fun _ => ite_congr (propext freeRun) (fun _ => rfl) fun _ => rfl
  exact ite_congr rfl (fun _ => rfl) fun _ => ite_congr (propext stillFree) (fun _ => rfl) fun _ => rfl

end

/-! ## The leader's loss and the tick reference (R29, R31) -/

/-- The state after the leader is lost: the module runs free and no longer counts it as joined (R29). -/
def freeRunning (s : State) : State :=
  event 5 "LEADER_LOST" 0xFF s.fabric.leader ((s.setFrame fun f => { f with align := .freeRun, freeRunTicks := 0 }).setFabric fun f =>
    { f with members := f.members.filter fun m => m != f.leader, stale := true })

section
variable {s : State}

theorem leaderGone_of_second_miss (joined : s.fabric.joined = true) (follows : s.fabric.leader ≠ s.self) (silent : s.frame.marker = none)
    (again : 1 ≤ s.frame.missed) (aligned : s.frame.align ≠ .freeRun) : leaderGone s = freeRunning s := by
  rw [leaderGone, if_pos (by simp [joined, follows, silent, again, aligned])]
  rfl

theorem leaderGone_of_first_miss (first : s.frame.missed = 0) : leaderGone s = s := by
  rw [leaderGone, if_neg (by simp [first])]

/-- The state after the reference is lost: the leader paces itself, with the alarm raised (R31). -/
def refMissing (s : State) : State := raiseAlarm 0x003 0 (s.setFrame fun f => { f with refUsed := false, refEdges := 0, refAlarm := true })

theorem refLost_of_unused (unused : s.usesRef = false) : refLost s = s := by rw [refLost, unused, if_neg Bool.false_ne_true]

theorem refEdge_of_unused (unused : s.usesRef = false) (ns : Int) : refEdge ns s = s := by
  rw [refEdge, unused]
  rfl

variable (used : s.usesRef = true)
include used

theorem refLost_of_used : refLost s = refMissing s := by
  rw [refLost, if_pos used]
  rfl

theorem refEdge_of_used (ns : Int) :
    refEdge ns s =
      if 2000 < ns.natAbs then refMissing s
      else if s.frame.refAlarm then
        if s.frame.refEdges + 1 < 16 then s.setFrame fun f => { f with refEdges := f.refEdges + 1 }
        else clearAlarm 0x003 0 (s.setFrame fun f => { f with refUsed := true, refEdges := 0, refAlarm := false })
      else s.setFrame fun f => { f with refUsed := true } := by
  rw [refEdge, used, refLost_of_used used]
  rfl

end

/-- Settles O53: a marker by how it compares with the tick's best and by its leader, the leader's loss and the reference by their operations' conditions. -/
theorem hallTick : Obligations.HallTick := by
  refine ⟨fun l k m b e => ⟨betterMarker_none l m, fun fewer => ?fewer, fun alike => ?alike, fun more => ?more⟩,
    fun s up => ⟨?down, ?member, ?standalone, ?lost, ?missedOnce, ?unpaced, ?paced⟩⟩
  case fewer => exact (betterMarker_some l k m b e).mpr (.inl fewer)
  case alike => rw [betterMarker_some]; omega
  case more => rw [Bool.eq_false_iff, ne_eq, betterMarker_some]; omega
  case down =>
    intro k m err t down
    rw [exec_markerFlit up, markerArrives_of_down down]
  case member =>
    intro k m err t isUp joined u
    have arrives := markerArrives_of_joined (m := m) (err := err) isUp joined
    refine ⟨fun same other locked => ?_, fun same other free => ?_, fun same self => ?_, fun foreign adopts => ?_, fun foreign higher locked => ?_⟩
    · rw [exec_markerFlit up, arrives, if_pos same, if_neg other, if_neg locked]
      rfl
    · rw [exec_markerFlit up, arrives, if_pos same, if_neg other, if_pos free]
      rfl
    · rw [exec_markerFlit up, arrives, if_pos same, if_pos self]
    · rw [exec_markerFlit up, arrives, if_neg foreign, if_pos adopts.symm]
      rfl
    · rw [exec_markerFlit up, arrives, if_neg foreign, if_neg (not_or.mpr ⟨locked, Nat.not_lt.mpr (Nat.le_of_lt higher)⟩)]
  case standalone =>
    intro k m err t isUp alone
    have arrives := markerArrives_of_standalone (m := m) (err := err) isUp alone
    refine ⟨fun joining => ?_, fun idle => ?_⟩
    · rw [exec_markerFlit up, arrives, if_pos (Option.isSome_iff_ne_none.mpr joining)]
      rfl
    · rw [exec_markerFlit up, arrives, idle]
      rfl
  case lost =>
    intro joined follows silent again aligned
    rw [exec_leaderLost up, leaderGone_of_second_miss joined follows silent again aligned]
    rfl
  case missedOnce =>
    intro first
    rw [exec_leaderLost up, leaderGone_of_first_miss first]
  case unpaced =>
    intro unused
    refine ⟨?_, fun ns => ?_⟩
    · rw [exec_tickRefLost up, refLost_of_unused unused]
    · rw [exec_tickRefEdge up, refEdge_of_unused unused]
  case paced =>
    intro used lost
    refine ⟨?_, fun ns => ⟨fun late => ?_, fun within quiet => ?_, fun within alarmed few => ?_, fun within alarmed enough => ?_⟩⟩
    · rw [exec_tickRefLost up, refLost_of_used used]
      rfl
    · rw [exec_tickRefEdge up, refEdge_of_used used, if_pos late]
      rfl
    · rw [exec_tickRefEdge up, refEdge_of_used used, if_neg (Nat.not_lt.mpr within), quiet, if_neg Bool.false_ne_true]
    · rw [exec_tickRefEdge up, refEdge_of_used used, if_neg (Nat.not_lt.mpr within), if_pos alarmed, if_pos few]
    · rw [exec_tickRefEdge up, refEdge_of_used used, if_neg (Nat.not_lt.mpr within), if_pos alarmed, if_neg (Nat.not_lt.mpr enough)]

end Sys2Proof.Proofs

namespace Sys2Proof.Proofs

/-! Row reads of a gather (R25, R256, R257), and walks and lists over the fabric (R23, R64, R135, R138, R321, R326). -/

open Sys2Proof Sys2Proof.Machine Sys2Proof.Laws

/-! ## A gather's row reads (R25, R256, R257, R264) -/

/-- A row of this member comes back, read by directory entry `loc` (R256, R264). -/
def localRowReturned (c : Cmd) (g : Gather) (t : Table) (i : Nat) (r : GRead) (err : Bool) (s : State) : State :=
  let j := t.localRow r.row
  let loc := if Config.freeBool s.free then r.loc else (s.dirEntry t j).1
  let badEntry := s.poisoned t.dir (8 * j) 8
  let bad := err || badEntry || s.poisoned t.heap (8 * loc) t.rowBytes
  let u := ({ s with free := s.free + 1 } : State)
  rowArrived c g t i r (s.readObj t.heap (8 * loc) t.rowBytes) bad
    (if badEntry then uncorrectable t.dir (8 * j) 8 u else if bad then uncorrectable t.heap (8 * loc) t.rowBytes u else u)

/-- A row of another member comes with the answers to its reads (R256). -/
def remoteRowReturned (c : Cmd) (g : Gather) (t : Table) (i : Nat) (r : GRead) (err : Bool) (s : State) : State :=
  rowArrived c g t i r (slice (s.answers r.tags) (8 * r.loc % 256) t.rowBytes) (err || s.answeredBad r.tags) s

/-- The state in which row read `r` of batch `id` is late: the batch names the stream of its first late read (R61, R257). -/
def lateNoted (id : Nat) (g : Gather) (r : GRead) (s : State) : State :=
  s.setGather id fun x => { x with late := some (x.late.getD (0x200 + g.engines.getD r.window 0)) }

section
variable {s : State} {id i : Nat} {g : Gather} {c : Cmd} {r : GRead} (batch : s.gather id = some g) (command : s.cmd id = some c)
  (read : g.reads[i]? = some r)
include batch command read

section
variable {t : Table} (table : s.table g.table = some t) (reading : r.state = .row) (err : Bool)
include table reading

theorem gatherReturned_of_row :
    gatherReturned id i err s =
      if r.member = s.self then localRowReturned c g t i r err s
      else if s.answered r.tags then remoteRowReturned c g t i r err s else s := by
  have expected : ¬(r.state != .row) = true := by simp [reading]
  rw [gatherReturned, batch, command]
  simp only [read, table, if_neg expected]
  rfl

theorem gatherReturned_of_local (here : r.member = s.self) : gatherReturned id i err s = localRowReturned c g t i r err s := by
  rw [gatherReturned_of_row batch command read table reading, if_pos here]

theorem gatherReturned_of_remote (away : r.member ≠ s.self) (answered : s.answered r.tags = true) :
    gatherReturned id i err s = remoteRowReturned c g t i r err s := by
  rw [gatherReturned_of_row batch command read table reading, if_neg away, if_pos answered]

end

variable (outstanding : r.state ≠ .arrived) (kept : r.state ≠ .dropped)
include outstanding kept

/-- DEGRADE drops a late row; STALL waits for it, and counts the wait where the batch is STRICT (R257). -/
theorem gatherLate_of_outstanding :
    gatherLate id i s =
      if c.work.getD 0 0 = 1 then gatherMerge id (dropRow c i (dropReads r.tags (lateNoted id g r s)))
      else if c.strict then (lateNoted id g r s).setChan (handleSlot c.q.handle) fun h => { h with stalls := h.stalls + 1 }
      else lateNoted id g r s := by
  have waits : ¬(r.state == .arrived || r.state == .dropped) = true := by simp [outstanding, kept]
  rw [gatherLate, batch, command]
  simp only [read, if_neg waits]
  rfl

end

/-- Settles O41: a read that returns by where its row lies, one that is late by the batch's consumer rule. -/
theorem gatherEvents : Obligations.GatherEvents := by
  intro s id i g c r t up batch command read table chan dropped
  have returns : ∀ err, exec (.gatherRowReturn id i err) s = .next (leaves s (gatherReturned id i err s)) :=
    fun err => act_whenUp up (gatherReturned id i err)
  have lates : exec (.gatherRowLate id i) s = .next (leaves s (gatherLate id i s)) := act_whenUp up (gatherLate id i)
  refine ⟨fun err reading here => ?here, fun err reading away answered => ?away, fun bs u => ⟨rfl, rfl⟩, fun outstanding kept => ?late⟩
  case here =>
    rw [returns, gatherReturned_of_local batch command read table reading err here]
    rfl
  case away =>
    rw [returns, gatherReturned_of_remote batch command read table reading err away answered]
    rfl
  case late =>
    have decided := gatherLate_of_outstanding batch command read outstanding kept
    refine ⟨fun degrade => ?_, fun stall strict => ?_, fun stall elastic => ?_⟩
    · rw [lates, decided, if_pos degrade]
      rfl
    · rw [lates, decided, if_neg stall, if_pos strict]
      rfl
    · rw [lates, decided, if_neg stall, elastic, if_neg Bool.false_ne_true]
      rfl

/-! ## Walks over the fabric (R23, R326) -/

/-- The shard-walk that a WALK asks of this member's shard; its charge is its hop budget (R326; DEDUCED, log entry 25). -/
def walkAsked (h : FabHdr) (w : WalkMsg) (sh : Shard) (tick : Nat) : Walk :=
  { id := 0, coord := h.coord, query := h.query, index := w.index, shard := sh.number, k := w.k, width := w.width, budget := w.budget
    strict := w.strict, degrade := w.degrade, escalation := w.escalation, exactCount := w.exact, charge := w.budget, sketch := w.sketch
    predicate := w.predicate, tagSet := w.tagSet, vector := w.vector, admitTick := h.admitTick, deadline := h.deadline, tick := tick
    noEscalation := w.escalation == 0 }

/-- The first tick in which a walk may go: none before its admission, and none whose work window is over (R23, R24). -/
def firstTick (v : Walk) (s : State) : Nat := max v.admitTick (if s.frame.tail then s.tick + 1 else s.tick)

/-- Does the walk fit the present tick: its hops, its deadline unless it is patient, and engines for it (R23)? -/
def FitsNow (v : Walk) (s : State) : Prop :=
  s.chargedAt s.tick .hops + v.charge ≤ s.capacity .hops ∧ (s.tick ≤ v.admitTick + v.deadline ∨ v.patient = true) ∧ (placeWalk v s.tick s).2 = true

/-- The earliest tick after the present one that has capacity for the walk (R23). -/
def laterTick (v : Walk) (s : State) : Option Nat :=
  s.walkTickFrom (if firstTick v s = s.tick then s.tick + 1 else firstTick v s) v.charge v.admitTick v.deadline v.patient

section
variable {v : Walk} {s : State}

theorem arriveWalk_of_fits (now : firstTick v s = s.tick) (fits : FitsNow v s) :
    arriveWalk v false s = some (markReady (chargeNow [(.hops, v.charge)] (placeWalk v s.tick s).1)) := by
  obtain ⟨room, intime, placed⟩ := fits
  have taken : ¬(!false && (decide (s.capacity .hops < s.chargedAt s.tick .hops + v.charge)
      || (decide (v.admitTick + v.deadline < s.tick) && !v.patient))) = true := by
    rcases intime with early | patient
    · simp [Nat.not_lt.mpr room, Nat.not_lt.mpr early]
    · simp [Nat.not_lt.mpr room, patient]
  rw [firstTick] at now
  rw [arriveWalk]
  simp only [now, ne_eq, not_true, if_false, if_neg taken, placed, if_true]
  rfl

theorem arriveWalk_of_later (later : firstTick v s ≠ s.tick ∨ ¬ FitsNow v s) :
    arriveWalk v false s = (laterTick v s).map fun t => (placeWalk v t s).1 := by
  by_cases now : firstTick v s = s.tick
  · have tight : ¬ FitsNow v s := later.resolve_left (not_not_intro now)
    have next : laterTick v s = s.walkTickFrom (s.tick + 1) v.charge v.admitTick v.deadline v.patient := by rw [laterTick, if_pos now]
    rw [next, arriveWalk]
    rw [firstTick] at now
    simp only [now, ne_eq, not_true, if_false]
    split
    next => rfl
    next taken =>
      rw [if_neg]
      intro placed
      refine tight ⟨?_, ?_, placed⟩
      · refine Decidable.byContradiction fun crowded => ?_
        exact taken (by simp [Nat.not_le.mp crowded])
      · refine Decidable.byContradiction fun late => ?_
        obtain ⟨past, impatient⟩ := not_or.mp late
        exact taken (by simp [Nat.not_le.mp past, impatient])
  · rw [laterTick, if_neg now, arriveWalk]
    exact if_pos now

/-- No tick is left for a walk that may not wait when its last is past (R23). -/
theorem laterTick_of_past (impatient : v.patient = false) (past : v.admitTick + v.deadline < s.tick) : laterTick v s = none := by
  have start : s.tick ≤ if firstTick v s = s.tick then s.tick + 1 else firstTick v s := by
    unfold firstTick
    split <;> split <;> omega
  have noTick : v.admitTick + v.deadline + 1 - (if firstTick v s = s.tick then s.tick + 1 else firstTick v s) = 0 := by omega
  rw [laterTick, State.walkTickFrom, impatient]
  simp only [Bool.false_eq_true, if_false, noTick, findFrom]

end

/-! ## Walks, lists and cancels as they arrive (R64, R135, R138, R321, R326) -/

/-- Does a CANCEL that came first apply to this WALK (R326)? -/
def cancelsAhead (h : FabHdr) (tick : Nat) (c : Nat × Nat × Nat) : Bool := c.1 == h.coord && c.2.1 == h.query && decide (tick ≤ c.2.2)

section
variable {s : State} {h : FabHdr} {w : WalkMsg}

theorem walkArrives_of_cancelled (cancelled : ∃ c ∈ s.fabric.cancels, c.1 = h.coord ∧ c.2.1 = h.query ∧ s.tick ≤ c.2.2) :
    walkArrives h w s = s.setFabric fun f => { f with cancels := f.cancels.filter fun c => !cancelsAhead h s.tick c } := by
  obtain ⟨c, listed, coord, query, held⟩ := cancelled
  have found : s.fabric.cancels.any (cancelsAhead h s.tick) = true := List.any_eq_true.mpr ⟨c, listed, by simp [cancelsAhead, coord, query, held]⟩
  exact if_pos found

variable (uncancelled : s.fabric.cancels = [])
include uncancelled

theorem walkArrives_of_uncancelled :
    walkArrives h w s = match (s.index w.index).bind Index.shard with
      | none => refuseWalk h 0 s
      | some sh => (arriveWalk (walkAsked h w sh s.tick) false s).getD (refuseWalk h sh.number s) := by
  have unfound : ¬s.fabric.cancels.any (cancelsAhead h s.tick) = true := by simp [uncancelled]
  refine (if_neg unfound).trans ?_
  rfl

theorem walkArrives_of_no_shard (unsharded : (s.index w.index).bind Index.shard = none) : walkArrives h w s = refuseWalk h 0 s := by
  rw [walkArrives_of_uncancelled uncancelled, unsharded]

variable {sh : Shard} (here : (s.index w.index).bind Index.shard = some sh)
include here

theorem walkArrives_of_shard : walkArrives h w s = (arriveWalk (walkAsked h w sh s.tick) false s).getD (refuseWalk h sh.number s) := by
  rw [walkArrives_of_uncancelled uncancelled, here]

theorem walkArrives_of_fits (now : firstTick (walkAsked h w sh s.tick) s = s.tick) (fits : FitsNow (walkAsked h w sh s.tick) s) :
    walkArrives h w s = markReady (chargeNow [(.hops, w.budget)] (placeWalk (walkAsked h w sh s.tick) s.tick s).1) := by
  rw [walkArrives_of_shard uncancelled here, arriveWalk_of_fits now fits]
  rfl

variable (later : firstTick (walkAsked h w sh s.tick) s ≠ s.tick ∨ ¬ FitsNow (walkAsked h w sh s.tick) s)
include later

theorem walkArrives_of_later {t : Nat} (next : laterTick (walkAsked h w sh s.tick) s = some t) :
    walkArrives h w s = (placeWalk (walkAsked h w sh s.tick) t s).1 := by
  rw [walkArrives_of_shard uncancelled here, arriveWalk_of_later later, next]
  rfl

theorem walkArrives_of_no_tick (next : laterTick (walkAsked h w sh s.tick) s = none) : walkArrives h w s = refuseWalk h sh.number s := by
  rw [walkArrives_of_shard uncancelled here, arriveWalk_of_later later, next]
  rfl

end

/-- A STRICT walk whose last tick is past fits no tick (R23). -/
theorem not_fitsNow_of_past {v : Walk} {s : State} (impatient : v.patient = false) (past : v.admitTick + v.deadline < s.tick) : ¬ FitsNow v s := by
  rintro ⟨-, intime | patient, -⟩
  · omega
  · rw [impatient] at patient; contradiction

/-- Is this the walk that a CANCEL of the query names (R64, R326)? -/
def walkNamed (h : FabHdr) (index : Nat) (w : Walk) : Bool := w.coord == h.coord && w.query == h.query && w.index == index

theorem cancelArrives_eq (h : FabHdr) (index : Nat) (s : State) :
    cancelArrives h index s =
      if s.walks.any (walkNamed h index) then
        { s with walks := modifyIf s.walks (fun w => walkNamed h index w && w.phase != .sent) fun w => { w with cancelled := true } }
      else if s.tick ≤ h.admitTick + h.deadline then s.setFabric fun f => { f with cancels := f.cancels ++ [(h.coord, h.query, h.admitTick + h.deadline)] }
      else s := rfl

/-- A list for a query that no longer waits is kept for its answer and counted late on its channel (R138). -/
theorem shardAnswers_of_late {num shard : Nat} {l : ListMsg} {s : State} {q : Query} (query : s.queries.find? (fun q => q.number == num) = some q)
    (decided : q.result ≠ none) (awaited : q.shards.any (fun p => p.1 == shard && p.2 == .waiting) = true) :
    shardAnswers num shard (.list l) s =
      (s.setQuery num fun v => { v with shards := v.shards.map fun p => if p.1 = shard then (p.1, .list l) else p }).setChan q.chan
        fun c => { c with lateLists := c.lateLists + 1 } := by
  rw [shardAnswers, query]
  simp only [awaited, Bool.not_true, Bool.false_eq_true, if_false, if_pos (Option.isSome_iff_ne_none.mpr decided)]

/-- Settles O49: a WALK by its CANCEL, its shard and the tick it fits; the other packets by the conditions of their operations. -/
theorem walkPackets : Obligations.WalkPackets := by
  intro s h
  refine ⟨fun w => walkArrives_of_cancelled, fun w uncancelled => walkArrives_of_no_shard uncancelled, fun w sh uncancelled here strict past => ?past,
    fun w sh uncancelled here => ?placed, fun index => ?cancel, fun shard mine => if_pos mine, fun l mine => if_pos mine,
    fun l q mine query decided awaited => ?late, fun code => rfl⟩
  case past =>
    have impatient : (walkAsked h w sh s.tick).patient = false := by simp [Walk.patient, walkAsked, strict]
    exact walkArrives_of_no_tick uncancelled here (.inr (not_fitsNow_of_past impatient past)) (laterTick_of_past impatient past)
  case placed =>
    intro v patient first fits next
    exact ⟨fun now fits => walkArrives_of_fits uncancelled here now fits, fun later t found => walkArrives_of_later uncancelled here later found,
      fun later none => walkArrives_of_no_tick uncancelled here later none⟩
  case cancel =>
    intro mine
    have cancels : pktEffect (.cancel h index) s = cancelArrives h index s := rfl
    refine ⟨fun walks => ?_, fun idle early => ?_, fun idle late => ?_⟩
    · rw [cancels, cancelArrives_eq]
      exact if_pos walks
    · rw [cancels, cancelArrives_eq]
      exact (if_neg (Bool.eq_false_iff.mp idle)).trans (if_pos early)
    · rw [cancels, cancelArrives_eq]
      exact (if_neg (Bool.eq_false_iff.mp idle)).trans (if_neg (Nat.not_le.mpr late))
  case late => exact (if_pos mine).trans (shardAnswers_of_late query decided awaited)

end Sys2Proof.Proofs

namespace Sys2Proof.Proofs

/-! Roles (R38, R42–R44), the firmware packets (R374–R376), the maker's packets (R44, R378, R381), and streams brought up and down (R36, R37, R50, R58, R64). -/

open Sys2Proof Sys2Proof.Machine Sys2Proof.Laws

/-! ## Roles taken up, refused and dropped (R38, R42–R44) -/

section
variable {s : State} {q : Pkt}

theorem exec_roleAssume (holds : s.takesHold 0xA001 q) : exec (.roleAssume q) s = .next (s.after 0xA001 q (holdRoleAssume (s.holder 0xA001 q))) :=
  exec_of_takesHold rfl holds (by decide) rfl rfl

theorem exec_roleDrop (holds : s.takesHold 0xA002 q) : exec (.roleDrop q) s = .next (s.after 0xA002 q (holdRoleDrop (s.holder 0xA002 q))) :=
  exec_of_takesHold rfl holds (by decide) rfl rfl

end

section
variable {c : Cmd} {s : State}

theorem holdRoleAssume_of_unlocked (unlocked : s.mgmt.lockout = none) :
    holdRoleAssume c s = if fld c.q.params 0 1 = 0 then holdChallenge c s else holdAnswer c s :=
  if_neg (by simp [unlocked])

theorem holdRoleAssume_of_locked (locked : s.mgmt.lockout ≠ none) :
    holdRoleAssume c s = if fld c.q.params 0 1 = 0 then
        finish c (badRole 0) (auditFor 1 1 c.q (afield (fld c.q.params 1 1) ++ afield (fld c.q.params 2 1) ++ afield 0) s)
      else refuseRole c 0 0 false s :=
  if_pos (Option.isSome_iff_ne_none.mpr locked)

/-- Only port 0 is kept from a role by the management port's (R38). -/
theorem roleTaken_of_vacant {q : Pkt} (vacant : q.access = 0 → s.role 8 = 0) : roleTaken q s = false := by
  rw [roleTaken, Bool.and_eq_false_iff]
  by_cases zero : q.access = 0
  · exact .inr (by simp [vacant zero])
  · exact .inl (by simp [zero])

/-- The answer to a challenge of this port, of this role and at most 60 s old is as good as its signatures (R42). -/
theorem answerGood_of_fresh {q : Pkt} {ch : Challenge} {key : Bytes} (issued : (s.port q.access).challenge = some ch)
    (known : answerKey (fld q.params 1 1) (fld q.params 2 1) s = some key) (asked : ch.role = fld q.params 1 1)
    (fresh : s.frame.elapsed - ch.issuedAt ≤ 60000000) :
    answerGood q s = dualVerifies key ch.bytes (slice q.params 16 384) (slice q.params 400 16224) := by
  simp [answerGood, issued, known, asked, fresh]

/-- What a good answer leaves: the challenge spent, the failures forgotten, the act audited and the role held; installer on the management port has taken
it from port 0 (R38, R42, R43). -/
def roleGranted (q : Pkt) (s : State) : State :=
  let u := auditFor 1 0 q (afield (fld q.params 1 1) ++ afield (fld q.params 2 1) ++ afield 0)
    ((s.setPort q.access fun x => { x with challenge := none }).setMgmt fun m => { m with failedAnswers := 0 })
  setRole q.access (fld q.params 1 1) (fld q.params 2 1) (if q.access = 8 ∧ fld q.params 1 1 = 1 ∧ u.role 0 = 1 then loseRole 0 2 u else u)

/-- An answer to the port's own fresh challenge is decided by its signatures alone (R38, R42, R43). -/
theorem holdAnswer_of_fresh {q : Pkt} {ch : Challenge} {key : Bytes} (packet : c.q = q) (vacant : q.access = 0 → s.role 8 = 0)
    (issued : (s.port q.access).challenge = some ch) (known : answerKey (fld q.params 1 1) (fld q.params 2 1) s = some key)
    (asked : ch.role = fld q.params 1 1) (fresh : s.frame.elapsed - ch.issuedAt ≤ 60000000) :
    holdAnswer c s = if dualVerifies key ch.bytes (slice q.params 16 384) (slice q.params 400 16224) then finish c (okDone 0) (roleGranted q s)
      else refuseRole c 0 2 true s := by
  subst packet
  rw [holdAnswer, roleTaken_of_vacant vacant, answerGood_of_fresh issued known asked fresh, if_neg Bool.false_ne_true]
  rfl

/-- A refusal that does not count leaves only its audit entry and the challenge spent (R42). -/
theorem refuseRole_uncounted (detail cause : Nat) :
    refuseRole c detail cause false s = finish c (badRole detail)
      (auditFor 1 1 c.q (afield (fld c.q.params 1 1) ++ afield (fld c.q.params 2 1) ++ afield cause)
        (s.setPort c.q.access fun x => { x with challenge := none })) := rfl

end

section
variable {p : Nat} {s : State} (port : p < s.ports.length)
include port

theorem setRole_role (role slot : Nat) : (setRole p role slot s).role p = role := by
  rw [setRole]
  split
  · simp [setEvents, State.role, setPort_port, port]
  · simp [State.role, setPort_port, port]

/-- Whatever role is lost, operator is what stays (R44). -/
theorem loseRole_role (cause : Nat) : (loseRole p cause s).role p = 0 := by
  rw [loseRole]
  split
  next operator => simpa [State.role, setPort_port, port] using operator
  next =>
    obtain ⟨ports, -⟩ := auditWrite_role 2 0 p (s.role p) 0 0 (afield (s.role p) ++ afield cause) s
    exact setRole_role (ports.symm ▸ port) 0 0

end

/-- Settles O20: a ROLE_ASSUME by its step, the lockout and the answer's signatures, a ROLE_DROP by its act; a role that is lost leaves operator. -/
theorem rolePackets : Obligations.RolePackets := by
  refine fun s q => ⟨fun holds => ⟨?challenge, ?answer⟩, ?drop, fun c t locked => ⟨?lockedChallenge, ?lockedAnswer⟩, ?operator⟩
  case challenge => exact fun unlocked step => answers_of_act (exec_roleAssume holds) ((holdRoleAssume_of_unlocked unlocked).trans (if_pos step))
  case answer =>
    intro ch key unlocked step vacant issued known asked fresh
    have answers := (holdRoleAssume_of_unlocked (c := s.holder 0xA001 q) unlocked).trans (if_neg step)
    exact leaves_of_act (exec_roleAssume holds) (answers.trans (holdAnswer_of_fresh rfl vacant issued known asked fresh))
  case drop => exact fun holds => exec_roleDrop holds
  case lockedChallenge => exact fun step => (holdRoleAssume_of_locked locked).trans (if_pos step)
  case lockedAnswer =>
    intro step
    rw [holdRoleAssume_of_locked locked, if_neg step, refuseRole_uncounted]
  case operator => exact fun p cause t port => loseRole_role port cause

/-! ## Firmware staged and activated (R374–R376) -/

section
variable {s : State} {q : Pkt}

theorem exec_fwStage (holds : s.takesHold 0xB001 q) : exec (.fwStage q) s = .next (s.after 0xB001 q (holdFwStage (s.holder 0xB001 q))) :=
  exec_of_takesHold rfl holds (by decide) rfl rfl

theorem exec_fwActivate (holds : s.takesHold 0xB002 q) : exec (.fwActivate q) s = .next (s.after 0xB002 q (holdFwActivate (s.holder 0xB002 q))) :=
  exec_of_takesHold rfl holds (by decide) rfl rfl

theorem exec_fwStatus (holds : s.takesHold 0xB003 q) : exec (.fwStatus q) s = .next (s.after 0xB003 q (holdFwStatus (s.holder 0xB003 q))) :=
  exec_of_takesHold rfl holds (by decide) rfl rfl

end

/-- The erase of a BEGIN under way on the slot that is not running; a ledger that named that slot names the running one (R374). -/
def eraseBegun (c : Cmd) (s : State) : State :=
  let slot := 1 - s.mgmt.running
  let u := if s.mgmt.ledger.activeSlot = slot then writeLedger (fun l => { l with activeSlot := s.mgmt.running }) s else s
  (auditFw c.q slot 0 (u.setMgmt fun m => { m.setSlot slot fun _ => { state := 1 } with eraseSlot := some (slot, c.id) })).setCmd c.id fun d =>
    { d with state := .running, admitTick := u.tick }

/-- The bytes of a DATA, carried by the packet or read from the host, programmed into the slot that is not running (R374). -/
def rangeProgrammed (q : Pkt) (s : State) : State :=
  let slot := 1 - s.mgmt.running
  let off := fld q.params 8 8
  let len := fld q.params 4 4
  auditFw q slot 0 (s.setMgmt fun m => m.setSlot slot fun f => { f with
    ranges := f.ranges ++ [(off, len)]
    image := f.image.write off (if fld q.params 16 8 = 0 then slice q.params 32 len else s.hostView.read (fld q.params 16 8) len) })

/-- The verification of a FINISH under way (R374). -/
def verifyBegun (c : Cmd) (s : State) : State :=
  (s.setMgmt fun m => { m with verifySlot := some (1 - s.mgmt.running, c.id) }).setCmd c.id fun d => { d with state := .running, admitTick := s.tick }

section
variable {c : Cmd} {q : Pkt} {s : State}

theorem fwStageRefused_begin (step : fld q.params 0 1 = 0) (idle : s.mgmt.draining = none) : fwStageRefused q s = none := by
  simp [fwStageRefused, step, idle]

/-- A DATA on a slot that is being staged is accepted where its range lies in the slot and meets none that is programmed (R374). -/
theorem fwStageRefused_data (step : fld q.params 0 1 = 1) (staging : (s.mgmt.slot (1 - s.mgmt.running)).state = 1)
    (inside : fld q.params 8 8 + fld q.params 4 4 ≤ slotBytes)
    (unprogrammed : (s.mgmt.slot (1 - s.mgmt.running)).ranges.any (fun r =>
      decide (r.1 < fld q.params 8 8 + fld q.params 4 4) && decide (fld q.params 8 8 < r.1 + r.2)) = false) : fwStageRefused q s = none := by
  simp [fwStageRefused, step, firstBad, staging, inside, unprogrammed]

theorem fwStageRefused_late (step : 1 < fld q.params 0 1) : fwStageRefused q s = none := by
  rw [fwStageRefused]
  split
  next begin => omega
  next data => omega
  next => rfl

section
variable (packet : c.q = q) (accepted : fwStageRefused q s = none)
include packet accepted

theorem holdFwStage_begin (step : fld q.params 0 1 = 0) : holdFwStage c s = eraseBegun c s := by
  subst packet
  simp only [holdFwStage, accepted, step]
  rfl

theorem holdFwStage_data (step : fld q.params 0 1 = 1) : holdFwStage c s = finish c (okDone 0) (rangeProgrammed q s) := by
  subst packet
  simp only [holdFwStage, accepted, step]
  rfl

theorem holdFwStage_finish (step : fld q.params 0 1 = 2) : holdFwStage c s = verifyBegun c s := by
  subst packet
  simp only [holdFwStage, accepted, step]
  rfl

theorem holdFwStage_cancel (step : fld q.params 0 1 = 3) :
    holdFwStage c s = finish c (okDone 0) (auditFw q (1 - s.mgmt.running) 0 (s.setMgmt fun m => m.setSlot (1 - s.mgmt.running) fun _ => {})) := by
  subst packet
  simp only [holdFwStage, accepted, step]

end

/-- The slot of an activation, named for the next start (R375). -/
def activationNamed (q : Pkt) (s : State) : State := writeLedger (fun l => { l with activeSlot := fld q.params 0 1 }) (auditFw q (fld q.params 0 1) 0 s)

/-- An activation now: the ports disabled, the fabric left, and 256 ticks of draining begun (R375). -/
def drainBegun (c : Cmd) (s : State) : State :=
  let u := leaveFabric (disablePorts (activationNamed c.q s))
  (u.setMgmt fun m => { m with draining := some (fld c.q.params 0 1, c.id, 256) }).setCmd c.id fun d => { d with state := .running, admitTick := u.tick }

theorem fwActivateRefused_of_valid (valid : (s.mgmt.slot (fld q.params 0 1)).state = 2 ∨ fld q.params 0 1 = s.mgmt.running)
    (idle : s.mgmt.draining = none) : fwActivateRefused q s = false := by
  rcases valid with verified | running
  · simp [fwActivateRefused, idle, verified]
  · simp [fwActivateRefused, idle, running]

theorem holdFwActivate_of_accepted (packet : c.q = q) (accepted : fwActivateRefused q s = false) :
    holdFwActivate c s = if fld q.params 1 1 = 0 then finish c (okDone 0) (activationNamed q s) else drainBegun c s := by
  subst packet
  exact if_neg (Bool.eq_false_iff.mp accepted)

end

/-! ## The maker's packets (R44, R378, R381) -/

section
variable {s : State} {q : Pkt}

theorem exec_testMode (holds : s.takesHold 0xE001 q) : exec (.testMode q) s = .next (s.after 0xE001 q (holdTestMode (s.holder 0xE001 q))) :=
  exec_of_takesHold rfl holds (by decide) rfl rfl

theorem exec_fuseProgram (holds : s.takesHold 0xE002 q) : exec (.fuseProgram q) s = .next (s.after 0xE002 q (holdFuseProgram (s.holder 0xE002 q))) :=
  exec_of_takesHold rfl holds (by decide) rfl rfl

theorem exec_identityProvision (holds : s.takesHold 0xE003 q) :
    exec (.identityProvision q) s = .next (s.after 0xE003 q (holdIdentityProvision (s.holder 0xE003 q))) :=
  exec_of_takesHold rfl holds (by decide) rfl rfl

theorem exec_identityRotate (holds : s.takesHold 0xE004 q) :
    exec (.identityRotate q) s = .next (s.after 0xE004 q (holdIdentityRotate (s.holder 0xE004 q))) :=
  exec_of_takesHold rfl holds (by decide) rfl rfl

theorem exec_decommission (holds : s.takesHold 0xE005 q) : exec (.decommission q) s = .next (s.after 0xE005 q (holdDecommission (s.holder 0xE005 q))) :=
  exec_of_takesHold rfl holds (by decide) rfl rfl

end

theorem holdIdentityProvision_of_none {c : Cmd} {s : State} (unprovided : s.mgmt.identity = none) :
    holdIdentityProvision c s = finish c (okDone 0) ((auditMaker c 0 s).setMgmt (newIdentity c)) :=
  if_neg (by simp [unprovided])

section
variable (o : Obj)

/-- A scrub moves no page. -/
theorem scrubbed_pageTier (page : Nat) : o.scrubbed.pageTier page = o.pageTier page := by
  rw [Obj.scrubbed]
  split <;> rfl

/-- The bytes, poison and fill that a scrub leaves an object are those in T2 (R44). -/
theorem scrubbed_inT2 :
    (∀ e ∈ o.scrubbed.data, o.scrubbed.pageTier (e.1 / 65536) = 2) ∧ (∀ g ∈ o.scrubbed.poison, o.scrubbed.pageTier (256 * g / 65536) = 2)
      ∧ (o.scrubbed.fresh = [] ∨ o.scrubbed.tier = 2) := by
  simp only [scrubbed_pageTier]
  rw [Obj.scrubbed]
  split
  next bare =>
    refine ⟨fun e kept => ?_, fun g kept => ?_, ?_⟩
    · simpa using (List.mem_filter.mp kept).2
    · simpa using (List.mem_filter.mp kept).2
    · simpa using bare
  next => simp

end

theorem scrubAll_objs (c : Cmd) (s : State) : ∀ o ∈ (scrubAll c s).objs, ∃ o' : Obj, o = o'.scrubbed := by
  intro o kept
  obtain ⟨o', -, rfl⟩ := List.mem_map.mp kept
  exact ⟨o', rfl⟩

/-- Settles O22: a firmware packet by its step and what would refuse it, a maker's packet by its act; a scrub leaves an object what it has in T2. -/
theorem firmwarePackets : Obligations.FirmwarePackets := by
  refine ⟨fun s q => ⟨fun holds => ⟨?eraseBegins, ?programs, ?verifies, ?empties⟩, fun holds valid idle => ?activates, ?status⟩,
    fun s q => ⟨?testMode, ?fuse, ?provision, ?rotate, ?decommission, fun c t => ⟨rfl, rfl, ?scrub⟩⟩⟩
  case eraseBegins =>
    exact fun step idle => leaves_of_act (exec_fwStage holds) (holdFwStage_begin rfl (fwStageRefused_begin step idle) step)
  case programs =>
    intro step staging inside unprogrammed
    exact answers_of_act (exec_fwStage holds) (holdFwStage_data rfl (fwStageRefused_data step staging inside unprogrammed) step)
  case verifies => exact fun step => leaves_of_act (exec_fwStage holds) (holdFwStage_finish rfl (fwStageRefused_late (q := q) (by omega)) step)
  case empties => exact fun step => answers_of_act (exec_fwStage holds) (holdFwStage_cancel rfl (fwStageRefused_late (q := q) (by omega)) step)
  case activates =>
    have acts := holdFwActivate_of_accepted (c := s.holder 0xB002 q) rfl (fwActivateRefused_of_valid valid idle)
    exact ⟨fun later => answers_of_act (exec_fwActivate holds) (acts.trans (if_pos later)),
      fun now => leaves_of_act (exec_fwActivate holds) (acts.trans (if_neg now))⟩
  case status => exact fun holds => exec_fwStatus holds
  case testMode => exact fun holds => exec_testMode holds
  case fuse => exact fun holds => exec_fuseProgram holds
  case provision => exact fun holds unprovided => answers_of_act (exec_identityProvision holds) (holdIdentityProvision_of_none unprovided)
  case rotate => exact fun holds => exec_identityRotate holds
  case decommission => exact fun holds => exec_decommission holds
  case scrub =>
    intro o kept
    obtain ⟨o', rfl⟩ := scrubAll_objs c t o kept
    exact scrubbed_inT2 o'

/-! ## Streams brought up and down (R37, R50, R64) -/

section
variable {s : State} {p : Nat} (up : s.up = true) (linked : s.linked p = true)
include up linked

theorem exec_cmdStreamEnable (st v : Nat) : exec (.cmdStreamEnable p st v) s = .next (leaves s (enableCmd p st v s)) :=
  act_whenUp_linked up linked (enableCmd p st v)

theorem exec_cmdStreamDrain (st v : Nat) : exec (.cmdStreamDrain p st v) s = .next (leaves s (drainCmd p st v s)) :=
  act_whenUp_linked up linked (drainCmd p st v)

theorem exec_replyStreamEnable {v : Nat} (enable : bit v 0 = true) (st : Nat) :
    exec (.replyStreamEnable p st v) s = .next (leaves s (enableReply p st s)) := by
  have reached : (s.linked p && bit v 0) = true := by rw [linked, enable, Bool.and_self]
  exact (act_whenUp up _).trans (by rw [if_pos reached])

theorem exec_replyStreamDisable {v : Nat} (disable : bit v 0 = false) (st : Nat) :
    exec (.replyStreamDisable p st v) s = .next (leaves s (disableReply p st s)) := by
  have reached : (s.linked p && !bit v 0) = true := by rw [linked, disable, Bool.not_false, Bool.and_self]
  exact (act_whenUp up _).trans (by rw [if_pos reached])

end

/-! ### Where an area stands (R37) -/

section
variable {s : State} {p st base len : Nat}

theorem placeStream_of_alone (zero : st = 0) (alone : s.regions.any (fun r => r.overlaps p base len) = false) :
    s.placeStream p (st == 0) base len = some true := by
  simp only [State.placeStream, zero, alone]
  rfl

section
variable (beside : st ≠ 0 ∨ s.regions.any (fun r => r.overlaps p base len) = true)
include beside

/-- An area that takes no bootstrap region of its own stands where its pages are SHARED, or nowhere (R37). -/
theorem placeStream_of_beside : s.placeStream p (st == 0) base len = if s.sharedArea p base len then some false else none := by
  refine if_neg ?_
  rcases beside with other | overlaps
  · simp [other]
  · simp [overlaps]

theorem placeStream_of_shared (shared : s.sharedArea p base len = true) : s.placeStream p (st == 0) base len = some false := by
  rw [placeStream_of_beside beside, if_pos shared]

theorem placeStream_of_unshared (unshared : s.sharedArea p base len = false) : s.placeStream p (st == 0) base len = none := by
  rw [placeStream_of_beside beside, unshared, if_neg Bool.false_ne_true]

end

end

/-! ### Command streams (R37, R50) -/

/-- A command stream as its ENABLE is written: its packets of an earlier life forgotten, POLL and REPLY set (R37, R50, R64). -/
def cmdEnableWritten (p st v : Nat) (s : State) : State :=
  setCmdStream p st (fun c => { c with poll := bit v 1, reply := bits v 2 2 }) (forgetTracked p st s)

/-- A command stream runs from an empty area, HEAD and SEQ at 0 (R37, R50). -/
def cmdStarted (p st : Nat) : State → State :=
  setCmdStream p st fun c => { c with enable := true, state := .running, cause := 0, head := 0, tail := 0, nextSeq := 0, headMoved := false }

/-- A command stream starts where its area stands, or faults where it stands nowhere (R37). -/
def cmdPlaced (p st : Nat) (c : CmdStream) (place : Option Bool) (t : State) : State :=
  match place with
  | some true => cmdStarted p st (addBoot p 4094 c.base (c.size * 4096) t)
  | some false => cmdStarted p st t
  | none => faultAtEnable p st 1 t

section
variable {s : State} {p st : Nat} {c : CmdStream} (here : (s.port p).cmds[st]? = some c)
include here

theorem enableCmd_of_on (v : Nat) (on : c.state = .draining ∨ c.enable = true) : enableCmd p st v s = s := by
  rw [enableCmd, here]
  refine if_pos ?_
  rcases on with draining | enabled
  · simp [draining]
  · simp [enabled]

theorem drainCmd_eq (v : Nat) :
    let t := setCmdStream p st (fun c => { c with poll := bit v 1, reply := bits v 2 2 }) s
    drainCmd p st v s = if c.enable then settleStreams p (setCmdStream p st (fun c => { c with enable := false, state := .draining }) t) else t := by
  rw [drainCmd, here]

section
variable (settled : c.state ≠ .draining) (off : c.enable = false)
include settled off

theorem enableCmd_of_bad_size (v : Nat) (bad : c.size = 0 ∨ 4096 < c.size) :
    enableCmd p st v s = faultAtEnable p st 6 (cmdEnableWritten p st v s) := by
  rw [enableCmd, here]
  exact (if_neg (by simp [settled, off])).trans (if_pos bad)

theorem enableCmd_of_size (v : Nat) (some_pages : 0 < c.size) (most : c.size ≤ 4096) :
    enableCmd p st v s = cmdPlaced p st c (s.placeStream p (st == 0) c.base (c.size * 4096)) (cmdEnableWritten p st v s) := by
  rw [enableCmd, here]
  refine (if_neg (by simp [settled, off])).trans ((if_neg (by omega)).trans ?_)
  rfl

end

end

/-! ### Reply streams (R37, R58) -/

/-- A reply stream runs from an empty area, and may attach its port again (R37, R58, R350). -/
def replyStarted (p st : Nat) (s : State) : State :=
  reattach p (setReplyStream p st (fun r => { r with enable := true, stopping := false, tail := 0x40, consumed := 0, seq := 0, reserved := 0 }) s)

/-- A reply stream starts where its area stands, or stays off and is reported where it stands nowhere (R37). -/
def replyPlaced (p st : Nat) (r : ReplyStream) (place : Option Bool) (s : State) : State :=
  match place with
  | some true => replyStarted p st (addBoot p 4095 r.base (r.size * 4096) s)
  | some false => replyStarted p st s
  | none => setEvents p 4 s

section
variable {s : State} {p st : Nat} {r : ReplyStream} (here : (s.port p).replies[st]? = some r)
include here

theorem enableReply_of_on (on : r.enable = true) : enableReply p st s = s := by
  rw [enableReply, here]
  exact if_pos on

theorem enableReply_of_bad_size (off : r.enable = false) (bad : r.size = 0 ∨ 4096 < r.size) : enableReply p st s = setEvents p 4 s := by
  rw [enableReply, here]
  exact (if_neg (Bool.eq_false_iff.mp off)).trans (if_pos bad)

theorem enableReply_of_size (off : r.enable = false) (some_pages : 0 < r.size) (most : r.size ≤ 4096) :
    enableReply p st s = replyPlaced p st r (s.placeStream p (st == 0) r.base (r.size * 4096)) s := by
  rw [enableReply, here]
  refine (if_neg (Bool.eq_false_iff.mp off)).trans ((if_neg (by omega)).trans ?_)
  rfl

theorem disableReply_eq :
    disableReply p st s = if r.enable then settleStreams p (setReplyStream p st (fun r => { r with stopping := true }) s) else s := by
  rw [disableReply, here]

end

/-! ### BASE and SIZE (R36, R37) -/

/-- SIZE keeps the low 16 bits of a write to its word (R36). -/
theorem putField_mod_65536 (old v : Nat) : putField old 4 0 4 v % 65536 = v % 2 ^ 16 :=
  (congrArg (· % 65536) (putField_whole old 4 v)).trans (Nat.mod_mod_of_dvd v (by decide : 65536 ∣ 256 ^ 4))

section
variable {s : State} {p st : Nat}

theorem regWrite_cmdStream {off r : Nat} (offset : off = 0x100 + 32 * st + r) (stream : st < 4) (register : r < 32) (n v : Nat) :
    regWrite p off n v s = writeCmdReg p st r n v s := by
  have row : (off - 0x100) / 32 = st := by omega
  have column : (off - 0x100) % 32 = r := by omega
  rw [regWrite, if_neg (by omega), if_neg (by omega), if_pos (by omega), row, column]

theorem regWrite_cmdBase (stream : st < 4) (n v : Nat) : regWrite p (0x100 + 32 * st) n v s = writeCmdReg p st 0 n v s :=
  regWrite_cmdStream (r := 0) rfl stream (by decide) n v

theorem regWrite_cmdSize (stream : st < 4) (n v : Nat) : regWrite p (0x108 + 32 * st) n v s = writeCmdReg p st 8 n v s :=
  regWrite_cmdStream (r := 8) (by omega) stream (by decide) n v

theorem regWrite_replyStream {off r : Nat} (offset : off = 0x180 + 32 * st + r) (stream : st < 2) (register : r < 32) (n v : Nat) :
    regWrite p off n v s = writeReplyReg p st r n v s := by
  have row : (off - 0x180) / 32 = st := by omega
  have column : (off - 0x180) % 32 = r := by omega
  rw [regWrite, if_neg (by omega), if_neg (by omega), if_neg (by omega), if_pos (by omega), row, column]

theorem regWrite_replyBase (stream : st < 2) (n v : Nat) : regWrite p (0x180 + 32 * st) n v s = writeReplyReg p st 0 n v s :=
  regWrite_replyStream (r := 0) rfl stream (by decide) n v

theorem regWrite_replySize (stream : st < 2) (n v : Nat) : regWrite p (0x188 + 32 * st) n v s = writeReplyReg p st 8 n v s :=
  regWrite_replyStream (r := 8) (by omega) stream (by decide) n v

section
variable {c : CmdStream} (here : (s.port p).cmds[st]? = some c)
include here

theorem writeCmdReg_of_on (on : c.enable = true) {r : Nat} (area : r < 12) (n v : Nat) : writeCmdReg p st r n v s = s := by
  have reads : ((s.port p).cmds.getD st {}).enable = true := by simp [here, on]
  rw [writeCmdReg]
  by_cases base : r < 8
  · exact (if_pos base).trans (if_pos reads)
  · exact (if_neg base).trans ((if_pos area).trans (if_pos reads))

theorem writeCmdReg_base (off : c.enable = false) (v : Nat) :
    writeCmdReg p st 0 8 v s = setCmdStream p st (fun c => { c with base := v % 2 ^ 64 / 4096 * 4096 }) s := by
  simp [writeCmdReg, here, off, putField_whole]

theorem writeCmdReg_size (off : c.enable = false) (v : Nat) :
    writeCmdReg p st 8 4 v s = setCmdStream p st (fun c => { c with size := v % 2 ^ 16 }) s := by
  simp [writeCmdReg, here, off, putField_mod_65536]

end

section
variable {r : ReplyStream} (here : (s.port p).replies[st]? = some r)
include here

theorem writeReplyReg_of_on (on : r.enable = true) {k : Nat} (area : k < 12) (n v : Nat) : writeReplyReg p st k n v s = s := by
  have reads : ((s.port p).replies.getD st {}).enable = true := by simp [here, on]
  rw [writeReplyReg]
  by_cases base : k < 8
  · exact (if_pos base).trans (if_pos reads)
  · exact (if_neg base).trans ((if_pos area).trans (if_pos reads))

theorem writeReplyReg_base (off : r.enable = false) (v : Nat) :
    writeReplyReg p st 0 8 v s = setReplyStream p st (fun r => { r with base := v % 2 ^ 64 / 4096 * 4096 }) s := by
  simp [writeReplyReg, here, off, putField_whole]

theorem writeReplyReg_size (off : r.enable = false) (v : Nat) :
    writeReplyReg p st 8 4 v s = setReplyStream p st (fun r => { r with size := v % 2 ^ 16 }) s := by
  simp [writeReplyReg, here, off, putField_mod_65536]

end

end

/-- Settles O28: a stream's CTRL by what its ENABLE was and where its area stands, its BASE and SIZE by whether ENABLE reads 0. -/
theorem streamBringUp : Obligations.StreamBringUp := by
  intro s p st v up linked
  have write : ∀ off n, exec (.registerWrite p off n v) s = .next (leaves s (regWrite p off n v s)) := fun off n => exec_registerWrite up linked off n v
  refine ⟨fun c here settled off => ?cmdUp, ?cmdOn, fun c here => ?cmdDown, fun r here enables off => ?replyUp, ?replyOn, fun r here clears => ?replyDown,
    fun c stream here => ⟨fun off => ?cmdArea, fun on n => ?cmdFixed⟩, fun r stream here => ⟨fun off => ?replyArea, fun on n => ?replyFixed⟩⟩
  case cmdUp =>
    have placed := enableCmd_of_size here settled off v
    rw [exec_cmdStreamEnable up linked]
    refine ⟨fun lo hi zero alone => ?_, fun lo hi beside shared => ?_, fun lo hi beside unshared => ?_, fun bad => ?_⟩
    · rw [placed lo hi, placeStream_of_alone zero alone]
      rfl
    · rw [placed lo hi, placeStream_of_shared beside shared]
      rfl
    · rw [placed lo hi, placeStream_of_unshared beside unshared]
      rfl
    · rw [enableCmd_of_bad_size here settled off v bad]
      rfl
  case cmdOn =>
    intro c here on
    rw [exec_cmdStreamEnable up linked, enableCmd_of_on here v on]
  case cmdDown =>
    rw [exec_cmdStreamDrain up linked, drainCmd_eq here v]
    exact ⟨fun on => by rw [if_pos on], fun off => by rw [off, if_neg Bool.false_ne_true]⟩
  case replyUp =>
    have placed := enableReply_of_size here off
    rw [exec_replyStreamEnable up linked enables]
    refine ⟨fun lo hi zero alone => ?_, fun lo hi beside shared => ?_, fun lo hi beside unshared => ?_, fun bad => ?_⟩
    · rw [placed lo hi, placeStream_of_alone zero alone]
      rfl
    · rw [placed lo hi, placeStream_of_shared beside shared]
      rfl
    · rw [placed lo hi, placeStream_of_unshared beside unshared]
      rfl
    · rw [enableReply_of_bad_size here off bad]
  case replyOn =>
    intro r here enables on
    rw [exec_replyStreamEnable up linked enables, enableReply_of_on here on]
  case replyDown =>
    rw [exec_replyStreamDisable up linked clears, disableReply_eq here]
    exact ⟨fun on => by rw [if_pos on], fun off => by rw [off, if_neg Bool.false_ne_true]⟩
  case cmdArea =>
    exact ⟨by rw [write, regWrite_cmdBase stream, writeCmdReg_base here off], by rw [write, regWrite_cmdSize stream, writeCmdReg_size here off]⟩
  case cmdFixed =>
    refine ⟨?_, ?_⟩
    · rw [write, regWrite_cmdBase stream, writeCmdReg_of_on here on (by decide)]
    · rw [write, regWrite_cmdSize stream, writeCmdReg_of_on here on (by decide)]
  case replyArea =>
    exact ⟨by rw [write, regWrite_replyBase stream, writeReplyReg_base here off], by rw [write, regWrite_replySize stream, writeReplyReg_size here off]⟩
  case replyFixed =>
    refine ⟨?_, ?_⟩
    · rw [write, regWrite_replyBase stream, writeReplyReg_of_on here on (by decide)]
    · rw [write, regWrite_replySize stream, writeReplyReg_of_on here on (by decide)]

end Sys2Proof.Proofs

namespace Sys2Proof.Proofs

/-! Command packets and their streams: every command answers a next state and host memory keeps its canonical form (R54, R60, R61), what the packet front end
refuses (R54, R62), and how a stream's packets are found and its framing faults told apart (R49–R52, R58). -/

open Sys2Proof Sys2Proof.Machine

/-! ## The one shape of a command's effect (R54, R59–R61) -/

/-- Every row of the table is one effect: the command leaves what its meaning makes of the state, with the queue kept and the host writes made. No row faults
and no arm of the dispatcher refuses, so each case is the row's own definition. -/
theorem exec_leaves (i : Instr) : ∃ f : State → State, ∀ s, exec i s = .next (leaves s (f s)) := by
  have shape : ∃ f : State → State, ∀ s, exec i s = act f s := by
    cases i <;> exact ⟨_, fun _ => rfl⟩
  obtain ⟨f, acts⟩ := shape
  exact ⟨f, acts⟩

/-- The queue's front runs, or an empty queue idles: either way the step answers a next state. -/
theorem step_answers (s : State) : ∃ t, step s = .next t := by
  cases queue : s.pending with
  | nil => exact ⟨s, by rw [step, queue]⟩
  | cons c rest =>
    obtain ⟨f, runs⟩ := exec_leaves c
    exact ⟨_, (stepRunsQueueFront c rest s queue).trans (runs _)⟩

theorem run_succ_of_step {s t : State} (next : step s = .next t) (n : Nat) : Host.Core.run core (n + 1) s = Host.Core.run core n t := by
  have runs : core.step s = .next t := next
  simp only [Host.Core.run, runs]

/-- Settles O3: a command's answer is read off the shape of its effect, and a run goes on by induction on its steps. -/
theorem everyCommandAnswers : Obligations.EveryCommandAnswers := by
  refine ⟨fun i s => ?answers, fun s n => ?goesOn⟩
  case answers =>
    obtain ⟨f, runs⟩ := exec_leaves i
    exact ⟨leaves s (f s), runs s, rfl, rfl⟩
  case goesOn =>
    induction n generalizing s with
    | zero => exact ⟨s, rfl⟩
    | succ n ih =>
      obtain ⟨t, next⟩ := step_answers s
      rw [run_succ_of_step next]
      exact ih t

/-- What a command leaves is canonical whatever its meaning made of the state: its writes are carried out one by one, each keeping the canonical form, and
none is left over. -/
theorem leaves_canonical {s : State} (canonical : s.Canonical) (t : State) : (leaves s t).Canonical :=
  ⟨postAll_wf t.posted s.hostMem canonical.1, rfl⟩

/-- Settles O4: an idle step changes nothing, and any other leaves what a command leaves. -/
theorem stepKeepsCanonical : Obligations.StepKeepsCanonical := by
  intro s t canonical steps
  cases queue : s.pending with
  | nil =>
    rw [step, queue] at steps
    cases steps
    exact canonical
  | cons c rest =>
    obtain ⟨f, runs⟩ := exec_leaves c
    rw [stepRunsQueueFront c rest s queue, runs] at steps
    cases steps
    exact leaves_canonical (s := { s with pending := rest }) canonical _

/-! ## Refused packets (R54, R60, R62) -/

/-- A packet that a decode check refuses is answered with that check's reply. -/
theorem exec_of_decodeBad {i : Instr} {op : Nat} {q : Pkt} {s : State} {f : Final} (row : packetOf i = some (op, q)) (command : op ≠ 0)
    (reached : s.reached q) (refused : decodeBad op q (s.noted q) = some f) :
    exec i s = .next (leaves s (refusePkt op q (reserveRecord q (noteSeq q s)).2 f (s.noted q))) := by
  rw [exec_of_packetOf row, act_packet op q s reached.1, packet_refused op q s reached f refused command]

/-- Settles O8: a refusal takes a SEQ and a record and answers, none of which the module works on. -/
theorem refusedPacketKeepsWork : Obligations.RefusedPacketKeepsWork := by
  intro i op q s t row command reached refused runs
  obtain ⟨f, refusal⟩ := Option.ne_none_iff_exists'.mp refused
  rw [exec_of_decodeBad row command reached refusal] at runs
  cases runs
  exact sameWork_trans (noted_sameWork q s) (sameWork_trans (refusePkt_sameWork op q _ f _) (leaves_sameWork s _))

section
variable {op : Nat} {q : Pkt} {s : State}

/-- The level checks come first (R54). -/
theorem decodeBad_of_levelBad {f : Final} (refused : levelBad op q s = some f) : decodeBad op q s = some f := by
  simp [decodeBad, refused]

theorem levelBad_of_unagreed (unagreed : s.agreed q = none) (command : op ≠ 0) (other : op ≠ 0x0001) :
    levelBad op q s = some { status := status 2 4, detail := 0x110 } := by
  simp [levelBad, firstBad, badLevel, unagreed, command, other]

theorem levelBad_of_negotiate (unagreed : s.agreed q = none) (level : q.archLevel ≠ 0x10) :
    levelBad 0x0001 q s = some { status := status 2 4, detail := 0x210 } := by
  simp [levelBad, firstBad, badLevel, unagreed, level]

theorem levelBad_of_other_level {l : Nat} (agreed : s.agreed q = some l) (other : op ≠ 0x0001) (level : q.archLevel ≠ l) :
    levelBad op q s = some { status := status 2 4, detail := 0x200 + l } := by
  simp [levelBad, firstBad, badLevel, agreed, other, level]

end

/-- Settles O7: the first failing check's reply is the packet's, and the level is the first check. -/
theorem refusedPacketIsAnswered : Obligations.RefusedPacketIsAnswered := by
  refine ⟨fun i op q s f row command reached refused => exec_of_decodeBad row command reached refused,
    fun op q s command => ⟨?unagreed, ?negotiate, ?otherLevel⟩⟩
  case unagreed => exact fun unagreed other => decodeBad_of_levelBad (levelBad_of_unagreed unagreed command other)
  case negotiate =>
    rintro unagreed rfl level
    exact decodeBad_of_levelBad (levelBad_of_negotiate unagreed level)
  case otherLevel => exact fun l agreed other level => decodeBad_of_levelBad (levelBad_of_other_level agreed other level)

/-! ## Finding packets (R49–R52, R58) -/

section
variable {s : State} {p st : Nat}

theorem readTail_of_running (masters : s.masters p = true) {c : CmdStream} (stream : (s.port p).cmds[st]? = some c) (running : c.state = .running) :
    readTail p st s =
      let u := watchLine p st (s.setPower fun w => { w with timeouts := 0 })
      fetchSome p st (c.size * 128) (setCmdStream p st (fun c => { c with tail := u.hostView.num c.base 4 }) u) := by
  simp [readTail, stream, running, masters, CmdStream.most]

theorem readConsumed_of_enabled (masters : s.masters p = true) {r : ReplyStream} (stream : (s.port p).replies[st]? = some r) (enabled : r.enable = true) :
    readConsumed p st s =
      let u := watchLine p (4 + st) (s.setPower fun w => { w with timeouts := 0 })
      deliverOwed p (setReplyStream p st (fun r => { r with consumed := u.hostView.num r.base 4 }) u) := by
  simp [readConsumed, stream, enabled, masters]

theorem snooped_of_watched (watched : (s.port p).watched.contains st = true) :
    snooped p st s =
      let u := s.setPort p fun x => { x with watched := x.watched.filter fun w => w != st }
      if st < 4 then readTail p st u else readConsumed p (st - 4) u := if_pos watched

theorem snooped_of_unwatched (unwatched : (s.port p).watched.contains st = false) : snooped p st s = s := by
  rw [snooped, unwatched, if_neg Bool.false_ne_true]

end

section
variable {s : State} (up : s.up = true) (p st : Nat) (hw : List HostWrite)
include up

theorem exec_tailPoll_tail : exec (.tailPoll p false st hw) s = .next (leaves s (readTail p st (hostWrites hw s))) :=
  act_whenUp up fun t => readTail p st (hostWrites hw t)

theorem exec_tailPoll_consumed : exec (.tailPoll p true st hw) s = .next (leaves s (readConsumed p st (hostWrites hw s))) :=
  act_whenUp up fun t => readConsumed p st (hostWrites hw t)

theorem exec_snoopInvalidate : exec (.snoopInvalidate p st hw) s = .next (leaves s (snooped p st (hostWrites hw s))) :=
  act_whenUp up fun t => snooped p st (hostWrites hw t)

theorem exec_reserveReplyRecord (masters : s.masters p = true) :
    exec (.reserveReplyRecord p st hw) s = .next (leaves s (fetchSome p st 1 (hostWrites hw s))) := by
  have mastersStill : (hostWrites hw s).masters p = true := masters
  exact (act_whenUp up _).trans (by rw [if_pos mastersStill])

theorem exec_streamFault (cause tag : Nat) : exec (.streamFault p st cause tag) s = .next (leaves s (faultStream p st cause tag s)) :=
  act_whenUp up (faultStream p st cause tag)

end

/-! ## Framing faults (R50) -/

section
variable {s : State} {p st : Nat} {c : CmdStream} (stream : (s.port p).cmds[st]? = some c)
include stream

theorem faultStream_of_stopped (stopped : c.state ≠ .running) (cause tag : Nat) : faultStream p st cause tag s = s := by
  simp [faultStream, stream, stopped]

/-- The state in which a stream has faulted: it reads FAULTED with the cause, PCB_EVENTS shows it, and the event is logged. -/
def streamFaulted (p st cause : Nat) (s : State) : State :=
  event 1 "STREAM" p st (setEvents p 4 (s.setPort p fun x => { x with cmds := modifyAt x.cmds st fun c => { c with state := .faulted, cause := cause } }))

/-- Without a free record the fault is shown and logged, and no record is written. -/
theorem faultStream_of_full (running : c.state = .running) (cause tag : Nat) (full : (streamFaulted p st cause s).recordFree p c.reply = false) :
    faultStream p st cause tag s = streamFaulted p st cause s := by
  rw [streamFaulted] at full
  simp [faultStream, stream, running, full, streamFaulted]

variable (running : c.state = .running) (behind : c.head ≠ c.tail)
include running behind

/-- The first check of R50: TAIL names no packet position. -/
theorem fetchOne_of_bad_tail (bad : c.tail % 16 ≠ 0 ∨ c.tail < 0x80 ∨ c.size * 4096 ≤ c.tail) : fetchOne p st s = (faultStream p st 4 0 s, false) := by
  simp [fetchOne, stream, running, behind, bad]

section
variable (aligned : c.tail % 16 = 0) (first : 0x80 ≤ c.tail) (last : c.tail < c.size * 4096) (ahead : max c.head 0x80 ≠ c.tail)
  {hdr : Bytes} (header : s.hostView.read (c.base + max c.head 0x80) 32 = hdr)
include aligned first last ahead header

/-- The second check: PKT_LEN is out of bounds or leaves the area. -/
theorem fetchOne_of_bad_length (bad : fld hdr 4 2 < 2 ∨ 4096 < fld hdr 4 2 ∨ c.size * 4096 < max c.head 0x80 + 16 * fld hdr 4 2) :
    fetchOne p st s = (faultStream p st 3 (fld hdr 8 4) s, false) := by
  have position : ¬(c.tail % 16 ≠ 0 ∨ c.tail < 0x80 ∨ c.size * 4096 ≤ c.tail) := by omega
  simp only [fetchOne, stream, running, header, if_neg position, if_neg ahead, if_pos bad]
  simp [behind]

/-- The third check: SEQ is not the next one. -/
theorem fetchOne_of_bad_seq (least : 2 ≤ fld hdr 4 2) (most : fld hdr 4 2 ≤ 4096) (fits : max c.head 0x80 + 16 * fld hdr 4 2 ≤ c.size * 4096)
    (seq : fld hdr 20 4 ≠ c.nextSeq) : fetchOne p st s = (faultStream p st 2 (fld hdr 8 4) s, false) := by
  have position : ¬(c.tail % 16 ≠ 0 ∨ c.tail < 0x80 ∨ c.size * 4096 ≤ c.tail) := by omega
  have length : ¬(fld hdr 4 2 < 2 ∨ 4096 < fld hdr 4 2 ∨ c.size * 4096 < max c.head 0x80 + 16 * fld hdr 4 2) := by omega
  simp only [fetchOne, stream, running, header, if_neg position, if_neg ahead, if_neg length, if_pos seq]
  simp [behind]

end

end

/-- Settles O30: each row reads its line once the host's writes are visible, and the framing checks are `fetchOne`'s branches in their order. -/
theorem packetFetch : Obligations.PacketFetch := by
  refine ⟨fun s p st hw up masters => ⟨?tail, ?consumed, ?watched, ?unwatched, ?record⟩,
    fun s p st c stream => ⟨?badTail, ?badHeader, ?stopped, ?fault⟩⟩
  case tail =>
    intro c stream running
    rw [exec_tailPoll_tail up, readTail_of_running (s := hostWrites hw s) masters stream running]
  case consumed =>
    intro r stream enabled
    rw [exec_tailPoll_consumed up, readConsumed_of_enabled (s := hostWrites hw s) masters stream enabled]
  case watched =>
    intro watched
    rw [exec_snoopInvalidate up, snooped_of_watched (s := hostWrites hw s) watched]
  case unwatched =>
    intro unwatched
    rw [exec_snoopInvalidate up, snooped_of_unwatched (s := hostWrites hw s) unwatched]
  case record => exact exec_reserveReplyRecord up p st hw masters
  case badTail => exact fun running behind bad => fetchOne_of_bad_tail stream running behind bad
  case badHeader =>
    exact fun running behind aligned first last ahead =>
      ⟨fetchOne_of_bad_length stream running behind aligned first last ahead rfl, fetchOne_of_bad_seq stream running behind aligned first last ahead rfl⟩
  case stopped => exact fun cause tag stopped => faultStream_of_stopped stream stopped cause tag
  case fault =>
    intro cause tag up running _ _ u full
    rw [exec_streamFault up, faultStream_of_full stream running cause tag full]
    rfl

end Sys2Proof.Proofs

namespace Sys2Proof.Proofs

/-! The channel packets as they take hold: a slot is taken, its binding changed, its commands reported, and the channel ended (R66, R67, R69, R71, R73, R75). -/

open Sys2Proof Sys2Proof.Machine Sys2Proof.Laws

/-! ## Channel packets as they take hold -/

section
variable {s : State} {q : Pkt}

theorem exec_channelCreate (holds : s.takesHold 0x1001 q) :
    exec (.channelCreate q) s = .next (s.after 0x1001 q (holdChannelCreate (s.holder 0x1001 q))) :=
  exec_of_takesHold rfl holds (by decide) rfl rfl

theorem exec_channelDestroy (holds : s.takesHold 0x1002 q) :
    exec (.channelDestroy q) s = .next (s.after 0x1002 q (holdChannelDestroy (s.holder 0x1002 q))) :=
  exec_of_takesHold rfl holds (by decide) rfl rfl

theorem exec_channelStatus (holds : s.takesHold 0x1003 q) :
    exec (.channelStatus q) s = .next (s.after 0x1003 q (holdChannelStatus (s.holder 0x1003 q))) :=
  exec_of_takesHold rfl holds (by decide) rfl rfl

theorem exec_channelRebind (holds : s.takesHold 0x1004 q) :
    exec (.channelRebind q) s = .next (s.after 0x1004 q (holdChannelRebind (s.holder 0x1004 q))) :=
  exec_of_takesHold rfl holds (by decide) rfl rfl

end

/-! ## CHANNEL_CREATE (R66, R67) -/

/-- The channel that a CHANNEL_CREATE asks for, before its OVERRIDES and without its slot (R67). -/
def channelAsked (q : Pkt) (s : State) : Channel :=
  { slot := 0, state := .live, type := fld q.params 0 1, port := q.access, reply := fld q.params 1 1, primary := fld q.params 4 4
    encoder := fld q.params 8 4, sinkBase := fld q.params 16 8, sinkBytes := fld q.params 24 4
    settings := freshSettings (fld q.params 0 1) s.fabric.members.length s.tick, bindTick := s.tick }

/-- The channel takes the place of what its slot held, and is charged to its port (R45, R67). -/
def channelPlaced (p : Nat) (ch : Channel) (t : State) : State :=
  chargeQuota p 4 1 { t with channels := t.channels.filter (fun d => d.slot != ch.slot) ++ [ch] }

/-- Past the packet's checks, its OVERRIDES, the sink rule and the quota, the channel stands in the lowest FREE slot with that slot's generation (R66, R67). -/
theorem holdChannelCreate_of_free {c : Cmd} {s : State} {ch : Channel} {slot gen : Nat} (sound : checkCreate c.q s = none)
    (overridden : applyOverrides c.q.params s 4 0 (channelAsked c.q s) = .inl ch) (sink : ch.type = 1 → 16 * ch.setting 0x0304 + 64 ≤ ch.sinkBytes)
    (quota : s.quotaAllows c.q.access 4 1 = true) (free : s.freeSlot = some (slot, gen)) :
    holdChannelCreate c s = finish c { status := status 0 0, handle := some ({ ch with slot := slot, gen := gen } : Channel).handle }
      (channelPlaced c.q.access { ch with slot := slot, gen := gen } s) := by
  have fits : ¬(ch.type = 1 ∧ ch.sinkBytes < 16 * ch.setting 0x0304 + trailerBytes) := fun ⟨search, short⟩ => absurd short (Nat.not_lt.mpr (sink search))
  rw [channelAsked] at overridden
  simp only [holdChannelCreate, sound, overridden, if_neg fits, quota, free]
  rfl

/-! ## The packets that name a channel (R69, R71, R73, R75) -/

/-- CHANNEL_STATUS's report: the channel's state, its commands not yet replied, those of them admitted before its last REBIND, and its counts (R75). -/
def channelReport (c : Cmd) (ch : Channel) (s : State) : Bytes :=
  let run := (s.chanUnreplied c.q.handle).filter fun d => d.id != c.id
  leBytes 4 ch.state.code ++ leBytes 4 run.length ++ leBytes 4 (run.filter fun d => decide (d.binding < ch.binding)).length
    ++ leBytes 4 ch.overrun ++ leBytes 4 ch.escalations ++ leBytes 6 ch.bindTick ++ zeros 38

/-- The channel's commands are ended, those that a cause of lower rank ended at this boundary included, its kernel is leaving, and its slot is DESTROYING for
two boundaries (R69, R73, R74). -/
def channelEnded (c : Cmd) (ch : Channel) (t : State) : State :=
  let u := unloadKernel ch.slot ((t.destroyed c).foldl (endCmd 2 0) (reEnd 2 0 (fun d => d.id != c.id && d.q.handle == c.q.handle) t))
  u.setChan ch.slot fun h => { h with state := .destroying, freeAt := u.tick + 2 }

section
variable {c : Cmd} {s : State} {ch : Channel} (here : s.handleChan c.q.handle = some ch)
include here

theorem holdChannelDestroy_of_chan :
    holdChannelDestroy c s = finish c
      { okDone ((s.destroyed c).length
          + (s.frame.decided.filter (Decided.overtaken 2 fun d => d.id != c.id && d.q.handle == c.q.handle)).length) with refund := some ch.port }
      (channelEnded c ch s) := by
  rw [holdChannelDestroy, here]
  rfl

theorem holdChannelStatus_of_chan : holdChannelStatus c s = finish c (okDone 64 [⟨fld c.q.params 8 8, channelReport c ch s⟩]) s := by
  rw [holdChannelStatus, here]
  rfl

theorem holdChannelRebind_of_sound {ch' : Channel} (sound : rebind ch c.q s = .inl ch') :
    holdChannelRebind c s = finish c (okDone ((s.chanRunning c.q.handle).filter fun d => d.id != c.id).length)
      (s.setChan ch.slot fun _ => { ch' with bindTick := s.tick, binding := ch.binding + 1 }) := by
  simp only [holdChannelRebind, here, sound]

end

/-- Settles O11: each channel packet by the branch of its act that nothing refuses. -/
theorem channelPackets : Obligations.ChannelPackets := by
  refine fun s q => ⟨?create, ?destroy, ?status, ?rebind⟩
  case create =>
    intro ch slot gen holds sound overridden sink quota free
    exact answers_of_act (exec_channelCreate holds) (holdChannelCreate_of_free sound overridden sink quota free)
  case destroy => exact fun ch holds here => answers_of_act (exec_channelDestroy holds) (holdChannelDestroy_of_chan here)
  case status => exact fun ch holds here => answers_of_act (exec_channelStatus holds) (holdChannelStatus_of_chan here)
  case rebind => exact fun ch ch' holds here sound => answers_of_act (exec_channelRebind holds) (holdChannelRebind_of_sound here sound)

end Sys2Proof.Proofs

namespace Sys2Proof.Proofs

/-! INDEX_DEFINE as it takes hold: the index that its packet describes joins the module's indexes, and its number is answered (R81, R82, R84). -/

open Sys2Proof Sys2Proof.Machine Sys2Proof.Laws

/-! ## The index directory through the object operations (R283–R285, R295)

Taking numbers, charging, creating and writing objects leave the list of indexes as it is. -/

theorem indexes_of_sameWork {s t : State} (same : s.sameWork t) : t.indexes = s.indexes := by
  obtain ⟨-, -, -, -, -, -, -, -, indexes, -⟩ := same
  exact indexes

@[simp] theorem takeNumber_indexes (s : State) : (takeNumber s).2.indexes = s.indexes := rfl

@[simp] theorem chargeObj_indexes (o : Obj) (s : State) : (chargeObj o s).indexes = s.indexes :=
  indexes_of_sameWork (foldl_sameWork _ (fun t _ => setPort_sameWork _ _ t) _ s)

@[simp] theorem createObj_indexes (mk : Nat → Nat → Obj) (s : State) : (createObj mk s).2.indexes = s.indexes := by
  rw [createObj, State.setMem_indexes, chargeObj_indexes, takeNumber_indexes]

@[simp] theorem createRegions_indexes (l : List (Option Obj)) (s : State) : (createRegions l s).2.indexes = s.indexes := by
  induction l generalizing s with
  | nil => rfl
  | cons region rest ih =>
    cases region with
    | none => exact ih s
    | some o => exact (ih _).trans (createObj_indexes _ s)

@[simp] theorem writeObj_indexes (num off : Nat) (bs : Bytes) (s : State) : (s.writeObj num off bs).indexes = s.indexes := by
  rw [State.writeObj]
  split
  case isTrue => rfl
  case isFalse =>
    rw [State.setObj_indexes]
    split
    case isTrue => exact (indexes_of_sameWork (raiseAlarm_sameWork 0x005 0 _)).trans (State.setMem_indexes _ s)
    case isFalse => exact indexes_of_sameWork (foldl_sameWork _ (fun t _ => setFrame_sameWork _ t) _ s)

@[simp] theorem routeMembers_indexes (x : Index) (s : State) : (routeMembers x s).indexes = s.indexes := by
  rw [routeMembers]
  split
  case isTrue =>
    exact List.foldlRecOn _ _ (motive := fun t => t.indexes = s.indexes) rfl fun t same i _ => (writeObj_indexes _ _ _ t).trans same
  case isFalse => rfl

/-! ## The index made (R81, R82, R84) -/

/-- The new index stands last in the list: neither its regions nor its routing table copy touch the list (R82, R99). -/
theorem makeIndex_indexes (q : Pkt) (s : State) : (makeIndex q s).2.indexes = s.indexes ++ [(makeIndex q s).1] := by
  simp only [makeIndex, routeMembers_indexes, createRegions_indexes, chargeObj_indexes, takeNumber_indexes]

/-- This member has a shard of the new index exactly where the packet places one on it (R82). -/
theorem makeIndex_shard_isSome (q : Pkt) (s : State) : (makeIndex q s).1.shard.isSome = (defineMembers q s).contains s.self := by
  rw [makeIndex]
  cases (defineMembers q s).contains s.self <;> rfl

/-! ## INDEX_DEFINE as it takes hold -/

theorem exec_indexDefine {s : State} {q : Pkt} (holds : s.takesHold 0x3001 q) :
    exec (.indexDefine q) s = .next (s.after 0x3001 q (holdIndexDefine (s.holder 0x3001 q))) :=
  exec_of_takesHold rfl holds (by decide) rfl rfl

theorem holdIndexDefine_of_sound {c : Cmd} {s : State} (sound : defineRefused c.q s = none) :
    holdIndexDefine c s = finish c (okDone (makeIndex c.q { s with free := s.free + 2 }).1.num) (makeIndex c.q { s with free := s.free + 2 }).2 := by
  rw [holdIndexDefine, sound]

/-- Settles O12: what no rule refuses is answered with the made index's number; `makeIndex` takes the described fields over from the packet (`defined`) by its
definition, and puts the index last in the list. -/
theorem indexDefineMakesIndex : Obligations.IndexDefineMakesIndex := by
  refine fun s q holds sound => ⟨?answers, fun t => ?made⟩
  case answers => exact answers_of_act (exec_indexDefine holds) (holdIndexDefine_of_sound sound)
  case made => exact ⟨rfl, rfl, rfl, rfl, rfl, rfl, rfl, rfl, rfl, rfl, makeIndex_indexes q t, makeIndex_shard_isSome q t⟩

end Sys2Proof.Proofs

namespace Sys2Proof.Proofs

/-! Walks: the test of a slot (R110), the order of the end causes (R118), and the events of seeding, block and tombstone reads and the side-list scan (R109, R110,
R115–R117, R120). -/

open Sys2Proof Sys2Proof.Machine Sys2Proof.Laws

/-! ## A slot's test (R110) -/

/-- Slot `j` of walk `id` becomes `g`. -/
def putSlot (id j : Nat) (g : WSlot) (s : State) : State := s.setWalk id fun v => { v with slots := v.slots.set j g }

/-- Slot `k` hops to the best entry `c` of its heap by hop register `r`, which its walk counts. -/
def hopIssued (id j : Nat) (k : WSlot) (c : WEntry) (rest : List WEntry) (s : State) (r : Nat) : State :=
  (putSlot id j { k with heap := rest, hops := k.hops + 1, hop := some (c.slot, r) } s).setWalk id fun v =>
    { v with walkHops := v.walkHops + 1, usedNow := v.usedNow + 1 }

/-- A slot is not tested while it does not walk, its hop is out, or its walk does not run. -/
def untested (w : Walk) (k : WSlot) : Bool := k.state != .walking || k.hop.isSome || !w.running

theorem untested_eq_false {w : Walk} {k : WSlot} (phase : w.phase = .walking) (live : w.freedIn = none) (walking : k.state = .walking) (free : k.hop = none) :
    untested w k = false := by
  simp [untested, Walk.running, phase, live, walking, free]

section
variable {s : State} {id j : Nat} {w : Walk} {k : WSlot} (walk : s.walk id = some w) (slot : w.slots[j]? = some k)
include walk slot

theorem testSlot_of_not_testing (idle : k.state ≠ .walking ∨ k.hop.isSome = true) : testSlot id j s = s := by
  have skips : untested w k = true := by
    rcases idle with other | hopping
    · simp [untested, other]
    · simp [untested, hopping]
  rw [testSlot, walk]
  simp only [slot]
  exact if_pos skips

variable (phase : w.phase = .walking) (live : w.freedIn = none) (walking : k.state = .walking) (free : k.hop = none)
include phase live walking free

theorem testSlot_of_heap_nil (exhausted : k.heap = []) : testSlot id j s = putSlot id j { k with state := .stopped, why := 1 } s := by
  rw [testSlot, walk]
  simp only [slot, exhausted]
  exact if_neg (Bool.eq_false_iff.mp (untested_eq_false phase live walking free))

/-- What a slot with a best entry does, the tests in R110's order. -/
theorem testSlot_of_heap_cons {c : WEntry} {rest : List WEntry} (best : k.heap = c :: rest) :
    testSlot id j s =
      if worstDist k.pool < c.dist then putSlot id j { k with state := .stopped, why := 1 } s
      else if w.walkHops = w.budget then putSlot id j { k with state := .stopped, why := 2 } s
      else if s.frame.tail then s else (s.freeReg k.engine).elim s (hopIssued id j k c rest s) := by
  rw [testSlot, walk]
  simp only [slot, best]
  refine (if_neg (Bool.eq_false_iff.mp (untested_eq_false phase live walking free))).trans ?_
  cases s.freeReg k.engine <;> rfl

end

/-- Settles O36: a slot that tests does so by what its heap holds, and the tests of a best entry stand in R110's order. -/
theorem slotTests : Obligations.SlotTests := by
  refine fun s id j w k walk slot phase live => ⟨testSlot_of_not_testing walk slot, fun walking free => ⟨testSlot_of_heap_nil walk slot phase live walking free,
    fun c rest best => ?best⟩⟩
  have tested := testSlot_of_heap_cons walk slot phase live walking free best
  refine ⟨fun far => ?converged, fun near spent => ?spent, fun near unspent => ⟨fun tail => ?tail, fun early used => ?used, fun r early unused => ?hop⟩⟩
  case converged => exact tested.trans (if_pos far)
  case spent => rw [tested, if_neg (Nat.not_lt.mpr near), if_pos spent]; rfl
  case tail => rw [tested, if_neg (Nat.not_lt.mpr near), if_neg unspent, if_pos tail]
  case used => rw [tested, if_neg (Nat.not_lt.mpr near), if_neg unspent, early, used]; rfl
  case hop => rw [tested, if_neg (Nat.not_lt.mpr near), if_neg unspent, early, unused]; rfl

/-! ## End causes (R118) -/

section
variable {w : Walk} {s : State} (uncancelled : w.cancelled = false)
include uncancelled

theorem endCause_of_faulted (faulted : w.faultTier ≠ none) : w.endCause s = 6 := by
  rw [Walk.endCause, uncancelled, if_neg Bool.false_ne_true, if_pos (Option.isSome_iff_ne_none.mpr faulted)]

variable (sound : w.faultTier = none)
include sound

theorem endCause_of_truncated (truncated : w.truncated = true) : w.endCause s = 4 := by
  rw [Walk.endCause, uncancelled, sound, if_neg Bool.false_ne_true, if_pos truncated]
  rfl

variable (whole : w.truncated = false)
include whole

theorem endCause_of_whole : w.endCause s = if w.starved s then 3 else if w.walkHops = w.budget then 2 else 1 := by
  rw [Walk.endCause, uncancelled, sound, whole]
  rfl

theorem endCause_of_spent (spent : w.walkHops = w.budget) :
    w.endCause s = if filtered w.predicate && decide ((dedupBy WEntry.slot (w.finalPools s)).length < w.k) then 3 else 2 := by
  rw [endCause_of_whole uncancelled sound whole, Walk.starved, if_pos spent, spent, beq_self_eq_true, Bool.true_and]

theorem endCause_of_unspent (unspent : w.walkHops ≠ w.budget) : w.endCause s = 1 := by
  rw [endCause_of_whole uncancelled sound whole, Walk.starved, if_neg unspent, beq_eq_false_iff_ne.mpr unspent]
  rfl

end

/-! ## Seeding (R109) -/

/-- Walk `v` with its seeds scored into its slots; `w` is the walk as its entry points were dealt. -/
def seeded (x : Index) (sh : Shard) (w : Walk) (s : State) (v : Walk) : Walk :=
  { v with
    phase := .walking
    slots := v.slots.zipIdx.map fun p => (seedsOf v.width p.2 (w.seeds.map (parseRec x.sketchBytes))).foldl
      (scoreRec v.sketch v.predicate v.tagSet (s.tombFor sh) true false) { p.1 with state := .walking, visited := [] } }

theorem seedWalk_of_shard {w : Walk} {s : State} {x : Index} {sh : Shard} (index : s.index w.index = some x) (shard : x.shard = some sh) :
    seedWalk w s = s.setWalk w.id (seeded x sh w s) := by
  rw [seedWalk, index]
  simp only [shard]
  rfl

theorem walkSeeded_of_placed {s : State} {id : Nat} {w : Walk} (walk : s.walk id = some w) (placed : w.phase = .placed) (begun : w.tick ≤ s.tick)
    (live : w.freedIn = none) (slots : w.slots ≠ []) : walkSeeded id s = driveWalks (seedWalk w s) := by
  have due : (w.phase == .placed && decide (w.tick ≤ s.tick) && w.freedIn.isNone && !w.slots.isEmpty) = true := by simp [placed, begun, live, slots]
  rw [walkSeeded, walk]
  exact if_pos due

/-! ## A block's return (R110, R120) -/

/-- The walk, and its slot, whose hop is out on register `r` of engine `e`. -/
def hopOn (s : State) (e r : Nat) : Option (Walk × Nat) :=
  s.walks.findSome? fun w => (w.slots.findIdx? fun k => k.engine == e && k.hop.any fun h => h.2 == r).map fun j => (w, j)

/-- The records of node `node`'s block are scored into slot `k`. -/
def blockScored (w : Walk) (j : Nat) (x : Index) (sh : Shard) (k : WSlot) (node : Nat) (s : State) : State :=
  let t := walkReads w sh.adj (node * x.degree * x.recBytes) (x.degree * x.recBytes) s
  driveWalks (putSlot w.id j ((t.block x sh node).foldl (scoreRec w.sketch w.predicate w.tagSet (t.tombFor sh) false false) { k with hop := none }) t)

/-- Nothing of node `node`'s block is scored, and the walk carries the error. -/
def blockDiscarded (w : Walk) (j : Nat) (x : Index) (sh : Shard) (k : WSlot) (node : Nat) (s : State) : State :=
  driveWalks ((uncorrectable sh.adj (node * x.degree * x.recBytes) (x.degree * x.recBytes) s).setWalk w.id fun v =>
    { v.hurt 1 with slots := v.slots.set j { k with hop := none } })

section
variable {s : State} {e r j node : Nat} {w : Walk} {x : Index} {sh : Shard} {k : WSlot} (found : hopOn s e r = some (w, j)) (index : s.index w.index = some x)
  (shard : x.shard = some sh) (slot : w.slots[j]? = some k) (hop : k.hop = some (node, r))
include found index shard slot hop

theorem blockReturned_of_context_lost : blockReturned e r 2 s = contextLost w.id j s := by
  rw [hopOn] at found
  rw [blockReturned, found]
  simp only [index, shard, slot, hop, if_true]

variable {err : Nat} (intact : err ≠ 2)
include intact

theorem blockReturned_of_intact :
    blockReturned e r err s =
      if err == 1 || s.poisoned sh.adj (node * x.degree * x.recBytes) (x.degree * x.recBytes) then blockDiscarded w j x sh k node s
      else blockScored w j x sh k node s := by
  rw [hopOn] at found
  rw [blockReturned, found]
  simp only [index, shard, slot, hop, if_neg intact]
  cases err == 1 || s.poisoned sh.adj (node * x.degree * x.recBytes) (x.degree * x.recBytes) <;> rfl

end

/-! ## A tombstone line's return (R115, R120) -/

/-- Slot `j` of a walk changed by `f`. -/
def inSlot (j : Nat) (f : WSlot → WSlot) (v : Walk) : Walk := { v with slots := v.slots.zipIdx.map fun p => if p.2 != j then p.1 else f p.1 }

/-- The pending entry of `target` leaves the pool when its bit is set, and is pending no more when it is clear. -/
def pendingDecided (target : Nat) (set : Bool) (k : WSlot) : WSlot :=
  if set then { k with pool := k.pool.filter fun e => !(e.slot == target && e.pendingTomb) }
  else { k with pool := k.pool.map fun e => if e.slot = target then { e with pendingTomb := false } else e }

/-- The tombstone line has been read for the pending entry of `target`. -/
def tombRead (id j target : Nat) (w : Walk) (sh : Shard) (s : State) : State :=
  let t := walkReads w sh.tomb (target / 2048 * 256) 256 s
  driveWalks (t.setWalk id (inSlot j (pendingDecided target (t.tombed sh target))))

/-- The tombstone line of the pending entry of `target` is uncorrectable. -/
def tombDiscarded (id j target : Nat) (sh : Shard) (s : State) : State :=
  driveWalks ((uncorrectable sh.tomb (target / 2048 * 256) 256 s).setWalk id fun v => inSlot j (pendingDecided target true) (v.hurt 1))

section
variable {s : State} {id j target : Nat} {w : Walk} {sh : Shard} (walk : s.walk id = some w) (here : (s.index w.index).bind Index.shard = some sh)
  (pending : (w.slots.getD j { engine := 0, slot := 0 }).pool.any (fun e => e.slot == target && e.pendingTomb) = true)
include walk here pending

theorem tombReturned_of_context_lost : tombReturned id j target 2 s = contextLost id j s := by
  rw [tombReturned, walk]
  simp only [here, pending, Bool.not_true, Bool.false_eq_true, if_false, if_true]

variable {err : Nat} (intact : err ≠ 2)
include intact

theorem tombReturned_of_intact :
    tombReturned id j target err s = if err == 1 || s.tombBad sh target then tombDiscarded id j target sh s else tombRead id j target w sh s := by
  rw [tombReturned, walk]
  simp only [here, pending, Bool.not_true, Bool.false_eq_true, if_false, if_neg intact]
  cases err == 1 || s.tombBad sh target <;> rfl

end

/-! ## The side-list scan (R116, R117, R120) -/

/-- Does a scan pass run on this member? -/
def passRuns (s : State) : Bool := s.indexes.any fun y => (y.shard.bind Shard.passWalks).isSome

/-- The shard with a pass begun for the walks `ws`. -/
def passBegun (x : Index) (sh : Shard) (ws : List Walk) (clusters : Nat) (h : Shard) : Shard :=
  { h with
    ready := none, passWalks := some (ws.map Walk.id), passHead := h.scanHead, passTail := h.scanTail
    scanCycles := h.scanCycles + ceilDiv ((sh.scanTail - sh.scanHead) * ws.length * 8 * x.sketchBytes) (clusters * 524288) }

/-- The ring positions of a pass that are uncorrectable. -/
def passBad (x : Index) (sh : Shard) (bad : List Nat) (s : State) : List Nat :=
  ((List.range (sh.passTail - sh.passHead)).map (· + sh.passHead)).filter fun p => bad.contains p || s.poisoned sh.side (p % sideRing * x.recBytes) x.recBytes

/-- The pass is over: its uncorrectable entries are reported and its walks offered their hits. -/
def passEnded (n : Nat) (x : Index) (sh : Shard) (ids lines : List Nat) (s : State) : State :=
  let t := lines.foldl (fun t p => uncorrectable sh.side (p % sideRing * x.recBytes) x.recBytes t) s
  driveWalks (markReady ((ids.foldl (offerHits x sh lines) t).setShard n fun h => { h with passWalks := none }))

section
variable {s : State} {n : Nat} {x : Index} {sh : Shard} (index : s.index n = some x) (shard : x.shard = some sh)
include index shard

theorem scanBegin_eq :
    scanBegin n sh.number s =
      if s.frame.tail || passRuns s || (s.passReady n).isEmpty || !s.nextPass n || sh.number != sh.number || s.systemClusters.isEmpty then s
      else s.setShard n (passBegun x sh (s.passReady n) s.systemClusters.length) := by
  rw [scanBegin, index]
  simp only [shard]
  rfl

theorem scanBegin_of_turn (early : s.frame.tail = false) (alone : passRuns s = false) (walks : s.passReady n ≠ []) (turn : s.nextPass n = true)
    (clusters : s.systemClusters ≠ []) :
    scanBegin n sh.number s = s.setShard n (passBegun x sh (s.passReady n) s.systemClusters.length) := by
  rw [scanBegin_eq index shard, if_neg]
  simp [early, alone, walks, turn, clusters]

theorem scanBegin_of_wait (waits : s.frame.tail = true ∨ passRuns s = true ∨ s.nextPass n = false) : scanBegin n sh.number s = s := by
  rw [scanBegin_eq index shard, if_pos]
  rcases waits with tail | running | later
  · simp [tail]
  · simp [running]
  · simp [later]

theorem scanComplete_of_pass {ids : List Nat} (pass : sh.passWalks = some ids) (idle : s.idleSystem.length = s.systemClusters.length) (bad : List Nat) :
    scanComplete n sh.number bad s = passEnded n x sh ids (passBad x sh bad s) s := by
  have ends : ¬(sh.number != sh.number || s.idleSystem.length != s.systemClusters.length) = true := by simp [idle]
  rw [scanComplete, index]
  simp only [shard, pass, if_neg ends]
  rfl

end

/-! ## The obligation -/

/-- A report of `err` 1, and poison found where there is no report, are one error. -/
theorem readBad_of_error {err : Nat} {poisoned : Bool} (error : err = 1 ∨ poisoned = true) : (err == 1 || poisoned) = true := by
  rcases error with rfl | found
  · rfl
  · simp [found]

/-- Settles O37: the end causes in `endCause`'s order; each event by whether its read is sound, uncorrectable, or finds the slot's context lost. -/
theorem walkEvents : Obligations.WalkEvents := by
  refine ⟨fun w s => ?causes, fun s up => ⟨fun id w x sh walk placed begun live slots index shard => ?seeding,
    fun e r j node err w x sh k found index shard slot hop => ?block, fun id j target err w x sh walk index shard pending => ?tombstone,
    fun n x sh index shard => ⟨fun early alone walks turn clusters => ?begins, fun waits => ?waits, fun ids bad pass idle => ?ends⟩⟩⟩
  case causes =>
    refine ⟨fun cancelled => if_pos cancelled, endCause_of_faulted, fun uncancelled sound => ⟨endCause_of_truncated uncancelled sound, fun whole => ⟨?_, ?_,
      endCause_of_unspent uncancelled sound whole⟩⟩⟩
    · intro spent filter few
      rw [endCause_of_spent uncancelled sound whole spent, filter, few]
      rfl
    · intro spent enough
      rw [endCause_of_spent uncancelled sound whole spent, Bool.and_eq_false_iff.mpr enough]
      rfl
  case seeding =>
    have effect : exec (.walkSeed id) s = .next (leaves s (walkSeeded id s)) := act_whenUp up (walkSeeded id)
    rw [effect, walkSeeded_of_placed walk placed begun live slots, seedWalk_of_shard index shard]
    rfl
  case block =>
    have effect : ∀ err, exec (.adjacencyBlockReturn e r err) s = .next (leaves s (blockReturned e r err s)) := fun err => act_whenUp up (blockReturned e r err)
    refine ⟨fun clean => ?_, fun intact error => ?_, ?_⟩
    · rw [effect, blockReturned_of_intact found index shard slot hop (by decide), clean]
      rfl
    · rw [effect, blockReturned_of_intact found index shard slot hop intact, readBad_of_error error]
      rfl
    · rw [effect, blockReturned_of_context_lost found index shard slot hop]
      rfl
  case tombstone =>
    have effect : ∀ err, exec (.tombstoneReadReturn id j target err) s = .next (leaves s (tombReturned id j target err s)) :=
      fun err => act_whenUp up (tombReturned id j target err)
    have here : (s.index w.index).bind Index.shard = some sh := by rw [index, Option.bind_some, shard]
    refine ⟨fun clean => ?_, fun intact error => ?_, ?_⟩
    · have read : tombReturned id j target 0 s = tombRead id j target w sh s := by
        rw [tombReturned_of_intact walk here pending (by decide), State.tombBad, clean]
        rfl
      refine ⟨fun set => ?_, fun clear => ?_⟩
      · rw [effect, read, tombRead, set]
        rfl
      · rw [effect, read, tombRead, clear]
        rfl
    · rw [effect, tombReturned_of_intact walk here pending intact, State.tombBad, readBad_of_error error]
      rfl
    · rw [effect, tombReturned_of_context_lost walk here pending]
      rfl
  case begins =>
    have effect : exec (.sideListScanPass n sh.number) s = .next (leaves s (scanBegin n sh.number s)) := act_whenUp up (scanBegin n sh.number)
    rw [effect, scanBegin_of_turn index shard early alone walks turn clusters]
    rfl
  case waits =>
    have effect : exec (.sideListScanPass n sh.number) s = .next (leaves s (scanBegin n sh.number s)) := act_whenUp up (scanBegin n sh.number)
    rw [effect, scanBegin_of_wait index shard waits]
  case ends =>
    have effect : exec (.sideListPassComplete n sh.number bad) s = .next (leaves s (scanComplete n sh.number bad s)) := act_whenUp up (scanComplete n sh.number bad)
    rw [effect, scanComplete_of_pass index shard pass idle]
    rfl

end Sys2Proof.Proofs

namespace Sys2Proof.Proofs

/-! Rescoring and the rank order: the stable sort, the numbers that scores compare by and the rank of a scored thing (R133); the codes, the exact reads
and the late reads (R121–R132, R134). -/

open Sys2Proof Sys2Proof.Machine Sys2Proof.Laws

/-! ## The stable sort -/

theorem insertBy_map {α β : Type} (lt : β → β → Bool) (f : α → β) (a : α) (l : List α) :
    insertBy lt (f a) (l.map f) = (insertBy (fun x y => lt (f x) (f y)) a l).map f := by
  induction l with
  | nil => rfl
  | cons b l ih =>
    simp only [List.map_cons, insertBy, ih]
    split <;> rfl

theorem sortBy_map {α β : Type} (lt : β → β → Bool) (f : α → β) (l : List α) :
    sortBy lt (l.map f) = (sortBy (fun x y => lt (f x) (f y)) l).map f := by
  have folded : ∀ acc : List α, (l.map f).foldl (fun acc b => insertBy lt b acc) (acc.map f)
      = (l.foldl (fun acc a => insertBy (fun x y => lt (f x) (f y)) a acc) acc).map f := by
    induction l with
    | nil => exact fun _ => rfl
    | cons a l ih =>
      intro acc
      rw [List.map_cons, List.foldl_cons, List.foldl_cons, insertBy_map, ih]
  exact folded []

theorem zipIdx_pairwise_snd {α : Type} (l : List α) : l.zipIdx.Pairwise fun a b => a.2 < b.2 := by
  have places : (l.zipIdx.map Prod.snd).Pairwise (· < ·) := by
    rw [List.zipIdx_map_snd]
    exact List.pairwise_lt_range'
  exact List.pairwise_map.mp places

section
variable {α : Type} (lt : α → α → Bool)

/-- A thing with its input place stands before another: by the order, or, where the order does not tell them apart, by its place. -/
def StandsBefore (a b : α × Nat) : Prop := lt b.1 a.1 = false ∧ (lt a.1 b.1 = false → a.2 < b.2)

variable {lt} (asymm : ∀ a b, lt a b = true → lt b a = false) (apart : ∀ a b c, lt a c = true → lt a b = true ∨ lt b c = true)
include asymm

theorem standsBefore_of_lt {a b : α × Nat} (before : lt a.1 b.1 = true) : StandsBefore lt a b :=
  ⟨asymm a.1 b.1 before, fun notBefore => absurd (notBefore.symm.trans before) Bool.false_ne_true⟩

include apart

/-- What comes last in the input goes after all that it does not precede by the order. -/
theorem insertBy_standsBefore (a : α × Nat) {l : List (α × Nat)} (sorted : l.Pairwise (StandsBefore lt)) (last : ∀ b ∈ l, b.2 < a.2) :
    (insertBy (fun x y => lt x.1 y.1) a l).Pairwise (StandsBefore lt) := by
  induction l with
  | nil => exact List.pairwise_singleton _ a
  | cons b l ih =>
    obtain ⟨first, rest⟩ := List.pairwise_cons.mp sorted
    unfold insertBy
    split
    next before =>
      refine List.pairwise_cons.mpr ⟨fun x here => standsBefore_of_lt asymm ?_, sorted⟩
      rcases List.mem_cons.mp here with rfl | later
      · exact before
      · obtain ⟨notAfter, _⟩ := first x later
        exact (apart a.1 x.1 b.1 before).resolve_right fun after => Bool.false_ne_true (notAfter.symm.trans after)
    next after =>
      refine List.pairwise_cons.mpr ⟨fun x here => ?_, ih rest fun c there => last c (List.mem_cons_of_mem b there)⟩
      rcases List.mem_cons.mp ((insertBy_perm _ a l).mem_iff.mp here) with rfl | later
      · exact ⟨Bool.eq_false_iff.mpr after, fun _ => last b List.mem_cons_self⟩
      · exact first x later

theorem sortBy_standsBefore {l : List (α × Nat)} (ordered : l.Pairwise fun a b => a.2 < b.2) :
    (sortBy (fun x y => lt x.1 y.1) l).Pairwise (StandsBefore lt) := by
  have folded : ∀ acc : List (α × Nat), acc.Pairwise (StandsBefore lt) → (∀ b ∈ acc, ∀ a ∈ l, b.2 < a.2) →
      (l.foldl (fun acc a => insertBy (fun x y => lt x.1 y.1) a acc) acc).Pairwise (StandsBefore lt) := by
    induction l with
    | nil => exact fun _ sorted _ => sorted
    | cons a l ih =>
      intro acc sorted earlier
      obtain ⟨first, rest⟩ := List.pairwise_cons.mp ordered
      refine ih rest _ (insertBy_standsBefore asymm apart a sorted fun b here => earlier b here a List.mem_cons_self) fun b here c there => ?_
      rcases List.mem_cons.mp ((insertBy_perm _ a acc).mem_iff.mp here) with rfl | old
      · exact first c there
      · exact earlier b old c (List.mem_cons_of_mem a there)
  exact folded [] List.Pairwise.nil fun _ mem => absurd mem List.not_mem_nil

/-- A sort keeps the input order of what its order does not tell apart. -/
theorem sortBy_stable (l : List α) :
    ∃ r : List (α × Nat), sortBy lt l = r.map Prod.fst ∧ r.Perm l.zipIdx ∧ r.Pairwise (StandsBefore lt) := by
  refine ⟨sortBy (fun x y => lt x.1 y.1) l.zipIdx, ?_, sortBy_perm _ _, sortBy_standsBefore asymm apart (zipIdx_pairwise_snd l)⟩
  rw [← sortBy_map lt Prod.fst, List.zipIdx_map_fst]

end

/-! ## The numbers that scores compare by -/

theorem den_pos_of_dy (m e : Int) : 0 < (Fr.dy m e).den := by
  rw [Fr.dy]
  split
  · exact Nat.one_pos
  · exact Nat.two_pow_pos _

theorem f32Val_den_pos (w : Word) : 0 < (f32Val w).den := by
  rw [f32Val, FFmt.val]
  split
  · split <;> split <;> exact den_pos_of_dy _ _
  · exact Nat.one_pos

theorem fr_lt_asymm (a b : Fr) (less : Fr.lt a b = true) : Fr.lt b a = false := by
  rw [Fr.lt, decide_eq_true_iff] at less
  rw [Fr.lt, decide_eq_false_iff_not]
  omega

/-- A number lies above the lesser or below the greater of two others: were it neither, cross-multiplying by the denominators would order them the other way. -/
theorem fr_lt_split (a b c : Fr) (b_pos : 0 < b.den) (less : Fr.lt a c = true) :
    Fr.lt a b = true ∨ Fr.lt b c = true := by
  simp only [Fr.lt, decide_eq_true_iff] at less ⊢
  refine Classical.byContradiction fun neither => ?_
  obtain ⟨notAbove, notBelow⟩ := not_or.mp neither
  have ba : b.num * a.den ≤ a.num * b.den := Int.not_lt.mp notAbove
  have cb : c.num * b.den ≤ b.num * c.den := Int.not_lt.mp notBelow
  have crossed : c.num * a.den * b.den ≤ a.num * c.den * b.den := by
    calc c.num * a.den * b.den
        _ = c.num * b.den * a.den := Int.mul_right_comm _ _ _
        _ ≤ b.num * c.den * a.den := Int.mul_le_mul_of_nonneg_right cb (Int.natCast_nonneg _)
        _ = b.num * a.den * c.den := Int.mul_right_comm _ _ _
        _ ≤ a.num * b.den * c.den := Int.mul_le_mul_of_nonneg_right ba (Int.natCast_nonneg _)
        _ = a.num * c.den * b.den := Int.mul_right_comm _ _ _
  exact Int.not_lt.mpr (Int.le_of_mul_le_mul_right crossed (Int.natCast_pos.mpr b_pos)) less

theorem f32Lt_asymm (a b : Word) (less : f32Lt a b = true) : f32Lt b a = false := fr_lt_asymm (f32Val a) (f32Val b) less

theorem f32Lt_split (a b c : Word) (less : f32Lt a c = true) : f32Lt a b = true ∨ f32Lt b c = true :=
  fr_lt_split (f32Val a) (f32Val b) (f32Val c) (f32Val_den_pos b) less

/-! ## The rank of a scored thing (R133) -/

theorem scoreBetter_asymm (metric : Nat) (a b : Word) (better : scoreBetter metric a b = true) : scoreBetter metric b a = false := by
  unfold scoreBetter at better ⊢
  split at better
  next inner => rw [if_pos inner]; exact f32Lt_asymm b a better
  next outer => rw [if_neg outer]; exact f32Lt_asymm a b better

theorem scoreBetter_split (metric : Nat) (a b c : Word) (better : scoreBetter metric a c = true) :
    scoreBetter metric a b = true ∨ scoreBetter metric b c = true := by
  unfold scoreBetter at better ⊢
  split at better
  next inner => rw [if_pos inner, if_pos inner]; exact (f32Lt_split c b a better).symm
  next outer => rw [if_neg outer, if_neg outer]; exact f32Lt_split a b c better

section
variable (metric : Nat) {a b : Bool × Word}

theorem rankLt_of_exact (exact_a : a.1 = true) (codebook_b : b.1 = false) : rankLt metric a b = true := by
  rw [rankLt, exact_a, codebook_b]
  rfl

theorem rankLt_of_codebook (codebook_a : a.1 = false) (exact_b : b.1 = true) : rankLt metric a b = false := by
  rw [rankLt, codebook_a, exact_b]
  rfl

theorem rankLt_of_same_tier (same : a.1 = b.1) : rankLt metric a b = scoreBetter metric a.2 b.2 := by
  rw [rankLt, same, Bool.and_not_self, beq_self_eq_true, Bool.true_and, Bool.false_or]

end

/-- Two ranks of unlike tiers: one is exact and the other is not. -/
theorem tiers_of_ne {a b : Bool × Word} (unlike : a.1 ≠ b.1) : (a.1 = true ∧ b.1 = false) ∨ (a.1 = false ∧ b.1 = true) := by
  cases first : a.1 with
  | true => exact Or.inl ⟨rfl, Bool.eq_false_iff.mpr fun second => unlike (first.trans second.symm)⟩
  | false => exact Or.inr ⟨rfl, Bool.ne_false_iff.mp fun second => unlike (first.trans second.symm)⟩

theorem rankLt_asymm (metric : Nat) (a b : Bool × Word) (before : rankLt metric a b = true) : rankLt metric b a = false := by
  by_cases same : a.1 = b.1
  · rw [rankLt_of_same_tier metric same] at before
    rw [rankLt_of_same_tier metric same.symm]
    exact scoreBetter_asymm metric a.2 b.2 before
  · rcases tiers_of_ne same with ⟨exact_a, codebook_b⟩ | ⟨codebook_a, exact_b⟩
    · exact rankLt_of_codebook metric codebook_b exact_a
    · exact absurd ((rankLt_of_codebook metric codebook_a exact_b).symm.trans before) Bool.false_ne_true

/-- A rank comes after the better or before the worse of two others. -/
theorem rankLt_split (metric : Nat) (a b c : Bool × Word) (before : rankLt metric a c = true) : rankLt metric a b = true ∨ rankLt metric b c = true := by
  by_cases ab : a.1 = b.1
  · by_cases bc : b.1 = c.1
    · rw [rankLt_of_same_tier metric (ab.trans bc)] at before
      rw [rankLt_of_same_tier metric ab, rankLt_of_same_tier metric bc]
      exact scoreBetter_split metric a.2 b.2 c.2 before
    · rcases tiers_of_ne bc with ⟨exact_b, codebook_c⟩ | ⟨codebook_b, exact_c⟩
      · exact Or.inr (rankLt_of_exact metric exact_b codebook_c)
      · exact absurd ((rankLt_of_codebook metric (ab.trans codebook_b) exact_c).symm.trans before) Bool.false_ne_true
  · rcases tiers_of_ne ab with ⟨exact_a, codebook_b⟩ | ⟨codebook_a, exact_b⟩
    · exact Or.inl (rankLt_of_exact metric exact_a codebook_b)
    · refine Or.inr (rankLt_of_exact metric exact_b (Bool.eq_false_iff.mpr fun exact_c => ?_))
      exact Bool.false_ne_true ((rankLt_of_codebook metric codebook_a exact_c).symm.trans before)

theorem exact_of_not_rankLt {metric : Nat} {a b : Bool × Word} (notBefore : rankLt metric b a = false) (exact_b : b.1 = true) : a.1 = true :=
  Bool.ne_false_iff.mp fun codebook_a => Bool.false_ne_true (notBefore.symm.trans (rankLt_of_exact metric exact_b codebook_a))

theorem cand_rank (c : Cand) : c.rank = (c.exact.isSome, c.exact.getD c.code) := by
  rw [Cand.rank]
  cases c.exact <;> rfl

/-- Settles O39: the sort is stable, and of three ranks the order tells the outer two apart only where it tells the middle one from one of them. -/
theorem rankOrder : Obligations.RankOrder := by
  refine ⟨fun metric a b => rfl, cand_rank, fun α metric key l => ?_⟩
  obtain ⟨r, same, perm, sorted⟩ := sortBy_stable (lt := fun a b => rankLt metric (key a) (key b)) (fun a b => rankLt_asymm metric (key a) (key b))
    (fun a b c => rankLt_split metric (key a) (key b) (key c)) l
  refine ⟨r, same, perm, sorted.imp fun {a b} before => ?_⟩
  obtain ⟨notAfter, earlier⟩ := before
  refine ⟨exact_of_not_rankLt notAfter, fun tier => ⟨?_, fun notBetter => earlier ?_⟩⟩
  · exact (rankLt_of_same_tier metric tier.symm).symm.trans notAfter
  · exact (rankLt_of_same_tier metric tier).trans notBetter

/-! ## Codes (R123–R125, R132) -/

/-- The candidates whose code is uncorrectable. -/
def codesBad (x : Index) (sh : Shard) (w : Walk) (bad : List Nat) (s : State) : List Nat :=
  (List.range w.cands.length).filter fun i =>
    bad.contains i || (w.cands[i]?.any fun c => s.poisoned sh.codes (c.slot * (x.subspaces / 2)) (x.subspaces / 2))

/-- The look-up table has been built and every code read, those in `wrong` with an error. -/
def codesRead (x : Index) (sh : Shard) (w : Walk) (wrong : List Nat) (s : State) : State :=
  w.cands.zipIdx.foldl
    (fun t p => if wrong.contains p.2 then uncorrectable sh.codes (p.1.slot * (x.subspaces / 2)) (x.subspaces / 2) t
      else walkReads w sh.codes (p.1.slot * (x.subspaces / 2)) (x.subspaces / 2) t)
    (w.counts (tableCounts x (s.readObj sh.books 0 x.bookBytes) w.vector) s)

/-- The candidates with the scores of their codes as `t` holds them; those in `wrong` leave the list. -/
def codesScored (x : Index) (sh : Shard) (w : Walk) (wrong : List Nat) (books : Bytes) (t : State) : List Cand :=
  w.cands.zipIdx.map fun p =>
    { p.1 with
      removed := wrong.contains p.2
      code := codeScore x books w.vector (t.readObj sh.codes (p.1.slot * (x.subspaces / 2)) (x.subspaces / 2)) }

/-- The places of the best `e` candidates by codebook score (R125). -/
def bestCodes (metric e : Nat) (rated : List Cand) : List Nat :=
  ((sortBy (fun (a b : Cand × Nat) => scoreBetter metric a.1.code b.1.code) (rated.zipIdx.filter fun p => !p.1.removed)).take e).map fun p => p.2

/-- The candidates with those at the places `best` selected, their exact reads outstanding. -/
def readsIssued (rated : List Cand) (best : List Nat) : List Cand :=
  rated.zipIdx.map fun p => { p.1 with chosen := best.contains p.2, waiting := best.contains p.2 }

/-- The walk whose candidates are now `cands`, some codes in `wrong` being uncorrectable in `tier`. -/
def awaitsExact (cands : List Cand) (wrong : List Nat) (tier : Nat) (v : Walk) : Walk :=
  { v with
    phase := .exact, cands := cands, cause := if wrong = [] then v.cause else 6
    faultTier := if wrong = [] then v.faultTier else some (v.faultTier.getD tier) }

/-- The places that rescoring selects for exact reads. -/
def selected (x : Index) (sh : Shard) (w : Walk) (bad : List Nat) (s : State) : List Nat :=
  let wrong := codesBad x sh w bad s
  bestCodes x.metric w.exactCount (codesScored x sh w wrong (s.readObj sh.books 0 x.bookBytes) (codesRead x sh w wrong s))

/-- The codes are scored and the exact reads of the best candidates issued. -/
def rescored (x : Index) (sh : Shard) (w : Walk) (id : Nat) (bad : List Nat) (s : State) : State :=
  let wrong := codesBad x sh w bad s
  let t := codesRead x sh w wrong s
  let rated := codesScored x sh w wrong (s.readObj sh.books 0 x.bookBytes) t
  t.setWalk id (awaitsExact (readsIssued rated (selected x sh w bad s)) wrong (t.tierAt sh.codes 0))

theorem awaitsExact_eq (cands : List Cand) (wrong : List Nat) (tier : Nat) (v : Walk) :
    awaitsExact cands wrong tier v =
      { (if wrong.isEmpty then v else v.hurt tier) with phase := .exact, cands := cands, cause := if wrong.isEmpty then v.cause else 6 } := by
  cases wrong <;> rfl

theorem rescore_of_busy {s : State} (busy : s.idleSystem = []) (id : Nat) (bad : List Nat) : rescore id bad s = s := by
  rw [rescore, busy]
  rfl

section
variable {s : State} {id : Nat} {w : Walk} (walk : s.walk id = some w)
include walk

theorem rescore_of_idle {x : Index} {sh : Shard} (idle : s.idleSystem ≠ []) (index : s.index w.index = some x) (shard : x.shard = some sh)
    (ended : w.phase = .ended) (bad : List Nat) :
    rescore id bad s = if selected x sh w bad s = [] then sendList id (rescored x sh w id bad s) else rescored x sh w id bad s := by
  have free : ¬s.idleSystem.isEmpty = true := by simp [idle]
  have due : ¬(w.phase != .ended) = true := by simp [ended]
  rw [rescore, if_neg free, rescoreWalk, walk]
  simp only [index, shard, if_neg due, List.isEmpty_iff, rescored, funext (awaitsExact_eq _ _ _)]
  rfl

end

/-! ## Exact reads (R126–R132) -/

/-- The parts of candidate `c`'s exact read: its exact vector, its key table entry and its outlier bytes. -/
def exactParts (x : Index) (sh : Shard) (c : Cand) : List (Nat × Nat × Nat) :=
  [(sh.exact, c.slot * x.exactStride, x.exactStride), (sh.keys, 16 * c.slot, 16), (sh.outl, c.slot * x.outDims.length, x.outDims.length)]

/-- The part that is uncorrectable: one found poisoned, or the vector where an error is reported. -/
def exactBad (x : Index) (sh : Shard) (c : Cand) (err : Nat) (s : State) : Option (Nat × Nat × Nat) :=
  ((exactParts x sh c).find? fun r => r.2.2 != 0 && s.poisoned r.1 r.2.1 r.2.2) <|> (if err = 0 then none else (exactParts x sh c).head?)

/-- Candidate `c` with its exact score. -/
def exactKept (x : Index) (sh : Shard) (w : Walk) (c : Cand) (s : State) : Cand :=
  { c with
    waiting := false
    exact := some (exactScore x s.free w.vector (s.readObj sh.exact (c.slot * x.exactStride) x.exactStride) (s.readObj sh.keys (16 * c.slot) 16)
      (s.readObj sh.outl (c.slot * x.outDims.length) x.outDims.length))
    removed := false }

/-- Candidate `c` as it leaves the list. -/
def exactRemoved (c : Cand) : Cand := { c with waiting := false, exact := none, removed := true }

/-- Candidate `n` of walk `id` has been read and keeps its exact score. -/
def exactRead (x : Index) (sh : Shard) (w : Walk) (id n : Nat) (c : Cand) (s : State) : State :=
  ((exactParts x sh c).foldl (fun t r => walkReads w r.1 r.2.1 r.2.2 t)
    (w.counts (exactCounts x (s.readObj sh.exact (c.slot * x.exactStride) x.exactStride) (s.readObj sh.keys (16 * c.slot) 16)
      (s.readObj sh.outl (c.slot * x.outDims.length) x.outDims.length)) { s with free := s.free + 2 })).setWalk id fun v =>
    { v with cands := v.cands.set n (exactKept x sh w c s) }

/-- Part `r` of candidate `n` of walk `id` was uncorrectable: the candidate leaves the list and the walk carries the tier. -/
def exactDiscarded (id n err : Nat) (c : Cand) (r : Nat × Nat × Nat) (s : State) : State :=
  let t := uncorrectable r.1 r.2.1 r.2.2 { s with free := s.free + 2 }
  t.setWalk id fun v => { v.hurt (if err = 0 then t.tierAt r.1 r.2.1 else min (err - 1) 2) with cands := v.cands.set n (exactRemoved c), cause := 6 }

/-- The list goes out unless one of `cands` still waits for its reads. -/
def sentIfLast (id : Nat) (cands : List Cand) (t : State) : State := if cands.any Cand.waiting then t else sendList id t

section
variable {s : State} {id n err : Nat} {w : Walk} {c : Cand} {x : Index} {sh : Shard} (walk : s.walk id = some w) (cand : w.cands[n]? = some c)
  (index : s.index w.index = some x) (shard : x.shard = some sh) (phase : w.phase = .exact) (waiting : c.waiting = true)
include walk cand index shard phase waiting

theorem exactReturned_of_sound (sound : exactBad x sh c err s = none) :
    exactReturned id n err s = sentIfLast id (w.cands.set n (exactKept x sh w c s)) (exactRead x sh w id n c s) := by
  rw [exactBad, exactParts] at sound
  have due : ¬(w.phase != .exact || !c.waiting) = true := by simp [phase, waiting]
  rw [exactReturned, walk]
  simp only [cand, index, shard, if_neg due, sound]
  rfl

theorem exactReturned_of_error {r : Nat × Nat × Nat} (error : exactBad x sh c err s = some r) :
    exactReturned id n err s = sentIfLast id (w.cands.set n (exactRemoved c)) (exactDiscarded id n err c r s) := by
  rw [exactBad, exactParts] at error
  have due : ¬(w.phase != .exact || !c.waiting) = true := by simp [phase, waiting]
  rw [exactReturned, walk]
  simp only [cand, index, shard, if_neg due, error]
  rfl

end

/-! ## Late reads (R131) -/

/-- Every exact score of walk `id` is abandoned and nothing more is awaited. -/
def exactAbandoned (id : Nat) (s : State) : State :=
  s.setWalk id fun v => { v with cheaper := true, cands := v.cands.map fun c => { c with exact := none, waiting := false } }

section
variable {s : State} {id : Nat} {w : Walk} (walk : s.walk id = some w)
include walk

theorem exactLate_of_degrade (degrade : w.degrade = true) (phase : w.phase = .exact) : exactLate id s = sendList id (exactAbandoned id s) := by
  have due : ¬(w.phase != .exact) = true := by simp [phase]
  rw [exactLate, walk]
  simp only [degrade, if_true]
  rw [declareLate, walk]
  exact if_neg due

theorem exactLate_of_stall (stall : w.degrade = false) : exactLate id s = s := by
  rw [exactLate, walk]
  simp only [stall, Bool.false_eq_true, if_false]

end

/-! ## The obligation -/

section
variable {s : State} (up : s.up = true) (id : Nat)
include up

theorem exec_rescoring (bad : List Nat) : exec (.rescoring id bad) s = .next (leaves s (rescore id bad s)) := act_whenUp up (rescore id bad)

theorem exec_exactReadReturn (n err : Nat) : exec (.exactReadReturn id n err) s = .next (leaves s (exactReturned id n err s)) :=
  act_whenUp up (exactReturned id n err)

theorem exec_exactReadsLate : exec (.exactReadsLate id) s = .next (leaves s (exactLate id s)) := act_whenUp up (exactLate id)

end

/-- Settles O38: rescoring by whether a cluster is idle and a read is issued, an exact read by whether a part of it is uncorrectable, late reads by DEGRADE. -/
theorem rescoringEvents : Obligations.RescoringEvents := by
  refine fun s up id w walk => ⟨fun bad busy => ?busy, fun bad x sh idle index shard ended => ?codes,
    fun n err c x sh cand index shard phase waiting => ⟨fun sound => ?sound, fun r error => ?error⟩, fun phase degrade => ?late, fun stall => ?stalled⟩
  case busy => rw [exec_rescoring up, rescore_of_busy busy]
  case codes =>
    rw [exec_rescoring up, rescore_of_idle walk idle index shard ended]
    refine ⟨fun (nothing : selected x sh w bad s = []) => ?_, fun (something : selected x sh w bad s ≠ []) => ?_⟩
    · rw [if_pos nothing]
      rfl
    · rw [if_neg something]
      rfl
  case sound =>
    rw [exec_exactReadReturn up, exactReturned_of_sound walk cand index shard phase waiting sound]
    rfl
  case error =>
    rw [exec_exactReadReturn up, exactReturned_of_error walk cand index shard phase waiting error]
    rfl
  case late =>
    rw [exec_exactReadsLate up, exactLate_of_degrade walk degrade phase]
    rfl
  case stalled => rw [exec_exactReadsLate up, exactLate_of_stall walk stall]

end Sys2Proof.Proofs

namespace Sys2Proof.Proofs

/-! The ingest packets as they take hold: INSERT's reservations, DELETE's wait for its boundary, MERGE's parameters and snapshot, BULK_LOAD's job and
INDEX_STAT's records (R144, R145, R148, R149, R158, R161; log entry 9). -/

open Sys2Proof Sys2Proof.Machine Sys2Proof.Laws

/-! ## Ingest packets as they take hold -/

section
variable {s : State} {q : Pkt}

theorem exec_insert (holds : s.takesHold 0x3002 q) : exec (.insert q) s = .next (s.after 0x3002 q (holdInsert (s.holder 0x3002 q))) :=
  exec_of_takesHold rfl holds (by decide) rfl rfl

theorem exec_delete (holds : s.takesHold 0x3003 q) : exec (.delete q) s = .next (s.after 0x3003 q (holdDelete (s.holder 0x3003 q))) :=
  exec_of_takesHold rfl holds (by decide) rfl rfl

theorem exec_merge (holds : s.takesHold 0x3004 q) : exec (.merge q) s = .next (s.after 0x3004 q (holdMerge (s.holder 0x3004 q))) :=
  exec_of_takesHold rfl holds (by decide) rfl rfl

theorem exec_bulkLoad (holds : s.takesHold 0x3005 q) : exec (.bulkLoad q) s = .next (s.after 0x3005 q (holdBulkLoad (s.holder 0x3005 q))) :=
  exec_of_takesHold rfl holds (by decide) rfl rfl

theorem exec_indexStat (holds : s.takesHold 0x3006 q) : exec (.indexStat q) s = .next (s.after 0x3006 q (holdIndexStat (s.holder 0x3006 q))) :=
  exec_of_takesHold rfl holds (by decide) rfl rfl

end

/-! ## The index of an ingest command -/

/-- An ingest command works on its channel's primary index (R70). -/
theorem index_primary_of_ingest {c : Cmd} {s : State} {ch : Channel} {x : Index} (found : s.ingest c = some (ch, x)) : s.index ch.primary = some x := by
  rw [State.ingest] at found
  cases channel : s.handleChan c.q.handle with
  | none => simp [channel] at found
  | some d =>
    obtain ⟨y, here, pair⟩ : ∃ y, s.index d.primary = some y ∧ (d, y) = (ch, x) := by simpa [channel] using found
    obtain ⟨rfl, rfl⟩ := Prod.mk.inj pair
    exact here

/-- The index of an ingest command is found under its own number too. -/
theorem index_num_of_ingest {c : Cmd} {s : State} {ch : Channel} {x : Index} (found : s.ingest c = some (ch, x)) : s.index x.num = some x := by
  have here : s.index ch.primary = some x := index_primary_of_ingest found
  rw [index_num here, here]

/-! ## INSERT (R144–R146) -/

/-- A command that has reserved nothing on this member's shards has nothing to release. -/
theorem releaseStaged_of_none_mine {id : Nat} {s : State} (unreserved : ∀ y ∈ s.indexes, ∀ sh, y.shard = some sh → sh.mine id = []) :
    releaseStaged id s = s := by
  refine List.foldlRecOn s.indexes _ (motive := fun t => t = s) rfl fun t same y listed => ?_
  cases shard : y.shard with
  | none => exact same
  | some sh => simpa [unreserved y listed sh shard] using same

/-- An INSERT for which no shard has been chosen has no reservations that could stand. -/
theorem insertStands_of_unprepared {c : Cmd} (unprepared : c.shards = []) (x : Index) (s : State) : insertStands c x s = false := by
  simp [insertStands, unprepared]

/-- The module once every target shard has reserved the rows' entries for command `id` (R145). -/
def shardsReserved (id : Nat) (rows : List InsRow) (s : State) : State :=
  s.setCmd id fun d => { d with shards := rows.map InsRow.shard, reservedIn := s.tick }

theorem insertAnswered_of_none {c : Cmd} {x : Index} {rows : List InsRow} {k : Nat} (allReserve : remoteAnswer (insertRemote x rows) k = none) (s : State) :
    insertAnswered c x rows k s = (.reserved, shardsReserved c.id rows s) := by
  rw [insertAnswered, allReserve]
  rfl

section
variable {c : Cmd} {x : Index} {s : State} (sound : insertRefused c.q x (insertRows c.q x s) = none)
  (present : ∀ r ∈ insertRows c.q x s, s.shardReachable x r.shard = true)
  (allReserve : remoteAnswer (insertRemote x (insertRows c.q x s)) (s.free + insertDraws c.q x) = none)
include sound present allReserve

/-- Where every target shard lies elsewhere, nothing is reserved on this member. -/
theorem reserveInsert_of_no_shard (elsewhere : x.shard = none) :
    reserveInsert c x s = (.reserved, shardsReserved c.id (insertRows c.q x s) (insertDrawn c.q x s)) := by
  have noneAbsent : ((insertRows c.q x s).any fun r => !s.shardReachable x r.shard) = false := by simpa using present
  simp only [reserveInsert, sound, noneAbsent, elsewhere]
  exact insertAnswered_of_none allReserve _

/-- Where this member's shard has positions and slots for its entries, it reserves them (R145). -/
theorem reserveInsert_of_shard {sh sh' : Shard} {slots : List Nat} (here : x.shard = some sh)
    (room : (insertOwn x (insertRows c.q x s)).length ≤ sh.room)
    (issued : sh.issuable x.slots s.tick (insertOwn x (insertRows c.q x s)).length = some (slots, sh')) :
    reserveInsert c x s = (.reserved, shardsReserved c.id (insertRows c.q x s)
      (reserveLocal x c.id sh' (insertOwn x (insertRows c.q x s)) slots (insertDrawn c.q x s))) := by
  have noneAbsent : ((insertRows c.q x s).any fun r => !s.shardReachable x r.shard) = false := by simpa using present
  simp only [reserveInsert, sound, noneAbsent, here, if_neg (Nat.not_lt.mpr room), issued]
  exact insertAnswered_of_none allReserve _

end

section
variable {c : Cmd} {s : State} {ch : Channel} {x : Index} (found : s.ingest c = some (ch, x))
include found

/-- An INSERT that reserved nothing before its admission boundary reserves there and is admitted (R145, R146). -/
theorem holdInsert_of_reserved {t : State} (unprepared : c.shards = []) (usable : x.loading = false)
    (unreserved : ∀ y ∈ s.indexes, ∀ sh, y.shard = some sh → sh.mine c.id = []) (reserves : reserveInsert c x s = (.reserved, t)) :
    holdInsert c s = admitInsert c ch t := by
  simp only [holdInsert, found, usable, Bool.false_eq_true, if_false, insertStands_of_unprepared unprepared, releaseStaged_of_none_mine unreserved,
    index_num_of_ingest found, reserves]

/-! ## DELETE and MERGE (R148, R149) -/

theorem holdDelete_of_usable (usable : x.loading = false) : holdDelete c s = awaitCommit c ch s := by
  simp only [holdDelete, found, usable, Bool.false_eq_true, if_false]

/-- A MERGE runs from its boundary on; its parameters come into force and, where it names this member's shard, it waits for the shard's entries up to the tail
(R147, R149). -/
def merging (c : Cmd) (ch : Channel) (x : Index) (s : State) : State :=
  (s.setCmd c.id fun d => { d with state := .running, admitTick := s.tick, binding := ch.binding, uses := [ch.primary] }).setShard x.num fun sh => { sh with
    allowance := pickVal (fld c.q.params 2 2) 4096, sweepBlocks := pickVal (fld c.q.params 4 2) 32768, width := pickVal (fld c.q.params 6 1) 2
    alpha := pickVal (fld c.q.params 7 1) 20, hopCharge := chargeFor ch (ch.setting 0x0306), hopBudget := ch.setting 0x0306
    waits := if fld c.q.params 0 2 = 0xFFFF ∨ fld c.q.params 0 2 = sh.number then sh.waits ++ [{ cmd := c.id, upTo := sh.tail }] else sh.waits }

theorem holdMerge_of_usable (usable : x.loading = false) : holdMerge c s = merging c ch x s := by
  simp only [holdMerge, found, usable, Bool.false_eq_true, if_false]
  rfl

/-! ## BULK_LOAD (R158, R159) -/

/-- A BULK_LOAD's job is started and the index is loading, with the projection, codebooks and routing table of the load staged (R159). -/
def loadStarted (c : Cmd) (ch : Channel) (x : Index) (s : State) : State :=
  let src := fld c.q.params 0 4
  let p := loadPlan (s.readObj src 0 64)
  let j := startJob c (.bulkLoad x.num) [src, pickVal (fld c.q.params 4 2) 4096, pickVal (fld c.q.params 6 1) 2, pickVal (fld c.q.params 7 1) 20,
    chargeFor ch (ch.setting 0x0306), ch.setting 0x0306] s
  (j.1.setCmd c.id fun d => { d with uses := [ch.primary, src], binding := ch.binding }).setIndex x.num fun y => { y with
    loading := true, loadRecs := [], loadEntry := [], staged := [s.loadProj src p x, s.loadBooks src p x, s.loadRoute src p x] }

theorem holdBulkLoad_of_sound (sound : loadBad (fld c.q.params 0 4) x c.q s = none) (fits : loadOver (fld c.q.params 0 4) x s = none) :
    holdBulkLoad c s = loadStarted c ch x { s with free := s.free + 1 + x.count } := by
  simp only [holdBulkLoad, found, sound, fits, Option.orElse_eq_orElse, Option.orElse_none]
  rfl

end

/-! ## INDEX_STAT (R161) -/

/-- The shards that an INDEX_STAT asks for: one, or every shard of the index. -/
def statAsked (q : Pkt) (x : Index) : List Nat := if fld q.params 0 2 = 0xFFFF then List.range x.count else [fld q.params 0 2]

/-- The record of one shard asked for, with its place in the reply: read where the shard lies here, open where it does not (log entry 9). -/
def statOf (x : Index) (s : State) (p : Nat × Nat) : Bytes :=
  let elsewhere := (List.range 48).map (fun k => Config.freeByte (s.free + 64 * p.2 + k)) ++ zeros 16
  match x.shard with
  | some sh => if sh.number = p.1 then statRecord x sh s else elsewhere
  | none => elsewhere

theorem holdIndexStat_of_index {c : Cmd} {s : State} {ch : Channel} {x : Index} (channel : s.handleChan c.q.handle = some ch)
    (index : s.index ch.primary = some x) :
    holdIndexStat c s = finish c (okDone (statAsked c.q x).length [⟨fld c.q.params 8 8, ((statAsked c.q x).zipIdx.map (statOf x s)).flatten⟩])
      { s with free := s.free + 64 * (statAsked c.q x).length } := by
  simp only [holdIndexStat, channel, index]
  rfl

/-- Settles O13: an INSERT by where its entries lie, the other packets by the branch of their act that nothing refuses. -/
theorem ingestPackets : Obligations.IngestPackets := by
  refine fun s q ch x => ⟨?insert, ?delete, ?merge, ?bulkLoad, ?indexStat⟩
  case insert =>
    intro holds found t rows id usable unreserved sound present allReserve prepared
    have admits : ∀ u, reserveInsert (s.holder 0x3002 q) x t = (.reserved, u) → holdInsert (s.holder 0x3002 q) t = admitInsert (s.holder 0x3002 q) ch u :=
      fun u => holdInsert_of_reserved found rfl usable unreserved
    refine ⟨fun elsewhere => ?_, fun sh sh' slots here room issued => ?_⟩
    · have reserves : reserveInsert (s.holder 0x3002 q) x t = (.reserved, shardsReserved id rows (insertDrawn q x t)) :=
        reserveInsert_of_no_shard (c := s.holder 0x3002 q) sound present allReserve elsewhere
      exact leaves_of_act (exec_insert holds) (admits _ reserves)
    · have reserves : reserveInsert (s.holder 0x3002 q) x t
          = (.reserved, shardsReserved id rows (reserveLocal x id sh' (insertOwn x rows) slots (insertDrawn q x t))) :=
        reserveInsert_of_shard (c := s.holder 0x3002 q) sound present allReserve here room issued
      exact leaves_of_act (exec_insert holds) (admits _ reserves)
  case delete => exact fun holds found usable => leaves_of_act (exec_delete holds) (holdDelete_of_usable found usable)
  case merge => exact fun holds found usable => leaves_of_act (exec_merge holds) (holdMerge_of_usable found usable)
  case bulkLoad => exact fun holds found sound fits => leaves_of_act (exec_bulkLoad holds) (holdBulkLoad_of_sound found sound fits)
  case indexStat => exact fun holds channel index => answers_of_act (exec_indexStat holds) (holdIndexStat_of_index channel index)

end Sys2Proof.Proofs

namespace Sys2Proof.Proofs

/-! Memory packets, row updates and the swap of a directory entry over the fabric (R185, R251, R262, R263, R305, R313, R315, R316, R319, R321, R324;
log entries 48 and 93). -/

open Sys2Proof Sys2Proof.Machine Sys2Proof.Laws

/-! ## Reads and writes of memory (R305, R313, R315, R316, R319) -/

section
variable {h : FabHdr} {addr : Nat} {s : State}

section
variable {tag n : Nat} (asked : 0 < n) (fits : n ≤ 64)
include asked fits

theorem readCount_legal : ¬(n = 0 ∨ 64 < n) := by omega

theorem readServed_of_stays {p : Place} (leads : s.resolve addr (256 * n) = some p) (stays : ∀ m, p ≠ .away m) :
    readServed h tag addr n s = sendFab (answerPkt h 0x02 h.cls (p.poisoned (256 * n) s) (leBytes 8 tag) (p.bytes (256 * n) s)) s := by
  rw [readServed, if_neg (readCount_legal asked fits), leads]
  cases p with
  | here num off => rfl
  | held a => rfl
  | away m => exact absurd rfl (stays m)

theorem readServed_of_away {m : Nat} (leads : s.resolve addr (256 * n) = some (.away m)) :
    readServed h tag addr n s = redirect h 0x01 (memSpec addr n) [] m s := by
  rw [readServed, if_neg (readCount_legal asked fits), leads]

/-- A request to an address behind which nothing lies is dropped (R315; DEDUCED, log entry 48). -/
theorem readServed_of_nothing (leads : s.resolve addr (256 * n) = none) : readServed h tag addr n s = s := by
  rw [readServed, if_neg (readCount_legal asked fits), leads]

end

variable {data : Bytes}

theorem writeApplied_of_stays {p : Place} (leads : s.resolve addr data.length = some p) (stays : ∀ m, p ≠ .away m) :
    writeApplied h addr data s = p.write data h.poison s := by
  rw [writeApplied, leads]
  cases p with
  | here num off => rfl
  | held a => rfl
  | away m => exact absurd rfl (stays m)

theorem writeApplied_of_clean {num off : Nat} (leads : s.resolve addr data.length = some (.here num off)) (clean : h.poison = false) :
    writeApplied h addr data s = s.writeObj num off data := by
  rw [writeApplied_of_stays leads nofun, clean]
  rfl

/-- A poisoned WRITE leaves the granules it writes poisoned (R313). -/
theorem writeApplied_of_poisoned {num off : Nat} (leads : s.resolve addr data.length = some (.here num off)) (bad : h.poison = true) :
    writeApplied h addr data s
      = (s.writeObj num off data).setObj num fun o => { o with poison := dedupBy id (o.poison ++ granules off data.length) } := by
  rw [writeApplied_of_stays leads nofun, bad]
  rfl

theorem writeApplied_of_away {m : Nat} (leads : s.resolve addr data.length = some (.away m)) :
    writeApplied h addr data s = redirect h 0x03 (memSpec addr (ceilDiv data.length 256)) data m s := by
  rw [writeApplied, leads]

theorem writeApplied_of_nothing (leads : s.resolve addr data.length = none) : writeApplied h addr data s = s := by
  rw [writeApplied, leads]

end

/-! ## Row updates (R185, R252, R262, R263; log entry 93) -/

/-- Is there no such row here, or no optimiser state for the step? -/
def rowMissing (t : Table) (self row : Nat) (step : Option OptBlock) : Bool :=
  t.freed || decide (t.rows ≤ row) || !t.holds self row || (step.isSome && !t.opt)

/-- Where the row's slot starts in its heap, by the directory (R251). -/
def slotStart (t : Table) (row : Nat) (s : State) : Nat := 8 * (s.dirEntry t (t.localRow row)).1

/-- The row read, updated and written at once, and its counts on a channel (R185, R252). -/
def rowUpdated (h : FabHdr) (t : Table) (row : Nat) (step : Option OptBlock) (dfmt : Nat) (data : Bytes) (s : State) : State :=
  let d := remoteDelta t step.isSome dfmt data
  let clean := cleanDelta d.1
  let r := rowUpdate t row { step := step, stochastic := Config.freeBool s.free } clean.1
    { member := h.src, cmd := h.query, seed := (Config.seed (s.free + 1)).toNat, tick := h.admitTick } { s with free := s.free + 3 }
  countConv (((s.channels.map Channel.slot)[Config.freeNat (s.free + 2) % max s.channels.length 1]?).getD 0) (sumCounts [d.2, clean.2, r.2]) r.1

theorem rowMissing_of_absent {t : Table} {self row : Nat} (absent : t.rows ≤ row ∨ t.holds self row = false ∨ t.freed = true) (step : Option OptBlock) :
    rowMissing t self row step = true := by
  rcases absent with outside | elsewhere | freed
  · simp [rowMissing, outside]
  · simp [rowMissing, elsewhere]
  · simp [rowMissing, freed]

theorem rowMissing_of_no_optimiser {t : Table} (plain : t.opt = false) (self row : Nat) (o : OptBlock) : rowMissing t self row (some o) = true := by
  simp [rowMissing, plain]

/-- A row here of a table that stands is there for an add, and for a step where the table has optimiser state. -/
theorem rowMissing_of_present {t : Table} {self row : Nat} {step : Option OptBlock} (stands : t.freed = false) (inside : row < t.rows)
    (mine : t.holds self row = true) (able : step.isSome = true → t.opt = true) : rowMissing t self row step = false := by
  have steppable : (step.isSome && !t.opt) = false := by
    cases step with
    | none => rfl
    | some o => simp [able rfl]
  simp [rowMissing, stands, mine, steppable, Nat.not_le.mpr inside]

section
variable {num : Nat} {t : Table} {s : State} (table : s.table num = some t)
variable {h : FabHdr} {row dfmt : Nat} {step : Option OptBlock} {data : Bytes}
include table

/-- What a row update does to a table of this member is decided by whether the row is here and its slot sound. -/
theorem rowArrives_of_table :
    rowArrives h row num step dfmt data s =
      if rowMissing t s.self row step then s
      else if s.poisoned t.heap (slotStart t row s) t.slotBytes then uncorrectable t.heap (slotStart t row s) t.slotBytes s
      else rowUpdated h t row step dfmt data s := by
  rw [rowArrives, table]
  rfl

theorem rowArrives_of_missing (missing : rowMissing t s.self row step = true) : rowArrives h row num step dfmt data s = s := by
  rw [rowArrives_of_table table, if_pos missing]

variable (present : rowMissing t s.self row step = false)
include present

theorem rowArrives_of_poisoned (bad : s.poisoned t.heap (slotStart t row s) t.slotBytes = true) :
    rowArrives h row num step dfmt data s = uncorrectable t.heap (slotStart t row s) t.slotBytes s := by
  rw [rowArrives_of_table table, if_neg (Bool.eq_false_iff.mp present), if_pos bad]

theorem rowArrives_of_sound (sound : s.poisoned t.heap (slotStart t row s) t.slotBytes = false) :
    rowArrives h row num step dfmt data s = rowUpdated h t row step dfmt data s := by
  rw [rowArrives_of_table table, if_neg (Bool.eq_false_iff.mp present), if_neg (Bool.eq_false_iff.mp sound)]

end

/-! ## The swap of a directory entry (R251, R260, R324) -/

/-- The directory entry that lies at a global address, as a number; 0 where nothing lies there. -/
def entryAt (addr : Nat) (s : State) : Nat :=
  match s.resolve addr 8 with
  | some p => leVal (p.bytes 8 s)
  | none => 0

theorem atomicSwapped_of_dir {h : FabHdr} {tag addr e : Nat} {data : Bytes} {t : Table} {s : State} (len : data.length = 8) (aligned : addr % 8 = 0)
    (dir : s.dirAt addr = some (t, e)) :
    atomicSwapped h tag addr data s
      = dirSwapped t (entryAt addr s) (leVal data) (atomicApplied h 5 addr 8 data (some tag) (fun _ => data) s) := by
  rw [atomicSwapped, if_pos ⟨len, aligned⟩, dir]
  rfl

/-- Settles O47: a memory packet by where its address leads, a row update by whether its row is here and sound, a swap by its directory. -/
theorem memoryPackets : Obligations.MemoryPackets := by
  refine ⟨fun s h addr => ?memory, fun s h num row dfmt block data t table => ?rows⟩
  case memory =>
    exact ⟨fun tag g p asked fits leads stays => readServed_of_stays asked fits leads stays,
      fun tag g asked fits leads => readServed_of_nothing asked fits leads, fun tag g m asked fits leads => readServed_of_away asked fits leads,
      fun data n off leads => ⟨writeApplied_of_clean leads, writeApplied_of_poisoned leads⟩, fun data a leads => writeApplied_of_stays leads nofun,
      fun data m leads => writeApplied_of_away leads, fun data leads => writeApplied_of_nothing leads, fun tag data => rfl, fun tag data => rfl⟩
  case rows =>
    intro slot chan run
    refine ⟨fun stands inside mine sound => ⟨?add, fun opt => ?step⟩, fun stands inside mine bad => ⟨?addPoisoned, fun opt => ?stepPoisoned⟩,
      fun absent => ⟨?addAbsent, ?stepAbsent⟩, fun plain => ?stepPlain, fun tag addr e dir aligned len => atomicSwapped_of_dir len aligned dir⟩
    case add => exact rowArrives_of_sound table (rowMissing_of_present stands inside mine nofun) sound
    case step => exact rowArrives_of_sound table (rowMissing_of_present stands inside mine fun _ => opt) sound
    case addPoisoned => exact rowArrives_of_poisoned table (rowMissing_of_present stands inside mine nofun) bad
    case stepPoisoned => exact rowArrives_of_poisoned table (rowMissing_of_present stands inside mine fun _ => opt) bad
    case addAbsent => exact rowArrives_of_missing table (rowMissing_of_absent absent none)
    case stepAbsent => exact rowArrives_of_missing table (rowMissing_of_absent absent (some (optBlock block)))
    case stepPlain => exact rowArrives_of_missing table (rowMissing_of_no_optimiser plain s.self row (optBlock block))

end Sys2Proof.Proofs

namespace Sys2Proof.Proofs

/-! The operations of a kernel's bundles: when one issues, what each writes or puts into its unit, and what the units do (R197, R212, R214–R220, R237, R244); and
the block's step on an empty queue (log entry 13). -/

open Sys2Proof Sys2Proof.Machine Sys2Proof.Laws

/-- A command that leaves one state leaves every state equal to it. -/
theorem next_leaves_of_eq {o : Host.Outcome State Fault Refusal} {s t u : State} (runs : o = .next (leaves s t)) (same : t = u) : o = .next (leaves s u) :=
  same ▸ runs

/-! ## Issue (R214, R215) -/

section
variable {s : State} {c : Nat} {op : KOp}

theorem issue_of_blocked (blocked : canIssue s c op = none) (f : Running → State → State) : issue c op f s = s := by
  rw [issue, blocked]

theorem issue_of_free {r : Running} (free : canIssue s c op = some r) (f : Running → State → State) :
    issue c op f s = drive (issued c op (if (s.cluster c).guard (opGuard op) then f r s else s)) := by
  rw [issue, free]

theorem act_issue_of_issues {r : Running} (issues : s.issues c op r) {f : Running → State → State} {g : State → State} (effect : f r s = g s) :
    act (whenUp (issue c op f)) s = .next (s.issuing c op g) := by
  obtain ⟨up, free, guarded⟩ := issues
  rw [act_whenUp up, issue_of_free free, if_pos guarded, effect, State.issuing]

end

/-- Every kernel row is the issue of its operation, with an effect of its own. -/
theorem exec_of_kernelOp {i : Instr} {c : Nat} {op : KOp} (row : kernelOp i = some (c, op)) :
    ∃ f : Running → State → State, ∀ s, exec i s = act (whenUp (issue c op f)) s := by
  unfold kernelOp at row
  split at row
  all_goals cases row
  all_goals exact ⟨_, fun _ => rfl⟩

/-! ## CTRL and ADDR (R212, R215, R216) -/

/-- What the sequencer is told when the bundle is left. -/
def taken (c n : Nat) (t : State) : State := t.setCluster c fun k => { k with taken := n }

section
variable {c : Nat} {o : CtrlOp} {s : State} (r : Running)

theorem ctrlTaken_loop : ctrlTaken c 1 o r s = taken c o.count s := by simp [ctrlTaken, taken]

theorem ctrlTaken_loopx_of_le (within : ((s.cluster c).xr o.xreg).toNat ≤ o.count) :
    ctrlTaken c 2 o r s = taken c ((s.cluster c).xr o.xreg).toNat s := by
  simp [ctrlTaken, taken, Nat.not_lt.mpr within, Nat.min_eq_left within]

theorem ctrlTaken_loopx_of_lt (beyond : o.count < ((s.cluster c).xr o.xreg).toNat) :
    ctrlTaken c 2 o r s = taken c o.count (countChan r.chan 13 1 s) := by
  simp [ctrlTaken, taken, beyond, Nat.min_eq_right (Nat.le_of_lt beyond)]

/-- A branch, a break, a wait and the ends of a phase and of a run are one trip. -/
theorem ctrlTaken_of_gt {op : Nat} (past : 2 < op) : ctrlTaken c op o r s = taken c 1 s := by
  obtain ⟨n, rfl⟩ : ∃ n, op = n + 3 := ⟨op - 3, by omega⟩
  simp [ctrlTaken, taken]

end

/-! ## MOVE, ARRAY, EPI and SEL as they issue (R217–R220) -/

section
variable {s : State} {c : Nat} {r : Running}

/-- An operation enters its unit after LOOP_CLAMP has been counted where its register asked for more than may be had (R234). -/
theorem toUnit_of_clamp {i : Issued} {asked : Bool} {beyond : Prop} [Decidable beyond] (same : asked = true ↔ beyond) :
    toUnit c i (if asked then countChan r.chan 13 1 s else s)
      = (if beyond then countChan r.chan 13 1 s else s).setCluster c fun k => { k with busy := k.busy ++ [{ i with since := s.frame.cycle }] } := by
  by_cases more : beyond
  · rw [if_pos more, if_pos (same.mpr more)]
    rfl
  · rw [if_neg more, if_neg (mt same.mp more)]
    rfl

theorem arraySteps_eq (k : Cluster) (o : ArrayOp) :
    arraySteps k o = (if o.xsEn then min (k.xr o.xsteps).toNat o.steps else o.steps, o.xsEn && decide (o.steps < (k.xr o.xsteps).toNat)) := by
  cases limited : o.xsEn <;> simp [arraySteps, limited]

theorem selKOf_of_list {op : Nat} (lists : op = 1 ∨ op = 2 ∨ op = 6) (k : Cluster) (o : SelOp) :
    selKOf k op o = (if o.k = 0 then min (k.xr o.xk).toNat 65535 else o.k, decide (o.k = 0 ∧ 65535 < (k.xr o.xk).toNat)) := by
  rcases lists with rfl | rfl | rfl <;> by_cases zero : o.k = 0 <;> simp [selKOf, zero]

end

/-! ## What units do (R197, R217, R237, R244) -/

section
variable {r : Running} {k : Nat} {i : Issued} {s : State}

theorem tryOp_swap {o : ArrayOp} (swap : i.op = .array 5 o) :
    tryOp r k i s = if (s.cluster k).unitBusy 5 then .waits else .ok (s.setCluster k fun c => { c with active := 1 - c.active }) := by
  simp [tryOp, swap, tryArray]

theorem tryOp_start_of_unread {m : MoveOp} (start : i.op = .move 1 m) (input : (r.ring m.ring).output = false) (held : (s.ring k m.ring).slots ≠ []) :
    tryOp r k i s = .waits := by
  have full : (s.ring k m.ring).slots.isEmpty = false := List.isEmpty_eq_false_iff.mpr held
  simp [tryOp, start, tryStart, input, full]

theorem tryOp_start_of_unwritten {m : MoveOp} (start : i.op = .move 1 m) (output : (r.ring m.ring).output = true) (held : (s.ring k m.ring).buf ≠ []) :
    tryOp r k i s = .waits := by
  have full : (s.ring k m.ring).buf.isEmpty = false := List.isEmpty_eq_false_iff.mpr held
  simp [tryOp, start, tryStart, output, full]

/-- The span that a selection opens (R237). -/
def spanOf (n : Nat) (i : Issued) (o : SelOp) : Span :=
  { op := n, k := i.row, ring := o.ringOut, exp := o.exp, split := if o.split then some o.splitId else none }

theorem tryOp_sel_of_room {n : Nat} {o : SelOp} (sel : i.op = .sel n o) (opens : n ≠ 6)
    (through : ((s.cluster k).busy.takeWhile fun x => x != i).any (fun x => opSlot x.op == 5) = false) (room : crownRoom r k s = true) (sound : i.bad = false) :
    tryOp r k i s = .ok ((closeCrown r k s).setCluster k fun c => { c with span := some (spanOf n i o) }) := by
  simp [tryOp, sel, trySel, through, room, sound, opens, spanOf]

end

/-! ## The obligations -/

/-- Settles O2: the step's first branch. -/
theorem emptyQueueIdles : Obligations.EmptyQueueIdles := by
  intro s empty
  rw [step, empty]

/-- Settles O25: a row is the issue of its operation, which looks at `canIssue` first and at the guard second. -/
theorem kernelIssueRules : Obligations.KernelIssueRules := by
  intro i c op s row up
  obtain ⟨f, exec_eq⟩ := exec_of_kernelOp row
  rw [exec_eq, act_whenUp up]
  constructor
  · intro blocked
    rw [issue_of_blocked blocked]
  · intro r free skipped
    rw [issue_of_free free, skipped, if_neg Bool.false_ne_true]

/-- Settles O26: each operation issues with its effect; LOOPX's turns on whether its register is beyond COUNT. -/
theorem kernelScalarOps : Obligations.KernelScalarOps := by
  refine ⟨fun s c o r => ?ctrl, fun s c o r => ?addr⟩
  case ctrl =>
    intro take x
    have issuing : ∀ {op : Nat} {g : State → State}, s.issues c (.ctrl op o) r → ctrlTaken c op o r s = g s →
        act (whenUp (issueCtrl c op o)) s = .next (s.issuing c (.ctrl op o) g) := fun issues => act_issue_of_issues issues
    have one_trip : ∀ {op : Nat}, 2 < op → s.issues c (.ctrl op o) r → act (whenUp (issueCtrl c op o)) s = .next (s.issuing c (.ctrl op o) (take 1)) :=
      fun past issues => issuing issues (ctrlTaken_of_gt r past)
    exact ⟨fun issues => issuing issues (ctrlTaken_loop r), fun issues within => issuing issues (ctrlTaken_loopx_of_le r within),
      fun issues beyond => issuing issues (ctrlTaken_loopx_of_lt r beyond), one_trip (by decide), one_trip (by decide), one_trip (by decide),
      one_trip (by decide), one_trip (by decide)⟩
  case addr =>
    intro sum setA setX setP x1 x2
    have issuing : ∀ {op : Nat} {f : Cluster → Cluster}, s.issues c (.addr op o) r →
        act (whenUp (issueAddr c op o f)) s = .next (s.issuing c (.addr op o) fun t => t.setCluster c f) :=
      fun issues => act_issue_of_issues issues rfl
    exact ⟨issuing, issuing, issuing, issuing, issuing, issuing, issuing, issuing, issuing, issuing, issuing, issuing, issuing⟩

/-- Settles O27: an operation issues with its effect, which is that it enters its unit; the units' rules are the branches of `tryOp`. -/
theorem kernelUnitOps : Obligations.KernelUnitOps := by
  refine ⟨fun s c r bad => ?issue, fun r k i s => ?units⟩
  case issue =>
    intro enter k
    refine ⟨fun o => ?move, fun o => ?array, fun o => ?epi, fun o => ?sel⟩
    case move =>
      intro n i
      exact ⟨fun issues => act_issue_of_issues issues rfl, fun issues => act_issue_of_issues issues rfl, fun issues => act_issue_of_issues issues rfl⟩
    case array =>
      intro x n clamp i
      have issuing : ∀ {op : Nat} {b : Bool}, op ≠ 5 → s.issues c (.array op o) r →
          act (whenUp (issueArray c op o b)) s = .next (s.issuing c (.array op o) fun t => enter (i op b) (clamp t)) := by
        intro op b clamps issues
        refine act_issue_of_issues issues ?_
        rw [arraySteps_eq]
        exact toUnit_of_clamp (by simp [clamps, x, k])
      have swap : s.issues c (.array 5 o) r → act (whenUp (issueArray c 5 o false)) s = .next (s.issuing c (.array 5 o) (enter (i 5 false))) := by
        intro issues
        refine act_issue_of_issues issues ?_
        rw [arraySteps_eq]
        exact toUnit_of_clamp (beyond := False) (by simp)
      exact ⟨issuing (by decide), issuing (by decide), issuing (by decide), issuing (by decide), swap⟩
    case epi =>
      intro d i
      exact ⟨fun issues => act_issue_of_issues issues rfl, fun issues => act_issue_of_issues issues rfl, fun issues => act_issue_of_issues issues rfl⟩
    case sel =>
      intro x kk clamp i
      have issuing : ∀ {op : Nat}, op = 1 ∨ op = 2 ∨ op = 6 → s.issues c (.sel op o) r →
          act (whenUp (issueSel c op o bad)) s = .next (s.issuing c (.sel op o) fun t => enter (i op kk) (clamp t)) := by
        intro op lists issues
        refine act_issue_of_issues issues ?_
        rw [selKOf_of_list lists]
        exact toUnit_of_clamp decide_eq_true_iff
      exact ⟨issuing (by decide), issuing (by decide), fun issues => act_issue_of_issues issues rfl, fun issues => act_issue_of_issues issues rfl,
        fun issues => act_issue_of_issues issues rfl, issuing (by decide)⟩
  case units =>
    refine ⟨fun o swap free => ?swap, fun o swap busy => ?swapWaits, fun m stop => ?stop, fun m release => ?release, fun m start => tryOp_start_of_unread start,
      fun m start => tryOp_start_of_unwritten start, fun n o sel opens through room sound => tryOp_sel_of_room sel opens through room sound⟩
    case swap => rw [tryOp_swap swap, free, if_neg Bool.false_ne_true]
    case swapWaits => rw [tryOp_swap swap, if_pos busy]
    case stop =>
      rw [tryOp, stop]
      rfl
    case release =>
      rw [tryOp, release]
      rfl

end Sys2Proof.Proofs

namespace Sys2Proof.Proofs

/-! Bytes of an object written and read back, and the atomics on them (R200, R252, R285, R305, R324). -/

open Sys2Proof Sys2Proof.Machine Sys2Proof.Laws

/-! ## Reading after a write (R252, R285) -/

theorem readObj_of_obj {s : State} {n : Nat} {o : Obj} (here : s.obj n = some o) (j k : Nat) : s.readObj n j k = o.against j (o.data.read j k) := by
  rw [State.readObj, here]

/-- An object after a write of `bs` at `off` in tick `tk`; `w` says whether the write waits for expansion (R285, R293, R305). -/
def objWritten (tk off : Nat) (bs : Bytes) (w : Bool) (o : Obj) : Obj :=
  touchPages tk off bs.length w { o with
    data := o.data.write off (o.against off bs)
    poison := o.poison.filter fun g => !(decide (off ≤ 256 * g) && decide (256 * g + 256 ≤ off + bs.length)) }

/-- What lies under each number after a write: the object written to has its bytes changed and its form kept. -/
theorem writeObj_obj (s : State) (n off : Nat) (bs : Bytes) (m : Nat) : ∃ f : Obj → Obj, (s.writeObj n off bs).obj m = (s.obj m).map f
    ∧ (∀ o, (f o).fresh = o.fresh) ∧ ∀ o, o.num = m → (f o).data = if m = n then o.data.write off (o.against off bs) else o.data := by
  cases bs with
  | nil =>
    refine ⟨id, by simp [State.writeObj], fun o => rfl, fun o _ => ?_⟩
    split <;> simp [Obj.against, Memory.write]
  | cons b bs =>
    obtain ⟨w, tk, objs⟩ := s.writeObj_objs n off (b :: bs) rfl
    refine ⟨fun o => if o.num == n then objWritten tk off (b :: bs) w o else o, ?_, fun o => ?_, fun o num => ?_⟩
    · rw [State.obj, objs]
      exact find_modifyIf n (objWritten tk off (b :: bs) w) (fun _ => rfl) (fun _ => rfl) s.objs m
    · dsimp only
      split <;> rfl
    · simp only [num, beq_iff_eq]
      split <;> rfl

theorem obj_num {s : State} {n : Nat} {o : Obj} (here : s.obj n = some o) : o.num = n := by
  have found := List.find?_some here
  simp only [Bool.and_eq_true, beq_iff_eq] at found
  exact found.1

theorem against_of_fresh {o o' : Obj} (same : o'.fresh = o.fresh) (off : Nat) (bs : Bytes) : o'.against off bs = o.against off bs := by
  rw [Obj.against, same, Obj.against]

theorem readObj_writeObj_other {m n : Nat} (other : m ≠ n) (s : State) (off : Nat) (bs : Bytes) (j k : Nat) :
    (s.writeObj n off bs).readObj m j k = s.readObj m j k := by
  obtain ⟨f, obj, fresh, data⟩ := writeObj_obj s n off bs m
  cases here : s.obj m with
  | none => rw [State.readObj, obj, here, State.readObj, here]; rfl
  | some o => 
    rw [here] at obj
    rw [readObj_of_obj obj, against_of_fresh (fresh o), data o (obj_num here), if_neg other, readObj_of_obj here]

section
variable {s : State} {n : Nat} {o : Obj} (here : s.obj n = some o)
include here

theorem readObj_writeObj (off : Nat) (bs : Bytes) (j k : Nat) :
    (s.writeObj n off bs).readObj n j k = o.against j ((o.data.write off (o.against off bs)).read j k) := by
  obtain ⟨f, obj, fresh, data⟩ := writeObj_obj s n off bs n
  rw [here] at obj
  rw [readObj_of_obj obj, against_of_fresh (fresh o), data o (obj_num here), if_pos rfl]

variable (canonical : o.data.wf = true)
include canonical

theorem readObj_writeObj_same (off : Nat) (bs : Bytes) : (s.writeObj n off bs).readObj n off bs.length = bs := by
  have whole := Memory.read_write o.data off (o.against off bs) canonical
  rw [Obj.against_length] at whole
  rw [readObj_writeObj here, whole, Obj.against_against]

theorem readObj_writeObj_outside {off j : Nat} {bs : Bytes} (outside : j < off ∨ off + bs.length ≤ j) :
    (s.writeObj n off bs).readObj n j 1 = s.readObj n j 1 := by
  have kept : (o.data.write off (o.against off bs)).get j = o.data.get j :=
    Memory.get_write_outside o.data off j _ canonical (by rwa [Obj.against_length])
  rw [readObj_writeObj here, readObj_of_obj here, Memory.read, Memory.read, Memory.read, Memory.read, kept]

/-- Bytes written back as they were read leave the object as it reads. -/
theorem readObj_writeObj_back (off k j : Nat) : (s.writeObj n off (s.readObj n off k)).readObj n j 1 = s.readObj n j 1 := by
  have length : (s.readObj n off k).length = k := by rw [readObj_of_obj here, Obj.against_length, Memory.read_length]
  by_cases inside : off ≤ j ∧ j < off + k
  · obtain ⟨d, rfl⟩ := Nat.exists_eq_add_of_le inside.1
    have within : d < k := by omega
    have back := readObj_writeObj_same here canonical off (s.readObj n off k)
    rw [length, readObj_writeObj here] at back
    rw [readObj_writeObj here, Obj.against_read o _ off k d within, back, readObj_of_obj here, readObj_of_obj here, Obj.against_read o _ off k d within]
  · exact readObj_writeObj_outside here canonical (by omega)

end

/-! ## Element by element (R324) -/

/-- Element `k` of a string made of equal parts is part `k`. -/
theorem take_drop_flatMap {α β : Type} {g : α → List β} {w : Nat} (l : List α) (width : ∀ a ∈ l, (g a).length = w) (k : Nat) (within : k < l.length) :
    ((l.flatMap g).drop (w * k)).take w = g l[k] := by
  induction l generalizing k with
  | nil => exact absurd within (Nat.not_lt_zero k)
  | cons a as ih =>
    have first : (g a).length = w := width a (List.mem_cons_self ..)
    cases k with
    | zero => simp [← first]
    | succ k =>
      have skip : w * (k + 1) = (g a).length + w * k := by rw [first, Nat.mul_succ, Nat.add_comm]
      rw [List.flatMap_cons, skip, List.drop_length_add_append]
      exact ih (fun b here => width b (List.mem_cons_of_mem a here)) k (Nat.lt_of_succ_lt_succ within)

theorem eachElem_length {w : Nat} (f : Nat → Nat → Nat) (old : Bytes) {data : Bytes} (whole : data.length % w = 0) :
    (eachElem w f old data).length = data.length := by
  calc (eachElem w f old data).length
      = (List.replicate (data.length / w) w).sum := by simp only [eachElem, List.length_flatMap, leBytes_length, List.map_const', List.length_range]
    _ = data.length / w * w := List.sum_replicate_nat
    _ = data.length := Nat.div_mul_cancel (Nat.dvd_of_mod_eq_zero whole)

theorem fld_eachElem {w k : Nat} (some_bytes : 0 < w) (f : Nat → Nat → Nat) (old : Bytes) {data : Bytes} (within : w * k + w ≤ data.length) :
    fld (eachElem w f old data) (w * k) w = f (fld old (w * k) w) (fld data (w * k) w) % 256 ^ w := by
  have index : k < data.length / w := (Nat.le_div_iff_mul_le some_bytes).mpr (by rwa [Nat.succ_mul, Nat.mul_comm k w])
  have part := take_drop_flatMap (g := fun i => leBytes w (f (fld old (w * i) w) (fld data (w * i) w))) (List.range (data.length / w))
    (fun _ _ => leBytes_length w _) k (by rwa [List.length_range])
  rw [List.getElem_range] at part
  have sliced : slice (eachElem w f old data) (w * k) w = leBytes w (f (fld old (w * k) w) (fld data (w * k) w)) := by
    rw [slice, eachElem, part, leBytes_length, Nat.sub_self]
    exact List.append_nil _
  rw [fld, sliced, leVal_leBytes]

/-! ## Atomics -/

section
variable {s : State} {addr n off len : Nat} (leads : s.resolve addr len = some (.here n off))
include leads

section
variable (sound : s.poisoned n off len = false)
include sound

theorem atomicApplied_of_sound (h : FabHdr) (code : Nat) (operand : Bytes) (f : Bytes → Bytes) :
    atomicApplied h code addr len operand none f s = s.writeObj n off (f (s.readObj n off len)) := by
  simp [atomicApplied, leads, Place.poisoned, sound, Place.write, Place.bytes]

theorem atomicApplied_answer_of_sound (h : FabHdr) (code : Nat) (operand : Bytes) (tag : Nat) (f : Bytes → Bytes) :
    atomicApplied h code addr len operand (some tag) f s
      = sendFab (answerPkt h 0x05 h.cls false (leBytes 8 tag) (s.readObj n off len)) (s.writeObj n off (f (s.readObj n off len))) := by
  simp [atomicApplied, leads, Place.poisoned, sound, Place.write, Place.bytes]

end

section
variable (bad : s.poisoned n off len = true)
include bad

theorem atomicApplied_of_poisoned (h : FabHdr) (code : Nat) (operand : Bytes) (f : Bytes → Bytes) :
    atomicApplied h code addr len operand none f s = uncorrectable n off len s := by
  simp [atomicApplied, leads, Place.poisoned, bad]

theorem atomicApplied_answer_of_poisoned (h : FabHdr) (code : Nat) (operand : Bytes) (tag : Nat) (f : Bytes → Bytes) :
    atomicApplied h code addr len operand (some tag) f s
      = sendFab (answerPkt h 0x05 h.cls true (leBytes 8 tag) (s.readObj n off len)) (uncorrectable n off len s) := by
  simp [atomicApplied, leads, Place.poisoned, bad, Place.bytes]

end
end

section
variable {s : State} {addr n off w : Nat} {data : Bytes} (some_bytes : 0 < data.length) (most : data.length ≤ 256)
  (granule : addr / 256 = (addr + data.length - 1) / 256) (whole : data.length % w = 0) (aligned : addr % w = 0)
include some_bytes most granule whole aligned

theorem atomicFits_of_aligned : atomicFits w addr data.length = true := by
  simp [atomicFits, some_bytes, most, granule, whole, aligned]

theorem atomicAddInt_of_fits (h : FabHdr) (code : Nat) (s : State) : atomicAddInt h code w addr data s
    = atomicApplied h code addr data.length data none (fun old => eachElem w (fun a b => (a + b) % 256 ^ w) old data) s := by
  rw [atomicAddInt, if_pos (atomicFits_of_aligned some_bytes most granule whole aligned)]

theorem atomicAddFloat_of_fits (h : FabHdr) (code : Nat) (f : FFmt) (s : State) : atomicAddFloat h code w f addr data s
    = atomicApplied h code addr data.length data none (fun old => eachElem w (ieeeAdd f s.free) old data) { s with free := s.free + 1 } := by
  rw [atomicAddFloat, if_pos (atomicFits_of_aligned some_bytes most granule whole aligned)]

end

/-- An operand of wrong length or alignment does not fit. -/
theorem atomicFits_of_unaligned {w addr n : Nat} (wrong : n % w ≠ 0 ∨ addr % w ≠ 0) : atomicFits w addr n = false := by
  rcases wrong with length | aligned
  · simp [atomicFits, length]
  · simp [atomicFits, aligned]

/-- What an elementwise atomic leaves: each element is the function of the old one and the operand's, and no other byte changes. -/
theorem elements_written {s t : State} {n : Nat} {o : Obj} (here : s.obj n = some o) (canonical : o.data.wf = true) {w off : Nat} (some_bytes : 0 < w)
    {f : Nat → Nat → Nat} {data : Bytes} (whole : data.length % w = 0)
    (written : t = s.writeObj n off (eachElem w f (s.readObj n off data.length) data)) :
    (∀ k, w * k + w ≤ data.length →
      fld (t.readObj n off data.length) (w * k) w = f (fld (s.readObj n off data.length) (w * k) w) (fld data (w * k) w) % 256 ^ w)
    ∧ (∀ j, j < off ∨ off + data.length ≤ j → t.readObj n j 1 = s.readObj n j 1) ∧ ∀ m j k, m ≠ n → t.readObj m j k = s.readObj m j k := by
  have length := eachElem_length f (s.readObj n off data.length) whole
  have back := readObj_writeObj_same here canonical off (eachElem w f (s.readObj n off data.length) data)
  rw [length, ← written] at back
  refine ⟨fun k within => ?element, fun j outside => ?outside, fun m j k other => ?object⟩
  case element => rw [back, fld_eachElem some_bytes f _ within]
  case outside =>
    rw [written]
    exact readObj_writeObj_outside here canonical (by rwa [length])
  case object =>
    rw [written]
    exact readObj_writeObj_other other s off _ j k

/-- A sum taken modulo 256 ^ w before it is stored is stored as it is. -/
theorem elements_added {s t : State} {n : Nat} {o : Obj} (here : s.obj n = some o) (canonical : o.data.wf = true) {w off : Nat} (some_bytes : 0 < w)
    {data : Bytes} (whole : data.length % w = 0)
    (written : t = s.writeObj n off (eachElem w (fun a b => (a + b) % 256 ^ w) (s.readObj n off data.length) data)) :
    (∀ k, w * k + w ≤ data.length →
      fld (t.readObj n off data.length) (w * k) w = (fld (s.readObj n off data.length) (w * k) w + fld data (w * k) w) % 256 ^ w)
    ∧ (∀ j, j < off ∨ off + data.length ≤ j → t.readObj n j 1 = s.readObj n j 1) ∧ ∀ m j k, m ≠ n → t.readObj m j k = s.readObj m j k := by
  obtain ⟨element, frame⟩ := elements_written here canonical some_bytes whole written
  exact ⟨fun k within => by rw [element k within, Nat.mod_mod], frame⟩

section
variable {h : FabHdr} {tag addr : Nat} {data : Bytes} {s : State} (aligned : addr % 8 = 0)
include aligned

theorem pktEffect_atomicCas (length : data.length = 16) : pktEffect (.atomicCas h tag addr data) s
    = atomicApplied h 6 addr 8 data (some tag) (fun old => if old = data.take 8 then data.drop 8 else old) s := if_pos ⟨length, aligned⟩

theorem pktEffect_atomicSwap (length : data.length = 8) (plain : s.dirAt addr = none) :
    pktEffect (.atomicSwap h tag addr data) s = atomicApplied h 5 addr 8 data (some tag) (fun _ => data) s := by
  rw [pktEffect, atomicSwapped, if_pos ⟨length, aligned⟩, plain]

end

/-! ## The obligations -/

/-- Settles O46: a write reads back, and what it does not reach reads as before, by the canonical form of the object's bytes. -/
theorem objectWrites : Obligations.ObjectWrites := by
  intro s n off bs o here canonical
  exact ⟨readObj_writeObj_same here canonical off bs, fun j outside => readObj_writeObj_outside here canonical outside,
    fun m j k other => readObj_writeObj_other other s off bs j k⟩

/-- Settles O48: an atomic that fits is one read-modify-write of its granule, which fails where that is poisoned; one that does not fit is dropped. -/
theorem atomicResults : Obligations.AtomicResults := by
  intro s h addr n off tag data o here canonical old answer others
  refine ⟨fun leads sound some_bytes most granule => ?adds, fun leads sound aligned length => ?cas, fun leads sound aligned length plain => ?swap,
    fun leads bad some_bytes most granule aligned whole => ?addsFail, fun leads bad aligned => ?fail, fun wrong => ?misfit, fun wrong => ?casMisfit⟩
  case adds =>
    refine ⟨fun whole aligned => ?i32, fun whole aligned => ?i64, fun whole aligned => ?f32, fun whole aligned => ?bf16⟩
    case i32 =>
      exact elements_added here canonical (by decide) whole
        ((atomicAddInt_of_fits some_bytes most granule whole aligned h 1 s).trans (atomicApplied_of_sound leads sound ..))
    case i64 =>
      exact elements_added here canonical (by decide) whole
        ((atomicAddInt_of_fits some_bytes most granule whole aligned h 2 s).trans (atomicApplied_of_sound leads sound ..))
    case f32 =>
      exact elements_written (s := { s with free := s.free + 1 }) here canonical (by decide) whole
        ((atomicAddFloat_of_fits some_bytes most granule whole aligned h 3 fmtF32 s).trans (atomicApplied_of_sound (s := { s with free := s.free + 1 }) leads sound ..))
    case bf16 =>
      exact elements_written (s := { s with free := s.free + 1 }) here canonical (by decide) whole
        ((atomicAddFloat_of_fits some_bytes most granule whole aligned h 4 fmtBF16 s).trans (atomicApplied_of_sound (s := { s with free := s.free + 1 }) leads sound ..))
  case cas =>
    have compared : ∀ new, (if old = data.take 8 then data.drop 8 else old) = new → pktEffect (.atomicCas h tag addr data) s = answer (s.writeObj n off new) := by
      rintro new rfl
      exact (pktEffect_atomicCas aligned length).trans (atomicApplied_answer_of_sound leads sound ..)
    refine ⟨fun equal => compared _ (if_pos equal), fun unequal => ⟨compared _ (if_neg unequal), ?_⟩⟩
    rw [compared _ (if_neg unequal)]
    exact ⟨fun j _ => readObj_writeObj_back here canonical off 8 j, fun m j k other => readObj_writeObj_other other s off old j k⟩
  case swap =>
    exact (pktEffect_atomicSwap aligned length plain).trans (atomicApplied_answer_of_sound leads sound ..)
  case addsFail =>
    have part : ∀ {w a : Nat}, w ∣ 8 → a % 8 = 0 → a % w = 0 := fun divides eighth =>
      Nat.mod_eq_zero_of_dvd (Nat.dvd_trans divides (Nat.dvd_of_mod_eq_zero eighth))
    have ints : ∀ {code w : Nat}, w ∣ 8 → atomicAddInt h code w addr data s = uncorrectable n off data.length s := fun divides =>
      (atomicAddInt_of_fits some_bytes most granule (part divides whole) (part divides aligned) ..).trans (atomicApplied_of_poisoned leads bad ..)
    have floats : ∀ {code w : Nat} {f : FFmt}, w ∣ 8 →
        atomicAddFloat h code w f addr data s = uncorrectable n off data.length { s with free := s.free + 1 } := fun divides =>
      (atomicAddFloat_of_fits some_bytes most granule (part divides whole) (part divides aligned) ..).trans
        (atomicApplied_of_poisoned (s := { s with free := s.free + 1 }) leads bad ..)
    exact ⟨ints (by decide), ints (by decide), floats (by decide), floats (by decide)⟩
  case fail =>
    exact ⟨fun length => (pktEffect_atomicCas aligned length).trans (atomicApplied_answer_of_poisoned leads bad ..),
      fun length plain => (pktEffect_atomicSwap aligned length plain).trans (atomicApplied_answer_of_poisoned leads bad ..)⟩
  case misfit =>
    have misfit : atomicFits 4 addr data.length = false := atomicFits_of_unaligned wrong
    exact ⟨by rw [pktEffect, atomicAddInt, misfit, if_neg Bool.false_ne_true], by rw [pktEffect, atomicAddFloat, misfit, if_neg Bool.false_ne_true]⟩
  case casMisfit => exact if_neg (by omega)

end Sys2Proof.Proofs

namespace Sys2Proof.Proofs

/-! The fabric's links and packets: delivery in a pair's order (R319, R320, R326), the lanes of a link (R313, R329, R330), and its control flits (log entry 21). -/

open Sys2Proof Sys2Proof.Machine Sys2Proof.Laws

/-! ## Delivery in a pair's order (R319, R320, R326) -/

/-- Every fabric packet with a PAIR_SEQ is received, and does then what its TYPE does. -/
theorem exec_of_fabHdr {i : Instr} {h : FabHdr} (packet : fabHdr i = some h) (s : State) : exec i s = act (whenUp (receive h i)) s := by
  unfold fabHdr at packet
  split at packet
  all_goals cases packet
  all_goals rfl

section
variable {h : FabHdr} {s : State}

theorem receive_of_not_mine (elsewhere : s.fabric.joined = false ∨ (h.mcast = false ∧ h.dst ≠ s.self)) (i : Instr) : receive h i s = s := by
  rw [receive, if_pos]
  rcases elsewhere with standalone | ⟨unicast, other⟩
  · simp [standalone]
  · simp [unicast, other]

theorem receive_of_multicast (joined : s.fabric.joined = true) (multicast : h.mcast = true) (i : Instr) : receive h i s = pktEffect i s := by
  rw [receive, if_neg (by simp [joined, multicast]), if_pos multicast]

/-- How far ahead of its turn a packet is, modulo 2^16 (R320). -/
def ahead (h : FabHdr) (s : State) : Nat := (h.pairSeq + 65536 - s.nextSeq h.src) % 65536

section
variable (joined : s.fabric.joined = true) (unicast : h.mcast = false) (mine : h.dst = s.self)
include joined unicast mine

theorem receive_of_mine (i : Instr) : receive h i s =
    if ahead h s = 0 then sendAck h (releaseHeld h.src s.fabric.held.length (pktEffect i (s.taken h)))
    else if ahead h s < pairWindow then
      if s.fabric.held.any (fun p => p.src == h.src && p.pairSeq == h.pairSeq) then s
      else s.setFabric fun f => { f with held := f.held ++ [⟨h.src, h.pairSeq, i⟩] }
    else sendAck h s := by
  rw [receive, if_neg (by simp [joined, unicast, mine]), if_neg (by simp [unicast])]
  rfl

end
end

/-! ## Lanes (R313, R329) -/

section
variable {l : Link}

theorem settle_of_four (good : 4 ≤ l.good.length) : l.settle.state = .up4 ∧ l.settle.lanes = (l.good.take 4).foldl (fun a i => a + 2 ^ i) 0 := by
  have length : (l.good.take 4).length = 4 := by rw [List.length_take, Nat.min_eq_left good]
  rw [Link.settle, if_pos good]
  exact ⟨if_pos length, rfl⟩

theorem settle_of_two (good : 2 ≤ l.good.length) (few : l.good.length < 4) :
    l.settle.state = .up2 ∧ l.settle.lanes = (l.good.take 2).foldl (fun a i => a + 2 ^ i) 0 := by
  have length : (l.good.take 2).length = 2 := by rw [List.length_take, Nat.min_eq_left good]
  rw [Link.settle, if_neg (Nat.not_le.mpr few), if_pos good]
  exact ⟨(if_neg (by omega)).trans (if_pos length), rfl⟩

theorem settle_of_fewer (few : l.good.length < 2) : l.settle.state = .down ∧ l.settle.lanes = 0 := by
  have none_in_use : (if 4 ≤ l.good.length then l.good.take 4 else if 2 ≤ l.good.length then l.good.take 2 else []) = [] := by
    rw [if_neg (Nat.not_le.mpr (Nat.lt_trans few (by decide))), if_neg (Nat.not_le.mpr few)]
  rw [Link.settle, none_in_use]
  exact ⟨rfl, rfl⟩

end

section
variable {s : State} {k : Nat}

theorem exec_laneErrorReport (up : s.up = true) (lane : Nat) (failed : Bool) :
    exec (.laneErrorReport k lane failed) s = .next (leaves s (laneReport k lane failed s)) := act_whenUp up (laneReport k lane failed)

theorem exec_flitReplay (up : s.up = true) : exec (.flitReplay k) s = .next (leaves s (flitReplayed k s)) := act_whenUp up (flitReplayed k)

theorem exec_linkLatencyMeasure (up : s.up = true) (ns : Nat) :
    exec (.linkLatencyMeasure k ns) s = .next (leaves s (s.setLink k fun l => if l.isUp then { l with latency := ns } else l)) :=
  act_whenUp up fun s => s.setLink k fun l => if l.isUp then { l with latency := ns } else l

theorem exec_linkTrained (up : s.up = true) (lanes lat hall member pl : Nat) (ok : Bool) :
    exec (.linkTrained k lanes lat hall member pl ok) s = .next (leaves s (linkTrained k lanes lat hall member pl ok s)) :=
  act_whenUp up (linkTrained k lanes lat hall member pl ok)

theorem exec_linkControlFlit (up : s.up = true) (kind v : Nat) : exec (.linkControlFlit k kind v) s = .next (leaves s (linkControl k kind v s)) :=
  act_whenUp up (linkControl k kind v)

/-- Changing a link into what it already is changes nothing. -/
theorem setLink_of_same {f : Link → Link} (same : f (s.fabric.links.getD k {}) = s.fabric.links.getD k {}) : s.setLink k f = s := by
  rw [State.setLink, modifyAt_same s.fabric.links {} k f fun _ => same]

/-- The link with a lane more among those that failed. -/
def laneCut (lane : Nat) (l : Link) : Link := { l with failedLanes := l.failedLanes ++ [lane] }

variable {lane : Nat}

theorem laneFails_of_not_carried (cause : Nat) (idle : 5 ≤ lane ∨ (s.fabric.links.getD k {}).failedLanes.contains lane = true ∨ (s.fabric.links.getD k {}).isUp = false) :
    laneFails k lane cause s = s := by
  rw [laneFails, if_pos idle]

section
variable (here : lane < 5) (healthy : (s.fabric.links.getD k {}).failedLanes.contains lane = false) (isUp : (s.fabric.links.getD k {}).isUp = true) (cause : Nat)
include here healthy isUp

theorem laneFails_of_healthy : laneFails k lane cause s =
    if 4 ≤ (laneCut lane (s.fabric.links.getD k {})).good.length ∧ bit (s.fabric.links.getD k {}).lanes lane = true then
      s.setLink k fun _ => { laneCut lane (s.fabric.links.getD k {}) with swapLane := some lane }
    else if bit (s.fabric.links.getD k {}).lanes lane then
      event 5 (if (laneCut lane (s.fabric.links.getD k {})).good.length < 2 then "LINK_DOWN" else "LINK_NARROWED") 0xFF k
        (recordRepair 8 cause (linkUnit k lane) 0xFFFFFFFF 0
          (routesStale (s.setLink k fun _ => { laneCut lane (s.fabric.links.getD k {}) with swapLane := none }.settle)))
    else s.setLink k fun _ => laneCut lane (s.fabric.links.getD k {}) := by
  rw [laneFails, if_neg]
  · rfl
  · rw [healthy, isUp]
    simp [here]

theorem laneFails_of_spare (spare : bit (s.fabric.links.getD k {}).lanes lane = false) :
    laneFails k lane cause s = s.setLink k fun _ => laneCut lane (s.fabric.links.getD k {}) := by
  rw [laneFails_of_healthy here healthy isUp, spare, if_neg (by simp), if_neg Bool.false_ne_true]

variable (carries : bit (s.fabric.links.getD k {}).lanes lane = true)
include carries

theorem laneFails_of_four (four : 4 ≤ (laneCut lane (s.fabric.links.getD k {})).good.length) :
    laneFails k lane cause s = s.setLink k fun _ => { laneCut lane (s.fabric.links.getD k {}) with swapLane := some lane } := by
  rw [laneFails_of_healthy here healthy isUp, if_pos ⟨four, carries⟩]

theorem laneFails_of_fewer (fewer : (laneCut lane (s.fabric.links.getD k {})).good.length < 4) : laneFails k lane cause s =
    event 5 (if (laneCut lane (s.fabric.links.getD k {})).good.length < 2 then "LINK_DOWN" else "LINK_NARROWED") 0xFF k
      (recordRepair 8 cause (linkUnit k lane) 0xFFFFFFFF 0
        (routesStale (s.setLink k fun _ => { laneCut lane (s.fabric.links.getD k {}) with swapLane := none }.settle))) := by
  rw [laneFails_of_healthy here healthy isUp, if_neg fun four => Nat.not_le.mpr fewer four.1, if_pos carries]

end

/-- A replay counted on its link and for the module, the eighth in a row starting a new count (R313). -/
def replayCounted (k : Nat) (s : State) : State :=
  (s.setLink k fun l => { l with replays := satAdd l.replays 1, consecutive := if l.consecutive = 7 then 0 else l.consecutive + 1 }).setFabric fun f =>
    { f with flitReplay := satAdd f.flitReplay 1 }

theorem flitReplayed_of_up (isUp : (s.fabric.links.getD k {}).isUp = true) : flitReplayed k s =
    if (s.fabric.links.getD k {}).consecutive = 7 then
      event 5 "LINK_RETRAIN" 0xFF k (((replayCounted k s).setLink k Link.settle).setFabric fun f => { f with linkRetrain := satAdd f.linkRetrain 1 })
    else replayCounted k s := by
  rw [flitReplayed, if_pos isUp]
  rfl

theorem flitReplayed_of_down (down : (s.fabric.links.getD k {}).isUp = false) : flitReplayed k s = s := by
  rw [flitReplayed, down, if_neg Bool.false_ne_true]

theorem linkTrained_of_kept_out (out : (s.fabric.links.getD k {}).heldOut = true ∨ (s.fabric.links.getD k {}).state = .disabled)
    (lanes lat hall member pl : Nat) (ok : Bool) : linkTrained k lanes lat hall member pl ok s = s := by
  rw [linkTrained, if_pos (.inr out)]

/-- What training finds of a link, before its lanes are settled (R330). -/
def linkFound (lanes lat hall member pl : Nat) (l : Link) : Link :=
  { l with partner := member, partnerLink := pl, latency := lat, hallId := hall, consecutive := 0, advertised := []
           failedLanes := (List.range 5).filter fun i => !bit lanes i }

section
variable (link : k < 36) (takes : (s.fabric.links.getD k {}).heldOut = false) (enabled : (s.fabric.links.getD k {}).state ≠ .disabled)
include link takes enabled

theorem linkTrained_of_enabled (lanes lat hall member pl : Nat) (ok : Bool) : linkTrained k lanes lat hall member pl ok s =
    routesStale (s.setLink k fun _ => if !ok || (s.hall != 0 && hall != s.hall) then
      { linkFound lanes lat hall member pl (s.fabric.links.getD k {}) with state := .refused, lanes := 0 }
    else (linkFound lanes lat hall member pl (s.fabric.links.getD k {})).settle) := by
  rw [linkTrained, if_neg]
  · rfl
  · rintro (far | out | disabled)
    · exact absurd far (Nat.not_le.mpr link)
    · exact Bool.false_ne_true (takes.symm.trans out)
    · exact enabled disabled

theorem linkTrained_of_foreign {ok : Bool} {hall : Nat} (foreign : ok = false ∨ (s.hall ≠ 0 ∧ hall ≠ s.hall)) (lanes lat member pl : Nat) :
    linkTrained k lanes lat hall member pl ok s
      = routesStale (s.setLink k fun _ => { linkFound lanes lat hall member pl (s.fabric.links.getD k {}) with state := .refused, lanes := 0 }) := by
  rw [linkTrained_of_enabled link takes enabled, if_pos (by simpa using foreign)]

theorem linkTrained_of_own {hall : Nat} (own : s.hall = 0 ∨ hall = s.hall) (lanes lat member pl : Nat) :
    linkTrained k lanes lat hall member pl true s
      = routesStale (s.setLink k fun _ => (linkFound lanes lat hall member pl (s.fabric.links.getD k {})).settle) := by
  have notForeign : (!true || (s.hall != 0 && hall != s.hall)) = false := by
    rcases own with anyHall | same
    · simp [anyHall]
    · simp [same]
  rw [linkTrained_of_enabled link takes enabled, if_neg (Bool.eq_false_iff.mp notForeign)]

end

theorem linkControl_of_down (down : ((flitIntact k s).fabric.links.getD k {}).isUp = false) (kind v : Nat) : linkControl k kind v s = flitIntact k s :=
  if_neg (Bool.eq_false_iff.mp down)

/-- What a control flit of each kind does on a link that is up (DESIGN CHOICE, log entry 21). -/
def linkControlled (k kind v : Nat) (t : State) : State :=
  match kind with
  | 0 => routesStale (t.setLink k fun l => { l with state := .training, lanes := 0 })
  | 1 => routesStale (t.setLink k fun l => { l with failedLanes := dedupBy id (l.failedLanes ++ (List.range 5).filter fun i => !bit v i) }.settle)
  | 2 => t.setLink k fun l => { l with latency := v }
  | _ => t

theorem linkControl_of_up (isUp : ((flitIntact k s).fabric.links.getD k {}).isUp = true) (kind v : Nat) :
    linkControl k kind v s = linkControlled k kind v (flitIntact k s) := if_pos isUp

end

/-! ## The obligations -/

/-- Settles O45: each packet is received, and `receive` goes by how far ahead of its turn it is. -/
theorem pairOrder : Obligations.PairOrder := by
  intro i h s packet up ahead
  rw [exec_of_fabHdr packet, act_whenUp up]
  refine ⟨fun joined multicast => ?multicast, fun joined unicast mine next => ?next, fun joined unicast mine early window => ?early,
    fun joined unicast mine duplicate => ?duplicate, fun elsewhere => ?elsewhere⟩
  case multicast => rw [receive_of_multicast joined multicast]
  case next => rw [(receive_of_mine joined unicast mine i).trans (if_pos next)]
  case early =>
    have held := (receive_of_mine joined unicast mine i).trans ((if_neg (Nat.ne_of_gt early)).trans (if_pos window))
    exact ⟨fun first => by rw [held, first, if_neg Bool.false_ne_true], fun again => by rw [held, if_pos again]⟩
  case duplicate =>
    have late : ahead ≠ 0 := Nat.ne_of_gt (Nat.lt_of_lt_of_le (by decide) duplicate)
    rw [(receive_of_mine joined unicast mine i).trans ((if_neg late).trans (if_neg (Nat.not_lt.mpr duplicate)))]
  case elsewhere => rw [receive_of_not_mine elsewhere]

/-- Settles O51: each report is its operation on the link, whose cases are those of its definition. -/
theorem laneRules : Obligations.LaneRules := by
  refine ⟨fun l => ⟨settle_of_four, settle_of_two, settle_of_fewer⟩, fun s k lane up => ?_⟩
  intro l cut
  refine ⟨exec_laneErrorReport up lane false, fun here healthy isUp spare => ?spare, fun idle => ?idle, fun down => ⟨?downReplay, fun ns => ?downLatency⟩,
    fun here healthy isUp carries => ⟨fun four => ?swapped, fun fewer => ?narrowed⟩, fun isUp few => ?replay, fun isUp eighth => ?retrain,
    fun ns _ => exec_linkLatencyMeasure up ns, fun lanes lat hall member pl ok link => ⟨fun out => ?keptOut, fun takes enabled foreign => ?foreign, fun takes enabled good own => ?own⟩⟩
  case spare => rw [exec_laneErrorReport up, laneReport, if_pos rfl, laneFails_of_spare here healthy isUp 3 spare, laneCut]
  case idle => rw [exec_laneErrorReport up, laneReport, if_pos rfl, laneFails_of_not_carried 3 idle]
  case downReplay => rw [exec_flitReplay up, flitReplayed_of_down down]
  case downLatency =>
    have kept := setLink_of_same (f := fun l => if l.isUp then { l with latency := ns } else l) (if_neg (Bool.eq_false_iff.mp down))
    rw [exec_linkLatencyMeasure up, kept]
  case swapped => rw [exec_laneErrorReport up, laneReport, if_pos rfl, laneFails_of_four here healthy isUp 3 carries four, laneCut]
  case narrowed => 
    rw [exec_laneErrorReport up, laneReport, if_pos rfl, laneFails_of_fewer here healthy isUp 3 carries fewer]
    rfl
  case replay => rw [exec_flitReplay up, flitReplayed_of_up isUp, if_neg few, replayCounted]
  case retrain => rw [exec_flitReplay up, flitReplayed_of_up isUp, if_pos eighth, replayCounted]
  case keptOut => rw [exec_linkTrained up, linkTrained_of_kept_out out]
  case foreign => rw [exec_linkTrained up, linkTrained_of_foreign link takes enabled foreign, linkFound]
  case own => rw [exec_linkTrained up, good, linkTrained_of_own link takes enabled own, linkFound]

/-- Settles O52: a flit has come intact, and does on a link that is up what its kind says. -/
theorem linkControlFlits : Obligations.LinkControlFlits := by
  intro s k v up t l
  constructor
  · intro isUp
    have control : ∀ kind, exec (.linkControlFlit k kind v) s = .next (leaves s (linkControlled k kind v t)) := fun kind =>
      next_leaves_of_eq (exec_linkControlFlit up kind v) (linkControl_of_up isUp kind v)
    refine ⟨fun kind unknown => ?_, control 0, control 1, control 2⟩
    match kind, unknown with
    | n + 3, _ => exact control (n + 3)
  · intro down kind
    exact next_leaves_of_eq (exec_linkControlFlit up kind v) (linkControl_of_down down kind v)

end Sys2Proof.Proofs

namespace Sys2Proof.Proofs

/-! Command packets as they take hold: tables and kernels (R208, R223, R227, R229, R247, R249), regions and windows (R341–R344, R352), telemetry (R385, R388–R390),
and evidence (R379, R384). -/

open Sys2Proof Sys2Proof.Machine Sys2Proof.Laws

/-! ## Tables and kernels -/

theorem tables_of_sameWork {s t : State} (same : s.sameWork t) : t.tables = s.tables := by simp_all [State.sameWork]

@[simp] theorem chargeObj_tables (o : Obj) (s : State) : (chargeObj o s).tables = s.tables :=
  tables_of_sameWork (foldl_sameWork _ (fun t _ => setPort_sameWork _ _ t) _ s)

@[simp] theorem createObj_tables (mk : Nat → Nat → Obj) (s : State) : (createObj mk s).2.tables = s.tables := by
  rw [createObj, State.setMem_tables, chargeObj_tables, takeNumber, State.setMem_tables]

@[simp] theorem createRegions_tables (l : List (Option Obj)) (s : State) : (createRegions l s).2.tables = s.tables := by
  induction l generalizing s with
  | nil => rfl
  | cons region rest ih =>
    cases region with
    | none => exact ih s
    | some o => exact (ih _).trans (createObj_tables _ s)

/-- A table that is made joins the module's tables (R247). -/
theorem makeTable_tables (q : Pkt) (t : State) : (makeTable q t).2.tables = t.tables ++ [(makeTable q t).1] := by
  simp [makeTable, takeNumber]

theorem holdTableDefine_of_accepted {c : Cmd} {s : State} (accepted : tableRefused c.q s = none) :
    holdTableDefine c s = (startJob c (.fillTable (makeTable c.q { s with free := s.free + 2 }).1.num) [] (makeTable c.q { s with free := s.free + 2 }).2).1 := by
  rw [holdTableDefine, accepted]

/-- The kernel of a load that is accepted, audited and answered with its largest bound (R223, R227, R229). -/
def kernelLoaded (q : Pkt) (c : Cmd) (t : State) : State :=
  let k := loadedKernel q t
  let h := kHead k.image
  let u := auditKernel q k.digest h.bundles k.clusters (chargeQuota q.access 5 (h.bundles * h.clusters) t)
  finish c (okDone (k.bounds.foldl max 0) (reportLoad q (loadReport k.digest none k.clusters k.bounds u.free)))
    { u with kernels := u.kernels ++ [k], nextId := u.nextId + 1, free := u.free + k.bounds.length }

theorem holdKernelLoad_of_accepted {c : Cmd} {s : State} (accepted : loadRefused c.q s = none) : holdKernelLoad c s = kernelLoaded c.q c s := by
  rw [holdKernelLoad, accepted]
  rfl

theorem holdKernelUnload_of_loaded {c : Cmd} {s : State} {k : Kernel} (loaded : s.loaded (handleSlot c.q.handle) = some k) :
    holdKernelUnload c s = finish c (okDone 0) (unloadKernel k.slot (auditKernel c.q k.digest (kHead k.image).bundles k.clusters s)) := by
  rw [holdKernelUnload, loaded]

/-! ## Regions and windows (R341–R344, R352) -/

section
variable {q : Pkt} {c : Cmd} (packet : c.q = q) {s : State} {n : Nat}
include packet

theorem holdRegionRegister_region (form : fld q.params 0 1 = 0) (apart : s.regions.any (fun r => r.overlaps q.access (fld q.params 8 8) (fld q.params 16 8)) = false)
    (lowest : lowestFree ((s.regions.filter fun r => r.port == q.access && decide (r.number < 4094)).map Region.number) 4094 = some n) :
    holdRegionRegister c s = finish c (okDone n) { s with regions := s.regions ++
      [{ port := q.access, number := n, base := fld q.params 8 8, bytes := fld q.params 16 8
         owned := if fld q.params 1 1 = 1 then List.range (fld q.params 16 8 / 4096) else [] }] } := by
  subst packet
  simp only [holdRegionRegister, form, registerRegion, apart, lowest, Bool.false_eq_true, if_false]

theorem holdRegionRegister_window {o : Obj} (form : fld q.params 0 1 = 1) (own : s.ownObj q.access (fld q.params 4 4) = some o) (tier : o.tier ≠ 2)
    (together : o.spread = 0) (inside : fld q.params 8 8 + fld q.params 16 8 ≤ o.pages * 65536) (aperture : fld q.params 24 8 + fld q.params 16 8 ≤ 64 * 2 ^ 30)
    (apart : s.windows.any (fun w => w.port == q.access && decide (w.aperture < fld q.params 24 8 + fld q.params 16 8)
      && decide (fld q.params 24 8 < w.aperture + w.bytes)) = false)
    (lowest : lowestFree ((s.windows.filter fun w => w.port == q.access).map Window.number) 64 = some n) :
    holdRegionRegister c s = finish c (okDone n) { s with windows := s.windows ++
      [⟨q.access, n, o.num, fld q.params 8 8, fld q.params 16 8, fld q.params 24 8,
        (List.range 4).filterMap fun i => if fld q.params (32 + 4 * i + 2) 2 = 0 then none
          else some (fld q.params (32 + 4 * i) 2, fld q.params (32 + 4 * i + 2) 2)⟩] } := by
  subst packet
  have placed : ¬(o.tier = 2 ∨ o.spread ≠ 0) := by simp [tier, together]
  have room : ¬(64 * 2 ^ 30 < fld c.q.params 24 8 + fld c.q.params 16 8 ∨ (s.windows.any fun w => w.port == c.q.access
      && decide (w.aperture < fld c.q.params 24 8 + fld c.q.params 16 8) && decide (fld c.q.params 24 8 < w.aperture + w.bytes)) = true) := by
    rw [apart]
    exact fun h => h.elim (Nat.not_lt.mpr aperture) Bool.false_ne_true
  simp only [holdRegionRegister, form, openWindow, own]
  rw [if_neg placed, if_neg (Nat.not_lt.mpr inside), if_neg room, lowest]

theorem holdRegionRegister_bias {r : Region} (form : fld q.params 0 1 = 2) (number : n = fld q.params 2 2)
    (here : s.regions.find? (fun r => r.port == q.access && r.number == n) = some r) (inside : fld q.params 8 8 + fld q.params 16 8 ≤ r.bytes)
    (clear : fld q.params 1 1 = 1 → (s.port q.access).areas.any (fun a => decide (a.1 < r.base + fld q.params 8 8 + fld q.params 16 8)
      && decide (r.base + fld q.params 8 8 < a.1 + a.2)) = false) :
    holdRegionRegister c s = finish c (okDone 0)
      (let pages := (List.range (fld q.params 16 8 / 4096)).map (· + fld q.params 8 8 / 4096)
       { s with regions := modifyIf s.regions (fun x => x.port == q.access && x.number == n) fun x => { x with
          owned := if fld q.params 1 1 = 1 then (r.owned.filter fun i => !pages.contains i) ++ pages else r.owned.filter fun i => !pages.contains i } }) := by
  subst packet number
  have free : ¬(fld c.q.params 1 1 = 1 ∧ ((s.port c.q.access).areas.any fun a => decide (a.1 < r.base + fld c.q.params 8 8 + fld c.q.params 16 8)
      && decide (r.base + fld c.q.params 8 8 < a.1 + a.2)) = true) := fun h => Bool.false_ne_true ((clear h.1).symm.trans h.2)
  simp only [holdRegionRegister, form, setBias, here]
  rw [if_neg (Nat.not_lt.mpr inside), if_neg free]

theorem holdRegionRegister_confirm (form : fld q.params 0 1 = 3) (number : n = fld q.params 2 2)
    (here : s.regions.any (fun r => r.port == q.access && r.number == n) = true) :
    holdRegionRegister c s = finish c (okDone 0)
      { s with regions := modifyIf s.regions (fun x => x.port == q.access && x.number == n) fun x => { x with suspended := false } } := by
  subst packet number
  simp only [holdRegionRegister, form, confirmRegion, here, if_true]

theorem holdRegionRelease_window (form : fld q.params 0 1 = 1) (number : n = fld q.params 2 2)
    (here : s.windows.any (fun w => w.port == q.access && w.number == n) = true) :
    holdRegionRelease c s = finish c (okDone 0) { s with windows := s.windows.filter fun w => !(w.port == q.access && w.number == n) } := by
  subst packet number
  simp only [holdRegionRelease, form, here, if_true]

/-- A region released, the command streams of its port that lie in it faulted (R343, R352). -/
def regionReleased (q : Pkt) (n : Nat) (r : Region) (t : State) : State :=
  let hit := (List.range 4).filter fun i => match ((t.port q.access).cmds.getD i {}).area with
    | some a => r.overlaps q.access a.1 a.2
    | none => false
  let u := hit.foldl (fun u i => faultStream q.access i 1 0 u) t
  { u with regions := u.regions.filter fun x => !(x.port == q.access && x.number == n) }

theorem holdRegionRelease_region {r : Region} (form : fld q.params 0 1 ≠ 1) (number : n = fld q.params 2 2)
    (here : s.regions.find? (fun r => r.port == q.access && r.number == n) = some r)
    (unused : s.channels.any (fun ch => ch.state == .live && ch.port == q.access && ch.sinkBase != 0 && r.holds q.access ch.sinkBase ch.sinkBytes) = false) :
    holdRegionRelease c s = finish c (okDone 0) (regionReleased q n r s) := by
  subst packet number
  simp only [holdRegionRelease, if_neg form, here, unused, Bool.false_eq_true, if_false]
  rfl

end

/-! ## The obligations -/

/-- Settles O14: each packet does what its opcode's act does, and the act of one that is accepted takes its last branch. -/
theorem tableAndKernelPackets : Obligations.TableAndKernelPackets := by
  intro s q
  refine ⟨fun holds accepted => ⟨?define, fun t => ⟨rfl, rfl, rfl, rfl, rfl, rfl, makeTable_tables q t⟩⟩, fun holds accepted => ?load, fun k holds loaded => ?unload⟩
  case define => exact leaves_of_act (exec_of_takesHold rfl holds (by decide) rfl rfl) (holdTableDefine_of_accepted accepted)
  case load => exact leaves_of_act (exec_of_takesHold rfl holds (by decide) rfl rfl) (holdKernelLoad_of_accepted accepted)
  case unload => exact answers_of_act (exec_of_takesHold rfl holds (by decide) rfl rfl) (holdKernelUnload_of_loaded loaded)

/-- Settles O16: each form of the two packets is a branch of its act. -/
theorem regionPackets : Obligations.RegionPackets := by
  intro s q n
  refine ⟨fun holds => ?register, fun holds number => ?release⟩
  case register =>
    have run := exec_of_takesHold (i := .regionRegister q) rfl holds (by decide) rfl rfl
    exact ⟨fun form apart lowest => answers_of_act run (holdRegionRegister_region rfl form apart lowest),
      fun o form own tier together inside aperture apart lowest =>
        answers_of_act run (holdRegionRegister_window rfl form own tier together inside aperture apart lowest),
      fun r form number here inside clear => answers_of_act run (holdRegionRegister_bias rfl form number here inside clear),
      fun form number here => answers_of_act run (holdRegionRegister_confirm rfl form number here)⟩
  case release =>
    have run := exec_of_takesHold (i := .regionRelease q) rfl holds (by decide) rfl rfl
    exact ⟨fun form here => answers_of_act run (holdRegionRelease_window rfl form number here),
      fun r form here unused => answers_of_act run (holdRegionRelease_region rfl form number here unused)⟩

/-- Settles O19: the three packets answer what their acts answer. -/
theorem telemetryPackets : Obligations.TelemetryPackets := by
  intro s q
  refine ⟨fun holds => ?log, fun holds => ?counters, fun holds => ?alarm⟩
  case log => exact answers_of_act (exec_of_takesHold rfl holds (by decide) rfl rfl) rfl
  case counters => exact answers_of_act (exec_of_takesHold rfl holds (by decide) rfl rfl) rfl
  case alarm => exact answers_of_act (exec_of_takesHold rfl holds (by decide) rfl rfl) rfl

/-- Settles O21: the two packets answer what their acts answer. -/
theorem evidencePackets : Obligations.EvidencePackets := by
  intro s q
  refine ⟨fun holds => ?attest, fun holds => ?audit⟩
  case attest => exact answers_of_act (exec_of_takesHold rfl holds (by decide) rfl rfl) rfl
  case audit => exact answers_of_act (exec_of_takesHold rfl holds (by decide) rfl rfl) rfl

end Sys2Proof.Proofs

namespace Sys2Proof.Proofs

/-! Power and the start: what acts on a module without power (R354, R367, R395, R396), what its loss leaves (R370, R395–R397, R401), what starts it (R354, R357, R375,
R396, R397), the steps that end a start (R354, R355, R359), and the rollback count (R373). -/

open Sys2Proof Sys2Proof.Machine Sys2Proof.Laws

/-! ## A module without power (R354, R367, R395, R396) -/

/-- A command that is no power pin's, no packet and no message of the management bus acts on a running module alone. -/
theorem exec_of_powered {i : Instr} (power : powerCommand i = false) (bus : busCommand i = false) (row : packetOf i = none) :
    ∃ f : State → State, ∀ s, exec i s = act (whenUp f) s := by
  cases i
  all_goals cases power
  all_goals cases bus
  all_goals cases row
  all_goals exact ⟨_, fun _ => rfl⟩

/-- A message of the management bus acts while the management core serves the bus (R367). -/
theorem exec_of_busCommand {i : Instr} (bus : busCommand i = true) : ∃ f : State → State, ∀ s, exec i s = act (whenServed f) s := by
  cases i
  all_goals cases bus
  all_goals exact ⟨_, fun _ => rfl⟩

/-- Settles O6: a command that is no power pin's is a packet, a message of the management bus, or an act of the running module, and none acts. -/
theorem unpoweredModuleKeeps : Obligations.UnpoweredModuleKeeps := by
  intro i s power down unposted served
  cases row : packetOf i with
  | some packet =>
    obtain ⟨op, q⟩ := packet
    have unserved : (q.access == 8 && s.mgmtUp) = false := by
      cases answers : s.mgmtUp with
      | false => exact Bool.and_false _
      | true => simpa using (served answers).2 op q row
    rw [exec_of_packetOf row]
    exact act_packet_down op q s down unserved unposted
  | none =>
    cases bus : busCommand i with
    | true =>
      obtain ⟨f, exec_eq⟩ := exec_of_busCommand bus
      have unserved : s.mgmtUp = false := Bool.eq_false_iff.mpr fun answers => Bool.false_ne_true ((served answers).1.symm.trans bus)
      rw [exec_eq]
      exact act_unserved f s unserved unposted
    | false =>
      obtain ⟨f, exec_eq⟩ := exec_of_powered power bus row
      rw [exec_eq]
      exact act_down f s down unposted

/-! ## The loss of power (R370, R395–R397, R401) -/

theorem inputGone_of_input {s : State} (input : s.power.vinOk = true) : inputGone s = railsOff false (s.setPower fun w => { w with vinOk := false }) := by
  rw [inputGone, if_pos input]

theorem tripped_of_on {s : State} (on : s.power.on = true) :
    tripped s = (railsOff true s).setPower fun w => { w with tripLatch := true, thermtripN := false } := by
  rw [tripped, if_pos on]

theorem tripped_of_off {s : State} (off : s.power.on = false) : tripped s = s := by
  rw [tripped, off, if_neg Bool.false_ne_true]

section
variable {s : State} (input : s.power.vinOk = true)
include input

theorem exec_modEnFall : exec .modEnFall s = .next (leaves s (railsOff true (s.setPower fun w => { w with modEn := false }))) :=
  next_leaves_of_eq rfl (if_pos input)

theorem exec_modRstNLow : exec .modRstNLow s = .next (leaves s (railsOff true (s.setPower fun w => { w with modRstN := false }))) :=
  next_leaves_of_eq rfl (if_pos input)

end

/-- Settles O58: each command takes the rails off, which leaves what `powerless` and `Mgmt.kept` keep. -/
theorem railsOffLeaves : Obligations.RailsOffLeaves := by
  intro s gone
  refine ⟨fun input => ?input, fun on unit => ?trip, fun off unit => ?off⟩
  case input =>
    have gone_input : exec .vinRemoval s = .next (leaves s (railsOff false (s.setPower fun w => { w with vinOk := false }))) :=
      next_leaves_of_eq rfl (inputGone_of_input input)
    have lost : ∀ (present : Bool) (pins : Power → Power), gone (leaves s (railsOff present (s.setPower pins))) := fun present pins =>
      ⟨rfl, rfl, rfl, rfl, rfl, rfl, rfl, rfl, rfl, rfl, rfl, rfl, rfl, rfl, rfl, rfl⟩
    exact ⟨⟨_, exec_modEnFall input, lost true _, rfl, rfl, rfl⟩, ⟨_, exec_modRstNLow input, lost true _, rfl, rfl, rfl⟩,
      ⟨_, gone_input, lost false _, rfl, rfl, rfl⟩, ⟨_, gone_input, lost false _, rfl, rfl⟩, ⟨_, gone_input, lost false _, rfl, rfl⟩⟩
  case trip =>
    refine ⟨_, next_leaves_of_eq rfl (tripped_of_on on), ?_⟩
    exact ⟨⟨rfl, rfl, rfl, rfl, rfl, rfl, rfl, rfl, rfl, rfl, rfl, rfl, rfl, rfl, rfl, rfl⟩, rfl, rfl⟩
  case off => exact next_leaves_of_eq rfl (tripped_of_off off)

/-! ## What starts the module (R354, R357, R375, R396, R397) -/

section
variable {s : State} (f : StartFound)

/-- A module whose conditions for a start have changed starts where they all hold (R396, R397). -/
def startIfMay (f : StartFound) (s : State) : State := if s.mayStart then startUp 1 f s else s

theorem startIfMay_of_all (input : s.power.vinOk = true) (enabled : s.power.modEn = true) (released : s.power.modRstN = true) (off : s.power.on = false) :
    startIfMay f s = startUp 1 f s := by
  rw [startIfMay, if_pos (by simp [State.mayStart, input, enabled, released, off])]

theorem startIfMay_of_kept (kept : s.power.vinOk = false ∨ s.power.modEn = false ∨ s.power.modRstN = false ∨ s.power.on = true) : startIfMay f s = s := by
  rw [startIfMay, if_neg]
  rcases kept with h | h | h | h <;> simp [State.mayStart, h]

theorem exec_modEnRise (low : s.power.modEn = false) :
    exec (.modEnRise f) s = .next (leaves s (startIfMay f (s.setPower fun w => { w with modEn := true }))) :=
  next_leaves_of_eq rfl (if_neg (Bool.eq_false_iff.mp low))

theorem exec_modRstNRise (low : s.power.modRstN = false) :
    exec (.modRstNRise f) s = .next (leaves s (startIfMay f (s.setPower fun w => { w with modRstN := true }))) :=
  next_leaves_of_eq rfl (if_neg (Bool.eq_false_iff.mp low))

theorem exec_vinReturn (out : s.power.vinOk = false) :
    exec (.vinReturn f) s = .next (leaves s (startIfMay f (s.setPower fun w => { w with vinOk := true, pwrgd := false }))) :=
  next_leaves_of_eq rfl (if_neg (Bool.eq_false_iff.mp out))

theorem exec_fwActivateRestart (up : s.up = true) :
    exec (.fwActivateRestart f) s = .next (leaves s (if s.mgmt.restartPending.isSome then startUp 4 f s else s)) :=
  act_whenUp up fun s => if s.mgmt.restartPending.isSome then startUp 4 f s else s

/-- What a step that exceeds its watchdog is taken to have found: that it failed (R354). -/
def timedOut : StepFound := { pass := false, attempts := 1, unitsOut := 0, micros := 0, detail := 0 }

theorem watchdogEnds_of_running {k : Nat} (on : s.power.on = true) (starting : s.power.inStart = true) (step : s.power.startStep = k) (known : k < 11) :
    watchdogEnds k f s = if (runStep k timedOut f s).2 then runSteps 2 f ((List.range 11).drop (k + 1)) (runStep k timedOut f s).1
      else if (runStep k timedOut f s).1.power.on && (runStep k timedOut f s).1.power.inStart then startUp 2 f (runStep k timedOut f s).1
      else (runStep k timedOut f s).1 := by
  rw [watchdogEnds, if_neg (by simp [on, starting, step, known])]
  rfl

theorem watchdogEnds_of_idle {k : Nat} (idle : s.power.on = false ∨ s.power.inStart = false ∨ s.power.startStep ≠ k) : watchdogEnds k f s = s := by
  rw [watchdogEnds, if_pos]
  rcases idle with h | h | h <;> simp [h]

end

/-- Settles O57: a pin's rise, the input's return and a pending activation start the module where `mayStart` holds; a watchdog acts on the step in progress
alone. -/
theorem startsWhen : Obligations.StartsWhen := by
  intro s f
  refine ⟨fun high => ?enHigh, fun low input released off => ?enStarts, fun low other => ?enKept, fun low input enabled off => ?rstStarts,
    fun out enabled released off => ?vinStarts, fun out disabled => ?vinDisabled, fun high => ?rstHigh, fun low other => ?rstKept, fun input => ?vinIn,
    fun out reset => ?vinReset, fun up pending => ?activate, fun up idle => ?unpending, fun k on starting step known => ?watchdog, fun k idle => ?noStep⟩
  case enHigh => exact next_leaves_of_eq rfl (if_pos high)
  case enStarts => exact next_leaves_of_eq (exec_modEnRise f low) (startIfMay_of_all f input rfl released off)
  case enKept =>
    refine next_leaves_of_eq (exec_modEnRise f low) (startIfMay_of_kept f ?_)
    exact other.elim .inl fun reset => .inr (.inr (.inl reset))
  case rstStarts => exact next_leaves_of_eq (exec_modRstNRise f low) (startIfMay_of_all f input enabled rfl off)
  case vinStarts => exact next_leaves_of_eq (exec_vinReturn f out) (startIfMay_of_all f rfl enabled released off)
  case vinDisabled => exact next_leaves_of_eq (exec_vinReturn f out) (startIfMay_of_kept f (.inr (.inl disabled)))
  case rstHigh => exact next_leaves_of_eq rfl (if_pos high)
  case rstKept =>
    refine next_leaves_of_eq (exec_modRstNRise f low) (startIfMay_of_kept f ?_)
    exact other.imp_right fun h => h.imp_right .inr
  case vinIn => exact next_leaves_of_eq rfl (if_pos input)
  case vinReset => exact next_leaves_of_eq (exec_vinReturn f out) (startIfMay_of_kept f (.inr (.inr (.inl reset))))
  case activate => exact next_leaves_of_eq (exec_fwActivateRestart f up) (if_pos (Option.isSome_iff_ne_none.mpr pending))
  case unpending => exact next_leaves_of_eq (exec_fwActivateRestart f up) (if_neg (by simp [idle]))
  case watchdog =>
    have ends := watchdogEnds_of_running f on starting step known
    constructor
    · intro passed
      exact next_leaves_of_eq rfl (ends.trans (if_pos passed))
    · intro failed stillOn stillStarting
      refine next_leaves_of_eq rfl (ends.trans ((if_neg (Bool.eq_false_iff.mp failed)).trans (if_pos ?_)))
      exact Bool.and_eq_true_iff.mpr ⟨stillOn, stillStarting⟩
  case noStep => exact next_leaves_of_eq rfl (watchdogEnds_of_idle f idle)

/-! ## What the journals leave of the management core (R382–R388) -/

/-- A management core but for its event journal and its audit journal. -/
def unjournaled (m : Mgmt) : Mgmt :=
  { m with audit := [], auditSeq := 0, auditHead := [], auditSector := 0, auditOffset := 0, auditEntries := 0
           general := [], alarms := [], generalSeq := 0, alarmSeq := 0, windows := [], alarmTable := [], classNow := [], drops := [], gapDrops := []
           alarmDrop := 0, gapRecords := 0, coalesced := 0 }

theorem dropAlarm_unjournaled (m : Mgmt) : unjournaled m.dropAlarm = unjournaled m := by
  unfold Mgmt.dropAlarm
  split
  · rfl
  · split <;> rfl

theorem putGap_unjournaled (cls : Nat) (s : State) : unjournaled (putGap cls s).mgmt = unjournaled s.mgmt := by
  unfold putGap
  split <;> rfl

theorem putAlarm_unjournaled (code flags port count first last subject : Nat) (d : Bytes) (s : State) :
    unjournaled (putAlarm code flags port count first last subject d s).mgmt = unjournaled s.mgmt := dropAlarm_unjournaled s.mgmt

theorem putGeneral_unjournaled (code flags port count first last subject : Nat) (d : Bytes) (s : State) :
    unjournaled (putGeneral code flags port count first last subject d s).mgmt = unjournaled s.mgmt := rfl

theorem counted_unjournaled (f : List Nat → List Nat) (s : State) :
    unjournaled (s.setMgmt fun m => { m with classNow := f m.classNow }).mgmt = unjournaled s.mgmt := rfl

theorem putRecord_unjournaled (cls code flags port count first last subject : Nat) (d : Bytes) (s : State) :
    unjournaled (putRecord cls code flags port count first last subject d s).mgmt = unjournaled s.mgmt := by
  rw [putRecord]
  split
  · exact putAlarm_unjournaled ..
  · refine (counted_unjournaled (fun l => modifyAt l cls (· + 1)) _).trans ?_
    exact (putGeneral_unjournaled ..).trans (putGap_unjournaled cls s)

theorem logEvent_unjournaled (cls code port subject : Nat) (d : Bytes) (s : State) :
    unjournaled (logEvent cls code port subject d s).mgmt = unjournaled s.mgmt := by
  rw [logEvent]
  split
  · rfl
  · split
    · rfl
    · exact putRecord_unjournaled ..

theorem raiseAlarm_unjournaled (code subject : Nat) (s : State) : unjournaled (raiseAlarm code subject s).mgmt = unjournaled s.mgmt := by
  rw [raiseAlarm]
  split
  · rfl
  · refine Eq.trans ?_ (logEvent_unjournaled 0 code 0xFF subject [] s)
    rw [State.setPort_mgmt, State.setMgmt_mgmt]
    dsimp only
    split
    · rfl
    · split <;> rfl

/-- The alarm of audit entries that are lost before they were read (R384). -/
theorem lostAlarm_unjournaled (lost : Bool) (s : State) : unjournaled (if lost then raiseAlarm 0x00D 0 s else s).mgmt = unjournaled s.mgmt := by
  cases lost
  · rfl
  · exact raiseAlarm_unjournaled 0x00D 0 s

theorem auditWrite_unjournaled (kind outcome access role tag seq : Nat) (fields : Bytes) (s : State) :
    unjournaled (auditWrite kind outcome access role tag seq fields s).mgmt = unjournaled s.mgmt := lostAlarm_unjournaled _ _

/-! ## The steps that end a start (R354, R355, R359, R373) -/

/-- The firmware slots, the one that runs, the rollback count and the fuse of a decommissioned device. -/
def firmware (m : Mgmt) : Nat × Nat × FwSlot × FwSlot × Bool := (m.running, m.rollback, m.slotA, m.slotB, m.decommissioned)

theorem firmware_of_unjournaled {m m' : Mgmt} (same : unjournaled m' = unjournaled m) : firmware m' = firmware m :=
  (congrArg firmware same : firmware (unjournaled m') = firmware (unjournaled m))

/-- A ledger that is written only where it changes. -/
theorem writeLedger_firmware (same : Prop) [Decidable same] (f : Ledger → Ledger) (s : State) :
    firmware (if same then s else writeLedger f s).mgmt = firmware s.mgmt := by
  split <;> rfl

theorem failRun_firmware (k : Nat) (fail : Bool) (s : State) : firmware (failRun k fail s).mgmt = firmware s.mgmt := writeLedger_firmware ..

theorem endStep_firmware (k outcome variant unitsOut : Nat) (d : StepFound) (s : State) :
    firmware (endStep k outcome variant unitsOut d s).mgmt = firmware s.mgmt := by
  rw [endStep]
  split
  · rfl
  · exact failRun_firmware ..

theorem raiseAlarm_firmware (code subject : Nat) (s : State) : firmware (raiseAlarm code subject s).mgmt = firmware s.mgmt :=
  firmware_of_unjournaled (raiseAlarm_unjournaled code subject s)

theorem auditWrite_firmware (kind outcome access role tag seq : Nat) (fields : Bytes) (s : State) :
    firmware (auditWrite kind outcome access role tag seq fields s).mgmt = firmware s.mgmt :=
  firmware_of_unjournaled (auditWrite_unjournaled kind outcome access role tag seq fields s)

section
variable {s : State} {d : StepFound} {f : StartFound}

section
variable (fail : d.pass = false)
include fail

theorem stepRails_of_fail : stepRails d s = ((railsOff true s).setPower fun w => { w with faultN := false }, false) := by
  rw [stepRails, fail]
  exact if_pos rfl

theorem stepFuses_of_fail : stepFuses d s = (enterSafe (endStep 1 4 0 0 d s), false) := by
  rw [stepFuses, fail, if_neg Bool.false_ne_true]

theorem stepFirmware_of_fail : stepFirmware d f s = (startFails (endStep 2 4 0 0 d s), false) := by
  rw [stepFirmware, fail]
  exact if_pos rfl

theorem stepService_of_fail : stepService d s = (startFails (endStep 10 4 0 0 d s), false) := by
  rw [stepService, fail]
  exact if_pos rfl

end

/-- S7, S8 and S9 are passed whatever they find (R355). -/
theorem stepLinks_goes_on : (stepLinks d f s).2 = true := by
  unfold stepLinks
  split <;> rfl

theorem stepJoin_goes_on : (stepJoin d f s).2 = true := by
  unfold stepJoin
  dsimp only
  split
  · rfl
  · split <;> rfl

theorem stepHost_goes_on : (stepHost d f s).2 = true := by
  unfold stepHost
  dsimp only
  split <;> rfl

theorem endStep_decommissioned (k outcome variant unitsOut : Nat) :
    (endStep k outcome variant unitsOut d s).mgmt.decommissioned = s.mgmt.decommissioned :=
  congrArg (fun w => w.2.2.2.2) (endStep_firmware k outcome variant unitsOut d s)

/-- FW_FALLBACK is raised where the slot that runs is not ACTIVE_SLOT (R355, R376). -/
theorem fallback_running (active : Prop) [Decidable active] (t : State) : (if active then t else raiseAlarm 0x00E 0 t).mgmt.running = t.mgmt.running := by
  split
  · rfl
  · exact congrArg Prod.fst (raiseAlarm_firmware 0x00E 0 t)

theorem endStep_runSlot_running (n outcome variant unitsOut : Nat) (t : State) :
    (endStep 2 outcome variant unitsOut d (runSlot n t)).mgmt.running = n :=
  congrArg Prod.fst (endStep_firmware 2 outcome variant unitsOut d (runSlot n t))

section
variable (pass : d.pass = true)
include pass

theorem stepFuses_of_decommissioned (dead : s.mgmt.decommissioned = true) : stepFuses d s = (enterSafe (endStep 1 2 0 0 d s), false) := by
  rw [stepFuses, if_pos pass]
  exact if_pos ((endStep_decommissioned 1 2 0 0).trans dead)

theorem stepFuses_of_whole (whole : s.mgmt.decommissioned = false) : stepFuses d s = (endStep 1 2 0 0 d s, true) := by
  rw [stepFuses, if_pos pass]
  exact if_neg (Bool.eq_false_iff.mp ((endStep_decommissioned 1 2 0 0).trans whole))

theorem stepFirmware_of_first (first : s.mgmt.slotPasses f.slotsPass s.firstSlot = true) :
    (stepFirmware d f s).2 = true ∧ (stepFirmware d f s).1.mgmt.running = s.firstSlot := by
  rw [stepFirmware, pass, if_neg (by decide), if_pos first]
  exact ⟨rfl, (fallback_running _ _).trans (endStep_runSlot_running ..)⟩

section
variable (bad : s.mgmt.slotPasses f.slotsPass s.firstSlot = false)
include bad

theorem stepFirmware_of_other (other : s.mgmt.slotPasses f.slotsPass (1 - s.firstSlot) = true) :
    (stepFirmware d f s).2 = true ∧ (stepFirmware d f s).1.mgmt.running = 1 - s.firstSlot := by
  rw [stepFirmware, pass, if_neg (by decide), bad, if_neg Bool.false_ne_true, if_pos other]
  exact ⟨rfl, (fallback_running _ _).trans (endStep_runSlot_running ..)⟩

theorem stepFirmware_of_neither (worse : s.mgmt.slotPasses f.slotsPass (1 - s.firstSlot) = false) :
    stepFirmware d f s = (startFails (endStep 2 4 0 0 d s), false) := by
  rw [stepFirmware, pass, if_neg (by decide), bad, if_neg Bool.false_ne_true, worse, if_neg Bool.false_ne_true]

end

/-- S10 starts the command service, with tick 1 at the least (R15). -/
theorem stepService_of_pass : (stepService d s).2 = true ∧ (stepService d s).1.power.inStart = false ∧ 1 ≤ (stepService d s).1.tick := by
  rw [stepService, pass, if_neg (by decide)]
  exact ⟨rfl, rfl, Nat.le_max_right _ 1⟩

/-- S10 raises the rollback count and leaves the slots (R373). -/
theorem stepService_firmware : firmware (stepService d s).1.mgmt
    = (s.mgmt.running, max s.mgmt.rollback s.mgmt.lowestSvn, s.mgmt.slotA, s.mgmt.slotB, s.mgmt.decommissioned) := by
  have ended := endStep_firmware 10 2 0 0 d s
  simp only [firmware, Prod.mk.injEq] at ended
  obtain ⟨running, rollback, slotA, slotB, dead⟩ := ended
  rw [stepService, pass, if_neg (by decide)]
  refine (auditWrite_firmware ..).trans ?_
  simp only [firmware, closeRecord, writeLedger, State.setMgmt_mgmt, Mgmt.lowestSvn, running, rollback, slotA, slotB, dead]

end
end

theorem foldl_min_le (l : List Nat) (n : Nat) : l.foldl min n ≤ n ∧ ∀ x ∈ l, l.foldl min n ≤ x := by
  induction l generalizing n with
  | nil => simp
  | cons a l ih =>
    obtain ⟨bound, least⟩ := ih (min n a)
    refine ⟨Nat.le_trans bound (Nat.min_le_left n a), fun x here => ?_⟩
    rcases List.mem_cons.mp here with rfl | further
    · exact Nat.le_trans bound (Nat.min_le_right n x)
    · exact least x further

/-- The lowest SVN is at most that of each slot that is VALID or ACTIVE (R373). -/
theorem lowestSvn_le {m : Mgmt} {x : FwSlot} (slot : x ∈ [m.slotA, m.slotB]) (usable : x.state = 2 ∨ x.state = 3) : m.lowestSvn ≤ x.svn := by
  have listed : x.svn ∈ ([m.slotA, m.slotB].filter fun f => f.state = 2 ∨ f.state = 3).map FwSlot.svn :=
    List.mem_map_of_mem (List.mem_filter.mpr ⟨slot, by simpa using usable⟩)
  exact (foldl_min_le _ _).2 _ listed

/-- Settles O59: each step's ending is a branch of its definition; what a step records of itself leaves the firmware and the fuses. -/
theorem startSteps : Obligations.StartSteps := by
  intro s d f
  refine ⟨fun fail => ?fail, fun pass => ?pass, rfl, rfl, rfl, rfl, fun k listed => ?stack⟩
  case fail =>
    have rails : runStep 0 d f s = _ := stepRails_of_fail fail
    have fuses : runStep 1 d f s = _ := stepFuses_of_fail fail
    have firmware : runStep 2 d f s = _ := stepFirmware_of_fail fail
    have service : runStep 10 d f s = _ := stepService_of_fail fail
    rw [rails, fuses, firmware, service]
    exact ⟨rfl, rfl, rfl, rfl, rfl, rfl, rfl, rfl, rfl, rfl, stepLinks_goes_on, stepJoin_goes_on, stepHost_goes_on⟩
  case pass =>
    refine ⟨fun dead => ?_, fun whole => congrArg Prod.snd (stepFuses_of_whole pass whole), fun bad worse => congrArg Prod.snd (stepFirmware_of_neither pass bad worse),
      fun first => stepFirmware_of_first pass first, fun bad other => stepFirmware_of_other pass bad other, stepService_of_pass pass⟩
    have fuses : runStep 1 d f s = _ := stepFuses_of_decommissioned pass dead
    rw [fuses]
    exact ⟨rfl, rfl⟩
  case stack =>
    obtain ⟨old, _, rfl⟩ := List.mem_map.mp listed
    rfl

/-- Settles O60: both tests hold an image to the count; S10 raises it to the lowest SVN of the usable slots, below none of them. -/
theorem rollbackCount : Obligations.RollbackCount := by
  intro s
  refine ⟨fun found n low => ?slot, fun slot low => ?image, fun d f pass => ?service⟩
  case slot => simp [Mgmt.slotPasses, Nat.not_le.mpr low]
  case image => simp [FwSlot.genuine, Nat.not_le.mpr low]
  case service =>
    have raised : (runStep 10 d f s).1.mgmt.rollback = max s.mgmt.rollback s.mgmt.lowestSvn := congrArg (fun w => w.2.1) (stepService_firmware pass)
    refine ⟨raised, raised ▸ Nat.le_max_left .., fun x slot usable => ⟨lowestSvn_le slot usable, fun above => ?_⟩⟩
    exact raised ▸ Nat.max_le.mpr ⟨above, lowestSvn_le slot usable⟩

end Sys2Proof.Proofs

namespace Sys2Proof.Proofs

/-! Heat, warnings and the patrol (R283, R302, R303, R305–R307, R391, R402). -/

open Sys2Proof Sys2Proof.Machine Sys2Proof.Laws

/-! ## The refresh rate (R302) -/

theorem refreshFor_of_hottest {temp : Nat} (hot : 95 < temp) (now : Nat) : refreshFor now temp = 4 := by rw [refreshFor, if_pos hot]

/-- The rate of a stack that is not above 95 °C, by what it was. -/
theorem refreshFor_of_cooler {temp : Nat} (cooler : temp ≤ 95) (now : Nat) : refreshFor now temp
    = if now = 4 ∧ 92 < temp then 4 else if 85 < temp then 2 else if 2 ≤ now ∧ 82 < temp then 2 else 1 := by
  rw [refreshFor, if_neg (Nat.not_lt.mpr cooler)]

/-! ## ALERT_N (R402) -/

/-- A warning condition of R402 holds. -/
def warned (t : State) : Bool :=
  t.mgmt.dieHot.any id || t.mgmt.vinLow || t.mgmt.vinHigh || t.stackList.any fun k => k.inService && (k.sensorLost || decide (k.throttleAt < k.temp))

theorem alertPin_low_iff (s t : State) : (leaves s (alertPin t)).power.alertN = false ↔ warned (leaves s (alertPin t)) = true := by
  show (!warned t) = false ↔ warned t = true
  rw [Bool.not_eq_false']

/-! ## A stack's reports (R302, R303) -/

theorem modifyAt_getElem?_same {α : Type} (l : List α) (k : Nat) (f : α → α) : (modifyAt l k f)[k]? = l[k]?.map f := by
  induction l generalizing k with
  | nil => rfl
  | cons a l ih =>
    cases k with
    | zero => rfl
    | succ k => exact ih k

theorem stackList_of_sameWork {s t : State} (same : s.sameWork t) : t.stackList = s.stackList := by simp_all [State.sameWork]

theorem clearAlarm_stackList (code subject : Nat) (s : State) : (clearAlarm code subject s).stackList = s.stackList :=
  stackList_of_sameWork (clearAlarm_sameWork code subject s)

theorem raiseAlarm_stackList (code subject : Nat) (s : State) : (raiseAlarm code subject s).stackList = s.stackList :=
  stackList_of_sameWork (raiseAlarm_sameWork code subject s)

section
variable {s : State} {k : Nat} {st : Stack} (here : s.stackList[k]? = some st) (serves : st.inService = true)

/-- Is the stack above its threshold, or not yet 5 °C below it again (R303)? -/
def throttles (st : Stack) (temp : Nat) : Bool := decide (st.throttleAt < temp) || (st.throttled && decide (st.throttleAt < temp + 5))

/-- A report taken: the sensor is silent no more (R302, R303). -/
def tempTaken (k temp : Nat) (st : Stack) (s : State) : State :=
  let t := s.setStack k fun x => { x with temp := temp, refresh := refreshFor x.refresh temp, throttled := throttles st temp, sensorLost := false }
  if st.sensorLost then clearAlarm 0x006 k t else t

include here

theorem stack_getD : s.stackList.getD k {} = st := by rw [List.getD_eq_getElem?_getD, here]; rfl

include serves

theorem stackTemp_of_serving (temp : Nat) : stackTemp k temp s =
    if throttles st temp && !st.throttled then raiseAlarm 0x007 k (tempTaken k temp st s)
    else if st.throttled && !throttles st temp then clearAlarm 0x007 k (tempTaken k temp st s)
    else tempTaken k temp st s := by
  have known : k < s.stackList.length := (List.getElem?_eq_some_iff.mp here).1
  rw [stackTemp, stack_getD here, if_neg (by simp [known, serves])]
  rfl

theorem stackTemp_of_rise {temp : Nat} (cool : st.throttled = false) (rises : throttles st temp = true) :
    stackTemp k temp s = raiseAlarm 0x007 k (tempTaken k temp st s) := by
  rw [stackTemp_of_serving here serves, cool, rises]
  rfl

theorem stackTemp_of_fall {temp : Nat} (hot : st.throttled = true) (falls : throttles st temp = false) :
    stackTemp k temp s = clearAlarm 0x007 k (tempTaken k temp st s) := by
  rw [stackTemp_of_serving here serves, hot, falls]
  rfl

theorem stackTemp_of_same {temp : Nat} (same : st.throttled = throttles st temp) : stackTemp k temp s = tempTaken k temp st s := by
  rw [stackTemp_of_serving here serves, same, Bool.and_not_self, if_neg Bool.false_ne_true, if_neg Bool.false_ne_true]

theorem stackSilent_of_serving : stackSilent k s
    = raiseAlarm 0x007 k (raiseAlarm 0x006 k (s.setStack k fun st => { st with refresh := 4, throttled := true, sensorLost := true })) := by
  have known : k < s.stackList.length := (List.getElem?_eq_some_iff.mp here).1
  rw [stackSilent, stack_getD here, if_neg (by simp [known, serves])]

end

/-- The entry of a stack after a report or a silence, whatever alarms follow (R302, R303). -/
theorem tempTaken_stackList (k temp : Nat) (st : Stack) (s : State) : (tempTaken k temp st s).stackList
    = modifyAt s.stackList k fun x => { x with temp := temp, refresh := refreshFor x.refresh temp, throttled := throttles st temp, sensorLost := false } := by
  unfold tempTaken
  dsimp only
  split
  · exact clearAlarm_stackList ..
  · rfl

section
variable {s : State} {k : Nat} {st : Stack} (here : s.stackList[k]? = some st) (serves : st.inService = true)
include here serves

theorem stackTemp_stack (temp : Nat) : (stackTemp k temp s).stackList[k]?
    = some { st with temp := temp, refresh := refreshFor st.refresh temp, throttled := throttles st temp, sensorLost := false } := by
  have taken : (stackTemp k temp s).stackList = (tempTaken k temp st s).stackList := by
    rw [stackTemp_of_serving here serves]
    split
    · exact raiseAlarm_stackList ..
    · split
      · exact clearAlarm_stackList ..
      · rfl
  rw [taken, tempTaken_stackList, modifyAt_getElem?_same, here]
  rfl

theorem stackSilent_stack : (stackSilent k s).stackList[k]? = some { st with refresh := 4, throttled := true, sensorLost := true } := by
  rw [stackSilent_of_serving here serves, raiseAlarm_stackList, raiseAlarm_stackList, State.setStack, modifyAt_getElem?_same, here]
  rfl

end

/-! ## The patrol (R283, R305–R307) -/

/-- What the patrol does with what it finds in a granule: nothing, an error that was corrected, or one that is uncorrectable (R305–R307). -/
def scrubFound (k n page gran out : Nat) (s : State) : State :=
  match out with
  | 1 => correctedError k n page gran s
  | 2 => retirePage k n page 4 (uncorrectable n (page * pageBytes + 256 * gran) 256 s)
  | _ => s

section
variable {s : State} {k n page gran : Nat} {o : Obj} {st : Stack} (stack : s.stackList[k]? = some st) (serves : st.inService = true)
  (here : s.obj n = some o) (granule : gran < 256) (inside : page < o.pages) (tier : o.pageTier page = 1) (home : o.stackOf page = some k)
include stack serves here granule inside tier home

/-- A granule of the stack's own pages is looked at. -/
theorem patrolScrubbed_of_own (out : Nat) : patrolScrubbed k n page gran out s
    = if s.poisoned n (page * pageBytes + 256 * gran) 256 then s else scrubFound k n page gran out s := by
  have known : k < s.stackList.length := (List.getElem?_eq_some_iff.mp stack).1
  unfold patrolScrubbed
  rw [here]
  dsimp only
  rw [stack_getD stack, if_neg (by simp [known, serves, granule, inside, tier, home])]
  rfl

theorem patrolScrubbed_of_poisoned (bad : s.poisoned n (page * pageBytes + 256 * gran) 256 = true) (out : Nat) : patrolScrubbed k n page gran out s = s := by
  rw [patrolScrubbed_of_own stack serves here granule inside tier home, if_pos bad]

theorem patrolScrubbed_of_sound (sound : s.poisoned n (page * pageBytes + 256 * gran) 256 = false) (out : Nat) :
    patrolScrubbed k n page gran out s = scrubFound k n page gran out s := by
  rw [patrolScrubbed_of_own stack serves here granule inside tier home, sound, if_neg Bool.false_ne_true]

end

/-! ## The commands -/

section
variable {s : State} (up : s.up = true)
include up

theorem exec_stackTempReport (k temp : Nat) : exec (.stackTempReport k temp) s = .next (leaves s (alertPin (stackTemp k temp s))) :=
  act_whenUp up fun s => alertPin (stackTemp k temp s)

theorem exec_stackSensorTimeout (k : Nat) : exec (.stackSensorTimeout k) s = .next (leaves s (alertPin (stackSilent k s))) :=
  act_whenUp up fun s => alertPin (stackSilent k s)

theorem exec_patrolScrub (k n page gran out : Nat) : exec (.patrolScrub k n page gran out) s = .next (leaves s (patrolScrubbed k n page gran out s)) :=
  act_whenUp up (patrolScrubbed k n page gran out)

theorem exec_telemetrySample (r : List Nat) : exec (.telemetrySample r) s = .next (leaves s (telemetrySampled r s)) := act_whenUp up (telemetrySampled r)

end

/-! ## A telemetry sample (R390, R391, R402) -/

/-- The temperature of a die after a sample: as given, or as it was. -/
def dieTemp (r : List Nat) (s : State) (i : Nat) : Nat := r.getD (2 + i) (s.mgmt.dieTemps.getD i 0)

theorem range_map_getD {α : Type} (f : Nat → α) (d : α) {i n : Nat} (inside : i < n) : ((List.range n).map f).getD i d = f i := by
  simp [inside]

theorem telemetrySampled_dieTemp (r : List Nat) (s : State) {i : Nat} (die : i < 5) : (telemetrySampled r s).mgmt.dieTemps.getD i 0 = dieTemp r s i :=
  range_map_getD _ 0 die

/-- A die is too hot from 100 °C on, and until it is below 95 °C again. -/
theorem telemetrySampled_dieHot (r : List Nat) (s : State) {i : Nat} (die : i < 5) (d : Bool) : (telemetrySampled r s).mgmt.dieHot.getD i d
    = (decide (1000 ≤ dieTemp r s i) || (s.mgmt.dieHot.getD i false && decide (950 ≤ dieTemp r s i))) := by
  have hots : (telemetrySampled r s).mgmt.dieHot = (List.range 5).map fun i => decide (1000 ≤ ((List.range 5).map (dieTemp r s)).getD i 0)
      || (s.mgmt.dieHot.getD i false && decide (950 ≤ ((List.range 5).map (dieTemp r s)).getD i 0)) := rfl
  rw [hots, range_map_getD _ d die, range_map_getD _ 0 die]

theorem telemetrySampled_vinLow (r : List Nat) (s : State) : (telemetrySampled r s).mgmt.vinLow
    = (decide ((telemetrySampled r s).mgmt.vinMv < 46000) || (s.mgmt.vinLow && decide ((telemetrySampled r s).mgmt.vinMv < 47000))) := rfl

theorem telemetrySampled_vinHigh (r : List Nat) (s : State) : (telemetrySampled r s).mgmt.vinHigh
    = (decide (58000 < (telemetrySampled r s).mgmt.vinMv) || (s.mgmt.vinHigh && decide (57000 < (telemetrySampled r s).mgmt.vinMv))) := rfl

section
variable {on off now : Prop} [Decidable on] [Decidable off] {before : Bool}

/-- A warning with hysteresis: raised beyond one bound, kept until another is passed. -/
theorem hysteresis_raised (beyond : on) : (decide on || (before && decide off)) = true := by simp [beyond]

theorem hysteresis_cleared (implies : on → off) (within : ¬ off) : (decide on || (before && decide off)) = false := by
  simp [within, mt implies within]

theorem hysteresis_kept (short : ¬ on) (still : off) : (decide on || (before && decide off)) = before := by simp [short, still]

end

/-! ## The obligations -/

/-- Settles O44: the rates are the branches of `refreshFor`; each event is its operation on a stack that is in service. -/
theorem stackEvents : Obligations.StackEvents := by
  refine ⟨fun now temp => ?rates, fun s k st up here serves => ⟨fun temp => ?report, ?silence, fun n page gran o obj granule inside tier home => ?patrol⟩⟩
  case rates =>
    refine ⟨fun hot => refreshFor_of_hottest hot now, fun above most other => ?_, fun four above => ?_, fun four above most => ?_,
      fun two _ above most => ?_, fun most => ?_, fun one most => ?_⟩
    · rw [refreshFor_of_cooler most, if_neg (fun four => other four.1), if_pos above]
    · rcases Nat.lt_or_ge 95 temp with hottest | cooler
      · exact refreshFor_of_hottest hottest now
      · rw [refreshFor_of_cooler cooler, if_pos ⟨four, above⟩]
    · rw [refreshFor_of_cooler (by omega), if_neg (by omega), if_pos above]
    · rw [refreshFor_of_cooler (by omega), if_neg (by omega), if_neg (by omega), if_pos ⟨two, above⟩]
    · rw [refreshFor_of_cooler (by omega), if_neg (by omega), if_neg (by omega), if_neg (by omega)]
    · rw [refreshFor_of_cooler (by omega), if_neg (by omega), if_neg (by omega), if_neg (by omega)]
  case report =>
    intro hot t u
    have reported : ∀ {t : State}, stackTemp k temp s = t → exec (.stackTempReport k temp) s = .next (leaves s (alertPin t)) := fun taken =>
      taken ▸ exec_stackTempReport up k temp
    exact ⟨fun cool rises => reported (stackTemp_of_rise here serves cool rises), fun throttled falls => reported (stackTemp_of_fall here serves throttled falls),
      fun same => reported (stackTemp_of_same here serves same)⟩
  case silence => rw [exec_stackSensorTimeout up, stackSilent_of_serving here serves]
  case patrol =>
    intro at_
    constructor
    · intro sound
      have found := fun out => next_leaves_of_eq (exec_patrolScrub up k n page gran out) (patrolScrubbed_of_sound here serves obj granule inside tier home sound out)
      exact ⟨found 0, found 1, found 2⟩
    · intro bad out
      exact next_leaves_of_eq (exec_patrolScrub up k n page gran out) (patrolScrubbed_of_poisoned here serves obj granule inside tier home bad out)

/-- Settles O55: a sample leaves its readings and each warning's rule, a report and a silence their stack's entry, and the pin is set last. -/
theorem alertPin : Obligations.AlertPin := by
  intro s up pinRight
  refine ⟨fun r => ⟨_, exec_telemetrySample up r, rfl, rfl, rfl, rfl, ?temp, ?hot, ?cool, ?keep, ?low, ?lowEnds, ?lowKept, ?high, ?highEnds, ?highKept, ?pin, ?work⟩,
    fun k st here serves => ⟨fun temp => ?report, ?silence⟩⟩
  case temp => exact fun i die => telemetrySampled_dieTemp r s die
  case hot => 
    intro i die hot
    exact (telemetrySampled_dieHot r s die false).trans (hysteresis_raised (telemetrySampled_dieTemp r s die ▸ hot))
  case cool => 
    intro i die cool
    have temp : dieTemp r s i < 950 := telemetrySampled_dieTemp r s die ▸ cool
    exact (telemetrySampled_dieHot r s die true).trans (hysteresis_cleared (by omega) (by omega))
  case keep =>
    intro i die warm cool
    have temp : 950 ≤ dieTemp r s i ∧ dieTemp r s i < 1000 := telemetrySampled_dieTemp r s die ▸ ⟨warm, cool⟩
    exact (telemetrySampled_dieHot r s die false).trans (hysteresis_kept (by omega) (by omega))
  case low => exact fun below => (telemetrySampled_vinLow r s).trans (hysteresis_raised below)
  case lowEnds =>
    exact fun above => (telemetrySampled_vinLow r s).trans (hysteresis_cleared (fun below => Nat.lt_trans below (by decide)) (Nat.not_lt.mpr above))
  case lowKept => exact fun least below => (telemetrySampled_vinLow r s).trans (hysteresis_kept (Nat.not_lt.mpr least) below)
  case high => exact fun above => (telemetrySampled_vinHigh r s).trans (hysteresis_raised above)
  case highEnds =>
    exact fun below => (telemetrySampled_vinHigh r s).trans (hysteresis_cleared (fun above => Nat.lt_trans (by decide) above) (Nat.not_lt.mpr below))
  case highKept => exact fun above most => (telemetrySampled_vinHigh r s).trans (hysteresis_kept (Nat.not_lt.mpr most) above)
  case pin => exact alertPin_low_iff s _
  case work => simp [State.sameWork, leaves, telemetrySampled, Machine.alertPin]
  case report =>
    have entry := stackTemp_stack here serves temp
    exact ⟨_, exec_stackTempReport up k temp, alertPin_low_iff s _, congrArg (Option.map Stack.temp) entry, congrArg (Option.map Stack.sensorLost) entry⟩
  case silence =>
    exact ⟨_, exec_stackSensorTimeout up k, alertPin_low_iff s _, congrArg (Option.map Stack.sensorLost) (stackSilent_stack here serves)⟩

end Sys2Proof.Proofs

namespace Sys2Proof.Proofs

/-! The page mover: pages copied, fulled, expanded and held (R280, R290, R293–R295). -/

open Sys2Proof Sys2Proof.Machine Sys2Proof.Laws

section
variable {s : State} (up : s.up = true)
include up

theorem exec_pageCopy (n page : Nat) (bad : List Nat) : exec (.pageCopy n page bad) s = .next (leaves s (pageCopied n page bad s)) :=
  act_whenUp up (pageCopied n page bad)

theorem exec_pageFull (n page : Nat) : exec (.pageFull n page) s = .next (leaves s (pageFulled n page s)) := act_whenUp up (pageFulled n page)

theorem exec_pageExpansion (n page : Nat) (write : Bool) : exec (.pageExpansion n page write) s = .next (leaves s (pageExpanded n page write s)) :=
  act_whenUp up (pageExpanded n page write)

theorem exec_expansionWait (n page : Nat) : exec (.expansionWait n page) s = .next (leaves s (expansionDone n page s)) := act_whenUp up (expansionDone n page)

theorem exec_keepHoldExpiry (id : Nat) : exec (.keepHoldExpiry id) s = .next (leaves s (keepExpired id s)) := act_whenUp up (keepExpired id)

end

/-! ## Copying (R280, R290) -/

theorem pageCopied_of_tail {s : State} (tail : s.frame.tail = true) (n page : Nat) (bad : List Nat) : pageCopied n page bad s = s := by
  rw [pageCopied, if_pos tail]

section
variable {s : State} {n page : Nat} {o : Obj} (here : s.obj n = some o) (before : s.frame.tail = false)
include here before

/-- A page of a migration copied: what could not be read is poisoned, and the page switches at the next boundary. -/
def pageMigrated (n page tier : Nat) (j : Job) (bad : List Nat) (s : State) : State :=
  let t := (bad.filter fun g => decide (g < 256)).foldl (fun t g => uncorrectable n (page * pageBytes + 256 * g) 256 t) s
  (t.setObj n fun o => o.setPage page fun x => { x with switching := some tier }).setJob j.id fun j => { j with phase := j.phase - 1, progressed := true }

theorem pageCopied_of_migration {m : Migration} {j : Job} (migrates : o.migration = some m) (job : s.migrateJob n = some j)
    (left : m.left.contains page = true) (still : (o.page page).switching = none) (slice : j.phase ≠ 0) (bad : List Nat) :
    pageCopied n page bad s = pageMigrated n page m.tier j bad s := by
  have due : (m.left.contains page && (o.page page).switching.isNone && j.phase != 0) = true := by
    rw [left, still]
    simpa using slice
  unfold pageCopied
  rw [before, if_neg Bool.false_ne_true, here, job]
  dsimp only
  rw [migrates]
  exact if_pos due

theorem pageCopied_of_plan {c : Cmd} {j : Job} {e : PlanEntry} {i k : Nat} (unmoved : s.migrateJob n = none)
    (plan : s.planFor n page = some (c, j, e, i, k)) (bad : List Nat) : pageCopied n page bad s = placePage c j e i k bad s := by
  unfold pageCopied
  rw [before, if_neg Bool.false_ne_true, here, unmoved, plan]

/-! ## Fulling (R293) -/

theorem pageFulled_of_due (fulls : o.canFull page = true) (first : s.fullFirst o page = true) (slice : s.uncharged s.tick .pages ≠ 0) :
    pageFulled n page s =
      (let t := chargeNow [(.pages, 1)] s
       if fulledSize (t.pageData n page) ≤ 12 then
         (freeSpace (.sectors 16 ((o.stackOf page).getD 12)) (t.setObj n fun o => o.setPage page fun p =>
           { p with fulled := some (fulledSize (t.pageData n page)) })).setMem fun m => { m with fullSaved := satAdd m.fullSaved (16 - fulledSize (t.pageData n page)) }
       else (t.setObj n fun o => o.setPage page fun p => { p with skipped := true }).setMem fun m => { m with fullSkipped := satAdd m.fullSkipped 1 }) := by
  unfold pageFulled
  rw [here]
  dsimp only
  rw [if_neg (by simp [before, fulls, first, slice])]

end

theorem pageFulled_of_kept {s : State} {n page : Nat} {o : Obj} (here : s.obj n = some o) (kept : s.frame.tail = true ∨ o.canFull page = false) :
    pageFulled n page s = s := by
  unfold pageFulled
  rw [here]
  dsimp only
  rw [if_pos]
  rcases kept with tail | direct
  · simp [tail]
  · simp [direct]

/-- A page of zeros takes one sector (log entry 8). -/
theorem fulledSize_of_zeros {bs : Bytes} (zero : bs.all (· == 0) = true) : fulledSize bs = 1 := by rw [fulledSize, if_pos zero]

/-! ## Expansion (R293, R294) -/

section
variable {s : State} {n page : Nat} {o : Obj} (here : s.obj n = some o)
include here

theorem pageExpanded_of_direct {write : Bool} (idle : write = false ∨ (o.page page).fulled = none) : pageExpanded n page write s = s := by
  unfold pageExpanded
  rw [here]
  dsimp only
  rw [if_pos]
  rcases idle with read | direct
  · simp [read]
  · simp [direct]

/-- A fulled page of `z` sectors made direct, MEM_RESERVE cleared once no page waits (R293, R294). -/
def pageDirect (n page z : Nat) (o : Obj) (s : State) : State :=
  let t := (freeSpace (.sectors z ((o.stackOf page).getD 12)) s).setObj n fun o => o.setPage page fun p =>
    { p with fulled := none, expandWait := false, directSince := s.tick }
  if t.objs.any fun x => x.pageInfo.any fun p => p.2.expandWait then t else clearAlarm 0x005 0 t

variable {z : Nat} (fulled : (o.page page).fulled = some z)
include fulled

theorem expandPage_of_fulled (some_sectors : z ≠ 0) : expandPage n page s = pageDirect n page z o s := by
  have sectors : ((o.page page).fulled).getD 0 = z := by rw [fulled, Option.getD_some]
  unfold expandPage
  rw [here]
  dsimp only
  rw [sectors, if_neg some_sectors]
  rfl

theorem pageExpanded_of_write : pageExpanded n page true s =
    if 0 < s.t1Free then expandPage n page s else if (o.page page).expandWait then s
    else raiseAlarm 0x005 0 ((s.setObj n fun o => o.setPage page fun p => { p with expandWait := true }).setMem fun m =>
      { m with expansionWait := satAdd m.expansionWait 1 }) := by
  unfold pageExpanded
  rw [here]
  dsimp only
  rw [if_neg (by simp [fulled])]

end

theorem expansionDone_of_obj {s : State} {n page : Nat} {o : Obj} (here : s.obj n = some o) :
    expansionDone n page s = if (o.page page).expandWait && decide (0 < s.t1Free) then expandPage n page s else s := by
  rw [expansionDone, here]

/-- Settles O43: each event of the page mover is its operation, whose cases are those of its definition. -/
theorem pageEvents : Obligations.PageEvents := by
  intro s n page o up here
  refine ⟨fun m j bad before migrates job left still slice => ?migrate, fun bad c j e i k before unmoved plan => ?plan, fun bad tail => ?tail,
    fun before fulls first slice => ⟨fun small => ?fulled, fun large => ?skipped⟩, fun kept => ?kept, fun bs => fulledSize_of_zeros, ?read, fun direct => ?direct,
    fun z fulled some_sectors => ⟨fun room => ?expands, fun room waits => ?waited, fun none_free first => ?waits, fun none_free => ?stillWaits⟩,
    fun id => exec_keepHoldExpiry up id⟩
  case migrate => exact next_leaves_of_eq (exec_pageCopy up n page bad) (pageCopied_of_migration here before migrates job left still slice bad)
  case plan => exact next_leaves_of_eq (exec_pageCopy up n page bad) (pageCopied_of_plan here before unmoved plan bad)
  case tail => exact next_leaves_of_eq (exec_pageCopy up n page bad) (pageCopied_of_tail tail n page bad)
  case fulled => exact next_leaves_of_eq (exec_pageFull up n page) ((pageFulled_of_due here before fulls first slice).trans (if_pos small))
  case skipped =>
    exact next_leaves_of_eq (exec_pageFull up n page) ((pageFulled_of_due here before fulls first slice).trans (if_neg (Nat.not_le.mpr large)))
  case kept => exact next_leaves_of_eq (exec_pageFull up n page) (pageFulled_of_kept here kept)
  case read => exact next_leaves_of_eq (exec_pageExpansion up n page false) (pageExpanded_of_direct here (.inl rfl))
  case direct => exact next_leaves_of_eq (exec_pageExpansion up n page true) (pageExpanded_of_direct here (.inr direct))
  case expands =>
    refine next_leaves_of_eq (exec_pageExpansion up n page true) ?_
    rw [pageExpanded_of_write here fulled, if_pos room]
    exact expandPage_of_fulled here fulled some_sectors
  case waited =>
    refine next_leaves_of_eq (exec_expansionWait up n page) ?_
    rw [expansionDone_of_obj here, waits, decide_eq_true room, Bool.and_self, if_pos rfl]
    exact expandPage_of_fulled here fulled some_sectors
  case waits =>
    refine next_leaves_of_eq (exec_pageExpansion up n page true) ?_
    rw [pageExpanded_of_write here fulled, none_free, if_neg (Nat.lt_irrefl 0), first, if_neg Bool.false_ne_true]
  case stillWaits =>
    refine next_leaves_of_eq (exec_expansionWait up n page) ?_
    rw [expansionDone_of_obj here, none_free, decide_eq_false (Nat.lt_irrefl 0), Bool.and_false, if_neg Bool.false_ne_true]

end Sys2Proof.Proofs

namespace Sys2Proof.Proofs

/-! The management bus: the SPDM responder and MCTP control (R367, R368, R380; layouts as log entries 23 and 24 choose them). -/

open Sys2Proof Sys2Proof.Machine Sys2Proof.Laws

/-! ## Where a request stands: its transport, its code, its place in the exchange -/

section
variable {s : State} {via : Nat} {msg : Bytes} {code : Nat}

theorem spdmAs_named {f : State → State} (named : fld msg 1 1 = code) : spdmAs code via msg f s = f s := if_pos named

/-- Over a transport that is down no request is answered, whatever its code. -/
theorem spdmAs_of_down {f : State → State} (down : s.spdmUp via = false) (still : f s = s) : spdmAs code via msg f s = s := by
  by_cases named : fld msg 1 1 = code
  · rw [spdmAs_named named, still]
  · exact (if_neg named).trans (if_neg (by simp [down]))

theorem spdmError_eq_send (c d : Nat) : spdmError via c d s = sendMessage via 5 ([0x12, 0x7F, c, d].flatMap (leBytes 1)) s := by
  simp [spdmError, spdmAnswer, List.flatMap_cons]

theorem spdmUnsupported_eq_send : spdmUnsupported via msg s = sendMessage via 5 ([0x12, 0x7F, 7, fld msg 1 1].flatMap (leBytes 1)) s := spdmError_eq_send ..

/-- A request that the row does not name is answered UnsupportedRequest. -/
theorem spdmAs_other {f : State → State} (live : s.spdmUp via = true) (other : fld msg 1 1 ≠ code) :
    spdmAs code via msg f s = sendMessage via 5 ([0x12, 0x7F, 7, fld msg 1 1].flatMap (leBytes 1)) s :=
  (if_neg other).trans ((if_pos live).trans spdmUnsupported_eq_send)

theorem spdmAfter_of_down {n : Nat} {f : Spdm → State → State} (down : s.spdmUp via = false) : spdmAfter via n f s = s := if_pos (by simp [down])

/-- A request out of its order is answered UnexpectedRequest. -/
theorem spdmAfter_of_early {n : Nat} {f : Spdm → State → State} (live : s.spdmUp via = true) (early : (s.spdmAt via).stage < n) :
    spdmAfter via n f s = sendMessage via 5 ([0x12, 0x7F, 4, 0].flatMap (leBytes 1)) s :=
  (if_neg (by simp [live])).trans ((if_pos early).trans (spdmError_eq_send ..))

theorem spdmAfter_of_settled {n : Nat} {f : Spdm → State → State} (live : s.spdmUp via = true) (settled : n ≤ (s.spdmAt via).stage) :
    spdmAfter via n f s = f (s.spdmAt via) s :=
  (if_neg (by simp [live])).trans (if_neg (Nat.not_lt.mpr settled))

theorem spdmVersion_of_down (down : s.spdmUp via = false) : spdmVersion via msg s = s := if_pos (by simp [down])

theorem spdmVersion_of_live (live : s.spdmUp via = true) :
    spdmVersion via msg s = spdmAnswer via ([0x10, 0x04, 0, 0, 0, 1, 0, 0x12].flatMap (leBytes 1))
      (setSpdm { via := via, stage := 1, vca := msg ++ [0x10, 0x04, 0, 0, 0, 1, 0, 0x12].flatMap (leBytes 1) } s) := if_neg (by simp [live])

end

/-! ## The seven requests -/

section
variable {s : State} (served : s.mgmtUp = true) (via : Nat) (msg : Bytes)
include served

theorem exec_getVersion : exec (.getVersion via msg) s = .next (leaves s (spdmAs 0x84 via msg (spdmVersion via msg) s)) := act_served _ s served

theorem exec_getCapabilities : exec (.getCapabilities via msg) s = .next (leaves s (spdmAs 0xE1 via msg (spdmCapabilities via msg) s)) :=
  act_served _ s served

theorem exec_negotiateAlgorithms : exec (.negotiateAlgorithms via msg) s = .next (leaves s (spdmAs 0xE3 via msg (spdmAlgorithms via msg) s)) :=
  act_served _ s served

theorem exec_getDigests : exec (.getDigests via msg) s = .next (leaves s (spdmAs 0x81 via msg (spdmDigests via msg) s)) := act_served _ s served

theorem exec_getCertificate : exec (.getCertificate via msg) s = .next (leaves s (spdmAs 0x82 via msg (spdmCertificate via msg) s)) :=
  act_served _ s served

theorem exec_challenge : exec (.challenge via msg) s = .next (leaves s (spdmAs 0x83 via msg (spdmChallenge via msg) s)) := act_served _ s served

theorem exec_getMeasurements : exec (.getMeasurements via msg) s = .next (leaves s (spdmAs 0xE0 via msg (spdmMeasurements via msg) s)) :=
  act_served _ s served

theorem exec_mctpControl : exec (.mctpControl via msg) s = .next (leaves s (mctpControlled via msg s)) := act_served _ s served

end

section
variable {s : State} {via : Nat} {msg : Bytes} (live : s.spdmUp via = true) (settled : 3 ≤ (s.spdmAt via).stage)
include live settled

/-- GET_CERTIFICATE of a slot that is not populated, or of an offset behind the chain, is answered InvalidRequest. -/
theorem spdmCertificate_of_missing (missing : fld msg 2 1 % 16 ≠ 0 ∨ s.mgmt.chain.length ≤ fld msg 4 2) :
    spdmCertificate via msg s = sendMessage via 5 ([0x12, 0x7F, 1, 0].flatMap (leBytes 1)) s :=
  (spdmAfter_of_settled live settled).trans ((if_pos missing).trans (spdmError_eq_send ..))

theorem spdmCertificate_of_held (slot : fld msg 2 1 % 16 = 0) (inside : fld msg 4 2 < s.mgmt.chain.length) :
    let n := min (fld msg 6 2) (s.mgmt.chain.length - fld msg 4 2)
    let r := leBytes 1 0x12 ++ leBytes 1 2 ++ zeros 2 ++ leBytes 2 n ++ leBytes 2 (s.mgmt.chain.length - fld msg 4 2 - n) ++ slice s.mgmt.chain (fld msg 4 2) n
    spdmCertificate via msg s = spdmAnswer via r (setSpdm { s.spdmAt via with certs := (s.spdmAt via).certs ++ msg ++ r } s) :=
  (spdmAfter_of_settled live settled).trans (if_neg (by omega))

theorem spdmChallenge_of_slot (slot : fld msg 2 1 ≠ 0) :
    spdmChallenge via msg s = sendMessage via 5 ([0x12, 0x7F, 1, 0].flatMap (leBytes 1)) s :=
  (spdmAfter_of_settled live settled).trans ((if_pos slot).trans (spdmError_eq_send ..))

theorem spdmChallenge_of_unserved (slot : fld msg 2 1 = 0) (asked : fld msg 3 1 ≠ 0) (partly : fld msg 3 1 ≠ 0xFF) :
    spdmChallenge via msg s = sendMessage via 5 ([0x12, 0x7F, 7, fld msg 1 1].flatMap (leBytes 1)) s :=
  (spdmAfter_of_settled live settled).trans
    ((if_neg (fun other => other slot)).trans ((if_pos ⟨asked, partly⟩).trans spdmUnsupported_eq_send))

/-- CHALLENGE with no summary, or with the full one: `summary` is what the answer carries of it. -/
theorem spdmChallenge_of_served {summary : Bytes} (slot : fld msg 2 1 = 0)
    (kind : fld msg 3 1 = 0 ∧ summary = [] ∨ fld msg 3 1 = 0xFF ∧ summary = sha384 (spdmBlocks s)) :
    let body := leBytes 1 0x12 ++ leBytes 1 3 ++ leBytes 1 0 ++ leBytes 1 1 ++ sha384 s.mgmt.chain ++ spdmNonce s ++ summary ++ zeros 2
    spdmChallenge via msg s = spdmAnswer via (body ++ spdmSign ((s.spdmAt via).vca ++ (s.spdmAt via).certs ++ msg ++ body) s)
      (setSpdm { s.spdmAt via with certs := [] } { s with free := s.free + 1 }) := by
  refine (spdmAfter_of_settled live settled).trans ((if_neg (fun other => other slot)).trans ?_)
  rcases kind with ⟨without, rfl⟩ | ⟨full, rfl⟩
  · simp [without]
  · simp [full]

theorem spdmMeasurements_of_missing (missing : 6 < fld msg 3 1) (notAll : fld msg 3 1 ≠ 0xFF) :
    spdmMeasurements via msg s = sendMessage via 5 ([0x12, 0x7F, 1, 0].flatMap (leBytes 1)) s :=
  (spdmAfter_of_settled live settled).trans ((if_pos ⟨missing, notAll⟩).trans (spdmError_eq_send ..))

end

/-- The body of GET_MEASUREMENTS's answer: the count of measurements asked for, the blocks and their record, the nonce. -/
def measurementsBody (total blocks : Nat) (record : Bytes) (s : State) : Bytes :=
  leBytes 1 0x12 ++ leBytes 1 0x60 ++ leBytes 1 total ++ zeros 1 ++ leBytes 1 blocks ++ leBytes 3 record.length ++ record ++ spdmNonce s ++ zeros 2

/-- What GET_MEASUREMENTS does once its body stands: the answer is signed and the transcript begins anew, or is kept for a signature to come. -/
def measurementsAnswered (via : Nat) (msg body : Bytes) (signed : Bool) (s : State) : State :=
  let x := s.spdmAt via
  let t := { s with free := s.free + 1 }
  if signed then spdmAnswer via (body ++ spdmSign (x.vca ++ x.meas ++ msg ++ body) t) (setSpdm { x with meas := [] } t)
  else spdmAnswer via body (setSpdm { x with meas := x.meas ++ msg ++ body } t)

section
variable {s : State} {via : Nat} {msg : Bytes} (live : s.spdmUp via = true) (settled : 3 ≤ (s.spdmAt via).stage)
include live settled

theorem spdmMeasurements_of_count (op : fld msg 3 1 = 0) :
    spdmMeasurements via msg s = measurementsAnswered via msg (measurementsBody 6 0 [] s) (bit (fld msg 2 1) 0) s := by
  refine (spdmAfter_of_settled live settled).trans ((if_neg (by omega)).trans ?_)
  simp only [op, if_true]
  rfl

theorem spdmMeasurements_of_all (op : fld msg 3 1 = 0xFF) :
    spdmMeasurements via msg s = measurementsAnswered via msg (measurementsBody 0 6 (spdmBlocks s) s) (bit (fld msg 2 1) 0) s := by
  refine (spdmAfter_of_settled live settled).trans ((if_neg (by omega)).trans ?_)
  simp only [op, if_true, if_neg (show ¬ 0xFF = 0 by decide)]
  rfl

theorem spdmMeasurements_of_one (asked : fld msg 3 1 ≠ 0) (held : fld msg 3 1 ≤ 6) :
    spdmMeasurements via msg s = measurementsAnswered via msg (measurementsBody 0 1 (spdmBlock s (fld msg 3 1)) s) (bit (fld msg 2 1) 0) s := by
  refine (spdmAfter_of_settled live settled).trans ((if_neg (by omega)).trans ?_)
  simp only [if_neg asked, if_neg (show fld msg 3 1 ≠ 0xFF by omega)]
  rfl

end

/-! ## MCTP control (R368) -/

/-- The head of an MCTP control answer. -/
def mctpHead (msg : Bytes) (cc : Nat) : Bytes := leBytes 1 0 ++ leBytes 1 (fld msg 1 1 % 32) ++ leBytes 1 (fld msg 2 1) ++ leBytes 1 cc

theorem mctpControlled_of_answer {msg : Bytes} (answer : fld msg 1 1 / 128 = 0) (ep : Nat) (s : State) : mctpControlled ep msg s = s := if_pos answer

section
variable {msg : Bytes} (request : fld msg 1 1 / 128 = 1) (ep : Nat) (s : State)
include request

theorem mctpControlled_setEid (cmd : fld msg 2 1 = 1) (op : fld msg 3 1 % 4 ≤ 1) (low : 8 ≤ fld msg 4 1) (high : fld msg 4 1 < 255) :
    mctpControlled ep msg s = sendMessage ep 0 (mctpHead msg 0 ++ leBytes 1 0 ++ leBytes 1 (fld msg 4 1) ++ leBytes 1 0)
      (s.setMgmt fun m => { m with eid := fld msg 4 1 }) := by
  simp [mctpControlled, request, cmd, op, low, high, mctpHead]

theorem mctpControlled_setEid_refused (cmd : fld msg 2 1 = 1) (wrong : 1 < fld msg 3 1 % 4 ∨ fld msg 4 1 < 8 ∨ 255 ≤ fld msg 4 1) :
    mctpControlled ep msg s = sendMessage ep 0 (mctpHead msg 2) s := by
  have no : ¬ ((fld msg 3 1 % 4 ≤ 1 ∧ 8 ≤ fld msg 4 1) ∧ fld msg 4 1 < 255) := by omega
  simp [mctpControlled, request, cmd, no, mctpHead]

theorem mctpControlled_getEid (cmd : fld msg 2 1 = 2) :
    mctpControlled ep msg s = sendMessage ep 0 (mctpHead msg 0 ++ leBytes 1 s.mgmt.eid ++ leBytes 1 0 ++ leBytes 1 0) s := by
  simp [mctpControlled, request, cmd, mctpHead]

theorem mctpControlled_getVersions (cmd : fld msg 2 1 = 4) :
    mctpControlled ep msg s = sendMessage ep 0 (mctpHead msg 0 ++ leBytes 1 1 ++ leBytes 4 0x00F3F1F1) s := by
  simp [mctpControlled, request, cmd, mctpHead]

theorem mctpControlled_getTypes (cmd : fld msg 2 1 = 5) :
    mctpControlled ep msg s = sendMessage ep 0 (mctpHead msg 0 ++ leBytes 1 3 ++ leBytes 1 0 ++ leBytes 1 5 ++ leBytes 1 0x7E) s := by
  simp [mctpControlled, request, cmd, mctpHead]

theorem mctpControlled_unsupported (cmd : fld msg 2 1 = 0 ∨ fld msg 2 1 = 3 ∨ 6 ≤ fld msg 2 1) :
    mctpControlled ep msg s = sendMessage ep 0 (mctpHead msg 5) s := by
  unfold mctpControlled
  rw [if_neg (by omega)]
  dsimp only
  split
  case h_1 | h_2 | h_3 | h_4 => omega
  case h_5 => rfl

end

/-! ## O56 -/

/-- While DOE's link is down no request of the responder is answered. -/
theorem spdm_unanswered_of_down {s : State} (served : s.mgmtUp = true) {via : Nat} (msg : Bytes) (down : s.spdmUp via = false) :
    exec (.getVersion via msg) s = .next (leaves s s) ∧ exec (.getCapabilities via msg) s = .next (leaves s s)
    ∧ exec (.negotiateAlgorithms via msg) s = .next (leaves s s) ∧ exec (.getDigests via msg) s = .next (leaves s s)
    ∧ exec (.getCertificate via msg) s = .next (leaves s s) ∧ exec (.challenge via msg) s = .next (leaves s s)
    ∧ exec (.getMeasurements via msg) s = .next (leaves s s) :=
  ⟨next_leaves_of_eq (exec_getVersion served via msg) (spdmAs_of_down down (spdmVersion_of_down down)),
   next_leaves_of_eq (exec_getCapabilities served via msg) (spdmAs_of_down down (spdmAfter_of_down down)),
   next_leaves_of_eq (exec_negotiateAlgorithms served via msg) (spdmAs_of_down down (spdmAfter_of_down down)),
   next_leaves_of_eq (exec_getDigests served via msg) (spdmAs_of_down down (spdmAfter_of_down down)),
   next_leaves_of_eq (exec_getCertificate served via msg) (spdmAs_of_down down (spdmAfter_of_down down)),
   next_leaves_of_eq (exec_challenge served via msg) (spdmAs_of_down down (spdmAfter_of_down down)),
   next_leaves_of_eq (exec_getMeasurements served via msg) (spdmAs_of_down down (spdmAfter_of_down down))⟩

/-- Settles O56: a row runs its request where the message names it, and each request has a lemma per way it is answered. -/
theorem busAnswers : Obligations.BusAnswers := by
  unfold Obligations.BusAnswers
  intro s via msg served send x early block
  have version := exec_getVersion served via msg
  have capabilities := exec_getCapabilities served via msg
  have algorithms := exec_negotiateAlgorithms served via msg
  have digests := exec_getDigests served via msg
  have certificate := exec_getCertificate served via msg
  have challenge := exec_challenge served via msg
  have measured := exec_getMeasurements served via msg
  have control := exec_mctpControl served via msg
  refine ⟨spdm_unanswered_of_down served msg, fun live => ⟨?_, ?_, ?_, ?_, ?_, ?_, ?_, ?_, ?_, ?_, ?_, ?_, ?_, ?_, ?_, ?_, ?_, ?_⟩,
    fun request => ⟨?_, ?_, ?_, ?_, ?_, ?_⟩, fun answer => next_leaves_of_eq control (mctpControlled_of_answer answer via s)⟩
  · exact fun named => next_leaves_of_eq version ((spdmAs_named named).trans (spdmVersion_of_live live))
  · exact fun other => next_leaves_of_eq version (spdmAs_other live other)
  · exact fun named settled => next_leaves_of_eq capabilities ((spdmAs_named named).trans (spdmAfter_of_settled live settled))
  · exact fun named soon => next_leaves_of_eq capabilities ((spdmAs_named named).trans (spdmAfter_of_early live soon))
  · exact fun named settled => next_leaves_of_eq algorithms ((spdmAs_named named).trans (spdmAfter_of_settled live settled))
  · exact fun named settled => next_leaves_of_eq digests ((spdmAs_named named).trans (spdmAfter_of_settled live settled))
  · exact fun named settled slot inside => next_leaves_of_eq certificate ((spdmAs_named named).trans (spdmCertificate_of_held live settled slot inside))
  · intro named settled slot kind body
    have summarised := spdmChallenge_of_served live settled slot (.inl ⟨kind, rfl⟩)
    rw [List.append_nil] at summarised
    exact next_leaves_of_eq challenge ((spdmAs_named named).trans summarised)
  · exact fun named settled slot kind => next_leaves_of_eq challenge
      ((spdmAs_named named).trans (spdmChallenge_of_served live settled slot (.inr ⟨kind, rfl⟩)))
  · exact fun named settled slot asked partly => next_leaves_of_eq challenge
      ((spdmAs_named named).trans (spdmChallenge_of_unserved live settled slot asked partly))
  · exact fun named settled slot => next_leaves_of_eq challenge ((spdmAs_named named).trans (spdmChallenge_of_slot live settled slot))
  · exact fun named settled missing => next_leaves_of_eq certificate ((spdmAs_named named).trans (spdmCertificate_of_missing live settled missing))
  · exact fun named soon => next_leaves_of_eq algorithms ((spdmAs_named named).trans (spdmAfter_of_early live soon))
  · exact fun soon =>
      ⟨fun named => next_leaves_of_eq digests ((spdmAs_named named).trans (spdmAfter_of_early live soon)),
       fun named => next_leaves_of_eq certificate ((spdmAs_named named).trans (spdmAfter_of_early live soon)),
       fun named => next_leaves_of_eq challenge ((spdmAs_named named).trans (spdmAfter_of_early live soon)),
       fun named => next_leaves_of_eq measured ((spdmAs_named named).trans (spdmAfter_of_early live soon))⟩
  · exact fun named settled missing notAll => next_leaves_of_eq measured
      ((spdmAs_named named).trans (spdmMeasurements_of_missing live settled missing notAll))
  · rintro op named settled rfl asked held
    by_cases all : fld msg 3 1 = 0xFF
    · have run := (spdmAs_named (via := via) named).trans (spdmMeasurements_of_all live settled all)
      simp only [if_pos all]
      exact ⟨fun unsigned => next_leaves_of_eq measured (run.trans (if_neg (by simp [unsigned]))),
        fun signed => next_leaves_of_eq measured (run.trans (if_pos signed))⟩
    · have run := (spdmAs_named (via := via) named).trans (spdmMeasurements_of_one live settled asked (held.resolve_right all))
      simp only [if_neg all]
      exact ⟨fun unsigned => next_leaves_of_eq measured (run.trans (if_neg (by simp [unsigned]))),
        fun signed => next_leaves_of_eq measured (run.trans (if_pos signed))⟩
  · intro named settled count unsigned
    have run := (spdmAs_named (via := via) named).trans (spdmMeasurements_of_count live settled count)
    exact next_leaves_of_eq measured (run.trans (if_neg (by simp [unsigned])))
  · intro named settled count signed
    have run := (spdmAs_named (via := via) named).trans (spdmMeasurements_of_count live settled count)
    exact next_leaves_of_eq measured (run.trans (if_pos signed))
  · exact fun cmd op low high => next_leaves_of_eq control (mctpControlled_setEid request via s cmd op low high)
  · exact fun cmd wrong => next_leaves_of_eq control (mctpControlled_setEid_refused request via s cmd wrong)
  · exact fun cmd => next_leaves_of_eq control (mctpControlled_getVersions request via s cmd)
  · exact fun cmd => next_leaves_of_eq control (mctpControlled_getTypes request via s cmd)
  · exact fun cmd => next_leaves_of_eq control (mctpControlled_unsupported request via s cmd)
  · exact fun cmd => next_leaves_of_eq control (mctpControlled_getEid request via s cmd)

end Sys2Proof.Proofs

namespace Sys2Proof.Proofs

/-! The start of a phase, and the events of its rings (R191, R199, R200, R209, R212, R213, R231, R270, R274, R276, R277). -/

open Sys2Proof Sys2Proof.Machine Sys2Proof.Laws

section
variable {s : State} (up : s.up = true)
include up

theorem exec_kernelPhaseStart (k : Nat) : exec (.kernelPhaseStart k) s = .next (leaves s (phaseStart k s)) := act_whenUp up (phaseStart k)

theorem exec_ringSlotArrival (k i gen : Nat) (err : Bool) :
    exec (.ringSlotArrival k i gen err) s = .next (leaves s (ringSlotArrived k i gen err s)) := act_whenUp up (ringSlotArrived k i gen err)

theorem exec_writeAck (k i : Nat) : exec (.writeAck k i) s = .next (leaves s (writeAcked k i s)) := act_whenUp up (writeAcked k i)

theorem exec_ringLate (k i : Nat) : exec (.ringLate k i) s = .next (leaves s (ringLate k i s)) := act_whenUp up (ringLate k i)

theorem exec_phaseDeclaredLate (id : Nat) : exec (.phaseDeclaredLate id) s = .next (leaves s (declaredLate id s)) := act_whenUp up (declaredLate id)

theorem exec_splitPartialArrival (home src tile : Nat) :
    exec (.splitPartialArrival home src tile) s = .next (leaves s (partialArrived home src tile s)) := act_whenUp up (partialArrived home src tile)

end

/-! ## The start of a phase -/

/-- The run of a phase that starts. -/
def startedRun (k : Nat) (w : PhaseWait) (kn : Kernel) (cmd : Cmd) (s : State) : PhaseRun :=
  { cmd := w.cmd, kernel := w.kernel, phase := w.phase, logical := kn.clusters.idxOf k, binds := runBinds cmd s
    rerun := (kPhase kn.image w.phase).rerun
    gen := genInit (if cmd.kernelSetting 1 = 0 then (Config.seed s.free).toNat else cmd.kernelSetting 1) k cmd.admitTick, since := s.frame.cycle }

/-- X register `i` at phase entry (R212). -/
def startX (k : Nat) (kn : Kernel) (cmd : Cmd) (i : Nat) : Word :=
  BitVec.ofNat 32 (if i = 14 then kn.clusters.idxOf k else if i = 15 then (kHead kn.image).clusters else if i < (kHead kn.image).args then runArgs cmd i else 0)

/-- A register `i` at phase entry (R212). -/
def startA (kn : Kernel) (binds : List (BindTo × Nat)) (i : Nat) : Option Nat × Nat :=
  if i < (kHead kn.image).bindings then (some i, ((binds[i]?).map Prod.snd).getD 0) else (none, 0)

/-- The cluster on which a phase starts. -/
def startedCluster (k : Nat) (w : PhaseWait) (rest : List PhaseWait) (kn : Kernel) (cmd : Cmd) (s : State) : Cluster :=
  let c := s.cluster k
  { queue := rest, run := some (startedRun k w kn cmd s), pc := (kPhase kn.image w.phase).entry
    x := (List.range 16).map (startX k kn cmd), a := (List.range 32).map (startA kn (runBinds cmd s))
    rings := c.rings.map fun g => { num := g.num, gen := g.gen }, owed := c.owed, owner := some kn.slot
    partials := c.partials, records := c.records, delivered := c.delivered }

section
variable {s : State} {k : Nat} {w : PhaseWait} {rest : List PhaseWait} {kn : Kernel} {cmd : Cmd}

theorem phaseStart_of_held (idle : (s.cluster k).run = none) (queue : (s.cluster k).queue = w :: rest)
    (held : s.frame.tail = true ∨ s.systemFirst k = true) : phaseStart k s = s := by
  unfold phaseStart
  dsimp only
  rw [idle, queue]
  exact if_pos (by simpa using held)

theorem phaseStart_of_free (idle : (s.cluster k).run = none) (queue : (s.cluster k).queue = w :: rest) (loaded : s.kernel w.kernel = some kn)
    (found : s.cmd w.cmd = some cmd) (head : s.frame.tail = false) (free : s.systemFirst k = false) :
    phaseStart k s = drive (({ s with free := s.free + 1 } : State).setCluster k fun _ => startedCluster k w rest kn cmd s) := by
  unfold phaseStart
  dsimp only
  rw [idle, queue]
  dsimp only
  rw [if_neg (by simp [head, free]), loaded, found]
  rfl

theorem startedCluster_x {i : Nat} (low : i < 16) : (startedCluster k w rest kn cmd s).x.getD i 0 = startX k kn cmd i := by
  simp [startedCluster, List.getD_eq_getElem?_getD, low]

theorem startedCluster_a {i : Nat} (low : i < 32) : (startedCluster k w rest kn cmd s).a.getD i (none, 0) = startA kn (runBinds cmd s) i := by
  simp [startedCluster, List.getD_eq_getElem?_getD, low]

/-- Below the kernel's arguments an X register holds the run's. -/
theorem startX_arg {i : Nat} (low : i < 14) (arg : i < (kHead kn.image).args) : startX k kn cmd i = BitVec.ofNat 32 (runArgs cmd i) := by
  simp [startX, arg, show i ≠ 14 by omega, show i ≠ 15 by omega]

theorem startX_above {i : Nat} (low : i < 14) (above : (kHead kn.image).args ≤ i) : startX k kn cmd i = 0 := by
  simp [startX, Nat.not_lt.mpr above, show i ≠ 14 by omega, show i ≠ 15 by omega]

end

/-! ## An input slot that arrives -/

/-- Does an error stand on one of a slot's pieces? -/
def slotPoisoned (r : Running) (g : Ring) (ps : List (Nat × Nat)) (s : State) : Bool :=
  match r.object g with
  | some o => ps.any fun p => s.poisoned o p.1 p.2
  | none => false

section
variable {r : Running} {k i : Nat} {err : Bool} {s : State}

theorem slotArrives_of_bad
    (bad : err = true ∨ slotPoisoned r (s.ring k i) (slotPieces (r.ring i) (s.ring k i) ((s.ring k i).head + (s.ring k i).slots.length)) s = true) :
    slotArrives r k i err s =
      (let g := s.ring k i
       let ps := slotPieces (r.ring i) g (g.head + g.slots.length)
       let t := match r.object g, ps.head? with
         | some o, some p => uncorrectable o p.1 p.2 s
         | _, _ => s
       endRun r.run.cmd 5 1 ((((r.object g).bind s.obj).map Obj.tier).getD 2) (event 1 "UNCORRECTABLE" r.cmd.q.access (r.stream k i) t)) :=
  if_pos (Bool.or_eq_true_iff.mpr bad)

theorem slotArrives_of_good (sound : err = false)
    (clean : slotPoisoned r (s.ring k i) (slotPieces (r.ring i) (s.ring k i) ((s.ring k i).head + (s.ring k i).slots.length)) s = false) :
    slotArrives r k i err s =
      (let g := s.ring k i
       let n := g.head + g.slots.length
       let d := r.ring i
       let ps := slotPieces d g n
       let rd := ps.map fun p => bindRead r (r.bind g.bind) p.1 p.2 s
       let stale := match (r.object g).bind s.obj with
         | some o => ((piecePages ps).filter fun p => ((assocGet p o.pageInfo).map Page.stale).getD false).length
         | none => 0
       let t := countChan r.chan 28 stale s
       let u := if rd.any Prod.snd then countChan r.chan 12 1 t else t
       drive (setRing k i (fun g => { g with slots := g.slots ++ [(n, rd.flatMap Prod.fst)], back := 0 }) (cacheSlot r d g n (countStall r k u i)))) :=
  if_neg (Bool.eq_false_iff.mp (Bool.or_eq_false_iff.mpr ⟨sound, clean⟩))

end

section
variable {s : State} {k i : Nat} {err : Bool}

theorem ringSlotArrived_of_old {gen : Nat} (old : gen < (s.ring k i).gen) {late : Bool} {t : State}
    (owed : owedResponse k i gen false s = some (late, t)) :
    ringSlotArrived k i gen err s = drive (if late then countChan ((s.cluster k).owner.getD 0) 25 1 t else t) := by
  unfold ringSlotArrived
  dsimp only
  rw [if_pos old, owed]

theorem ringSlotArrived_of_idle (idle : s.running k = none) : ringSlotArrived k i (s.ring k i).gen err s = s := by
  unfold ringSlotArrived
  dsimp only
  rw [if_neg (Nat.lt_irrefl _), idle]

variable {r : Running} (runs : s.running k = some r)
include runs

/-- A response of a stream to come, of an output ring, or of a page that a plan has yet to place, is dropped. -/
theorem ringSlotArrived_of_dropped {gen : Nat} (notOld : ¬ gen < (s.ring k i).gen)
    (dropped : gen ≠ (s.ring k i).gen ∨ (r.ring i).output = true
      ∨ slotUnplaced r (r.ring i) (s.ring k i) ((s.ring k i).head + (s.ring k i).slots.length) s = true) : ringSlotArrived k i gen err s = s := by
  unfold ringSlotArrived
  dsimp only
  rw [if_neg notOld, runs]
  exact if_pos dropped

variable (input : (r.ring i).output = false)
  (placed : slotUnplaced r (r.ring i) (s.ring k i) ((s.ring k i).head + (s.ring k i).slots.length) s = false)
include input placed

/-- The response that a ring expects: its slot arrives, or goes on with the tags that came back, or nothing was outstanding. -/
theorem ringSlotArrived_of_expected :
    ringSlotArrived k i (s.ring k i).gen err s =
      (let n := (s.ring k i).head + (s.ring k i).slots.length
       if n < (s.ring k i).issued then slotArrives r k i err s
       else if (s.ring k i).back < (s.ring k i).granted then
         let t := regrant r k i (slotTags (r.ring i) (s.ring k i) n) s
         if n < (t.ring k i).issued then slotArrives r k i err t else t
       else s) := by
  unfold ringSlotArrived
  dsimp only
  rw [if_neg (Nat.lt_irrefl _), runs]
  exact if_neg (by simp [input, placed])

theorem ringSlotArrived_of_issued (issued : (s.ring k i).head + (s.ring k i).slots.length < (s.ring k i).issued) :
    ringSlotArrived k i (s.ring k i).gen err s = slotArrives r k i err s :=
  (ringSlotArrived_of_expected runs input placed).trans (if_pos issued)

theorem ringSlotArrived_of_regrant (partly : (s.ring k i).issued ≤ (s.ring k i).head + (s.ring k i).slots.length)
    (granted : (s.ring k i).back < (s.ring k i).granted) :
    ringSlotArrived k i (s.ring k i).gen err s =
      (let n := (s.ring k i).head + (s.ring k i).slots.length
       let t := regrant r k i (slotTags (r.ring i) (s.ring k i) n) s
       if n < (t.ring k i).issued then slotArrives r k i err t else t) :=
  (ringSlotArrived_of_expected runs input placed).trans ((if_neg (Nat.not_lt.mpr partly)).trans (if_pos granted))

end

/-- A response is dropped where no slot is outstanding and no transfer either. -/
theorem ringSlotArrived_of_none_due {s : State} {k i : Nat} {err : Bool} {r : Running} (runs : s.running k = some r)
    (partly : (s.ring k i).issued ≤ (s.ring k i).head + (s.ring k i).slots.length) (back : (s.ring k i).granted ≤ (s.ring k i).back) :
    ringSlotArrived k i (s.ring k i).gen err s = s := by
  by_cases dropped : (r.ring i).output = true ∨ slotUnplaced r (r.ring i) (s.ring k i) ((s.ring k i).head + (s.ring k i).slots.length) s = true
  · exact ringSlotArrived_of_dropped runs (Nat.lt_irrefl _) (.inr dropped)
  · obtain ⟨input, placed⟩ := not_or.mp dropped
    exact (ringSlotArrived_of_expected runs (Bool.eq_false_iff.mpr input) (Bool.eq_false_iff.mpr placed)).trans
      ((if_neg (Nat.not_lt.mpr partly)).trans (if_neg (Nat.not_lt.mpr back)))

/-! ## A write that is acknowledged -/

/-- Does the oldest unacknowledged slot of an output ring wait for an expansion page (R295)? -/
def ackWaits (r : Running) (d : RingDesc) (g : Ring) (s : State) : Bool :=
  match r.object g with
  | some o => (pieces d g (d.slotBytes / 16 + 2) (g.acked * d.slotBytes) (slotSize d g.acked)).any fun p => s.expanding o p.1 p.2
  | none => false

section
variable {s : State} {k i : Nat}

theorem writeAcked_adds : writeAcked k 16 s = drive (s.setCluster k fun c => { c with adds := c.adds - 1 }) := rfl

section
variable (ring : i ≠ 16)
include ring

theorem writeAcked_of_owed {late : Bool} {t : State} (owed : owedResponse k i 0 true s = some (late, t)) : writeAcked k i s = drive t := by
  unfold writeAcked
  rw [if_neg ring, owed]

variable (free : owedResponse k i 0 true s = none)
include free

theorem writeAcked_of_idle (idle : s.running k = none) : writeAcked k i s = s := by
  unfold writeAcked
  rw [if_neg ring, free]
  dsimp only
  rw [idle]

variable {r : Running} (runs : s.running k = some r)
include runs

theorem writeAcked_of_running :
    writeAcked k i s =
      (let g := s.ring k i
       if ackWaits r (r.ring i) g s then s
       else if g.acked < g.wrote then drive (setRing k i (fun g => { g with acked := g.acked + 1, back := 0 }) s)
       else if g.back < g.granted && (r.ring i).output then
         let t := regrant r k i (pieceTags (slotPieces (r.ring i) g g.wrote)) s
         drive (if g.wrote < (t.ring k i).wrote then setRing k i (fun g => { g with acked := g.acked + 1, back := 0 }) t else t)
       else s) := by
  unfold writeAcked
  rw [if_neg ring, free]
  dsimp only
  rw [runs]
  rfl

theorem writeAcked_of_waits (waits : ackWaits r (r.ring i) (s.ring k i) s = true) : writeAcked k i s = s :=
  (writeAcked_of_running ring free runs).trans (if_pos waits)

variable (clear : ackWaits r (r.ring i) (s.ring k i) s = false)
include clear

theorem writeAcked_of_written (written : (s.ring k i).acked < (s.ring k i).wrote) :
    writeAcked k i s = drive (setRing k i (fun g => { g with acked := g.acked + 1, back := 0 }) s) :=
  (writeAcked_of_running ring free runs).trans ((if_neg (Bool.eq_false_iff.mp clear)).trans (if_pos written))

variable (all : (s.ring k i).wrote ≤ (s.ring k i).acked)
include all

theorem writeAcked_of_none_due (done : (s.ring k i).granted ≤ (s.ring k i).back ∨ (r.ring i).output = false) : writeAcked k i s = s := by
  refine (writeAcked_of_running ring free runs).trans
    ((if_neg (Bool.eq_false_iff.mp clear)).trans ((if_neg (Nat.not_lt.mpr all)).trans (if_neg ?_)))
  rcases done with back | input
  · simp [Nat.not_lt.mpr back]
  · simp [input]

theorem writeAcked_of_regrant (granted : (s.ring k i).back < (s.ring k i).granted) (output : (r.ring i).output = true) :
    writeAcked k i s =
      (let g := s.ring k i
       let t := regrant r k i (pieceTags (slotPieces (r.ring i) g g.wrote)) s
       drive (if g.wrote < (t.ring k i).wrote then setRing k i (fun g => { g with acked := g.acked + 1, back := 0 }) t else t)) :=
  (writeAcked_of_running ring free runs).trans
    ((if_neg (Bool.eq_false_iff.mp clear)).trans ((if_neg (Nat.not_lt.mpr all)).trans (if_pos (by simp [granted, output]))))

end
end

/-! ## Late rings -/

section
variable {s : State} {k i : Nat}

theorem ringLate_of_idle (idle : s.running k = none) : ringLate k i s = s := by
  unfold ringLate
  rw [idle]

variable {r : Running} (runs : s.running k = some r)
include runs

theorem ringLate_of_intime (intime : lateSlot r k i s = none) : ringLate k i s = s := by
  unfold ringLate
  rw [runs]
  dsimp only
  rw [intime]

/-- The state in which a late ring's stream is named: the clock is at its due cycle at the least, and run and command keep the earliest late stream. -/
def streamNamed (r : Running) (k i slot : Nat) (s : State) : State :=
  (({ s with frame := { s.frame with cycle := max s.frame.cycle (r.due (s.ring k i) slot) } } : State).setCluster k fun c =>
    { c with run := c.run.map fun p => { p with late := some (p.late.getD (r.stream k i)) } }).setCmd
      r.cmd.id fun d => { d with lateStream := some (d.lateStream.getD (r.stream k i)) }

theorem ringLate_of_late {slot since : Nat} (late : lateSlot r k i s = some (slot, since)) :
    ringLate k i s =
      (let m := r.stream k i
       let due := r.due (s.ring k i) slot
       let t := streamNamed r k i slot s
       if r.run.named.contains m then t
       else logEvent 2 (Config.eventCode "STREAM_LATE" % 4096) r.cmd.q.access m (leBytes 8 slot ++ leBytes 8 due ++ leBytes 8 (max s.frame.cycle due - due))
         (countChan r.chan 23 1 (t.setCluster k fun c => { c with run := c.run.map fun p => { p with named := p.named ++ [m] } }))) := by
  unfold ringLate
  rw [runs]
  dsimp only
  rw [late]
  rfl

end

/-! ## A phase declared late -/

/-- The clock 8 µs past a slot's due cycle. -/
def lateClock (due : Nat) (s : State) : State := { s with frame := { s.frame with cycle := max s.frame.cycle (due + 16800) } }

/-- A run that ends with DEADLINE_MISS names the stream that was late. -/
def lateMiss (id : Nat) (c : Cmd) (s : State) : State := endRun id 4 3 (missDetail c.lateStream) s

/-- The stages of a run that falls back, with the fallback's in the tick given. -/
def putFallback (id : Nat) (f : Kernel) (tick : Nat) (s : State) : State :=
  s.setCmd id fun d => { d with
    stages := (d.stages.filter fun g => g.finished) ++ [{ kind := .phase 0, tick := tick, charge := phaseCharge f 0 }] ++ d.stages.filter fun g => g.kind == .walk
    fallback := some f.id }

/-- The fallback in this tick, or in a later one within the deadline, or not at all. -/
def placeFallback (id : Nat) (c : Cmd) (f : Kernel) (s : State) : State :=
  let need := phaseCharge f 0
  if !s.frame.tail && s.fitsTick s.tick need then queuePhase id f.id 0 (chargeNow need (putFallback id f s.tick s))
  else match findFrom (fun t => s.fitsTick t need) (c.admitTick + c.deadline - s.tick) (s.tick + 1) with
    | some t => putFallback id f t s
    | none => lateMiss id c s

/-- What ends a phase declared late under DEGRADE: its fallback where one is loaded and meets the run's interface, else a miss (R231). -/
def endsLate (id : Nat) (c : Cmd) (ch : Channel) (s : State) : (fallback late : Option Kernel) → State
  | some f, some kn => if !fallbackMeets kn.image f.image then lateMiss id c (countChan ch.slot 15 1 s) else placeFallback id c f (dropPhases id s)
  | _, _ => lateMiss id c s

section
variable {id : Nat} {c : Cmd} {f : Kernel} {s : State}

theorem placeFallback_now (now : (!s.frame.tail && s.fitsTick s.tick (phaseCharge f 0)) = true) :
    placeFallback id c f s = queuePhase id f.id 0 (chargeNow (phaseCharge f 0) (putFallback id f s.tick s)) := if_pos now

variable (notNow : (!s.frame.tail && s.fitsTick s.tick (phaseCharge f 0)) = false)
include notNow

theorem placeFallback_later {n : Nat}
    (later : findFrom (fun t => s.fitsTick t (phaseCharge f 0)) (c.admitTick + c.deadline - s.tick) (s.tick + 1) = some n) :
    placeFallback id c f s = putFallback id f n s := by
  unfold placeFallback
  dsimp only
  rw [if_neg (Bool.eq_false_iff.mp notNow), later]

theorem placeFallback_never
    (never : findFrom (fun t => s.fitsTick t (phaseCharge f 0)) (c.admitTick + c.deadline - s.tick) (s.tick + 1) = none) :
    placeFallback id c f s = lateMiss id c s := by
  unfold placeFallback
  dsimp only
  rw [if_neg (Bool.eq_false_iff.mp notNow), never]

end

section
variable {id : Nat} {s : State} {c : Cmd} {ch : Channel} {kn : Kernel} {p : PhaseRun} {due : Nat} (found : s.cmd id = some c)
  (chan : s.chan (handleSlot c.q.handle) = some ch) (late : (s.lateRuns id).head? = some (p, due))
include found chan late

theorem declaredLate_of_policy (policy : c.runSetting 0 ≠ 2) : declaredLate id s = s := by
  unfold declaredLate
  rw [found]
  dsimp only
  rw [chan, late]
  exact if_pos policy

variable (degrade : c.runSetting 0 = 2)
include degrade

theorem declaredLate_of_degrade :
    declaredLate id s = endsLate id c ch (lateClock due s) (if c.fallback.isSome then none else s.kernelOn (c.runSetting 1)) (s.kernel p.kernel) := by
  unfold declaredLate
  rw [found]
  dsimp only
  rw [chan, late]
  exact if_neg (fun other => other degrade)

theorem declaredLate_without_fallback (without : c.fallback ≠ none ∨ s.kernelOn (c.runSetting 1) = none) :
    declaredLate id s = lateMiss id c (lateClock due s) := by
  have nothing : (if c.fallback.isSome then none else s.kernelOn (c.runSetting 1)) = none := by
    rcases without with already | gone
    · exact if_pos (Option.isSome_iff_ne_none.mpr already)
    · rw [gone, ite_self]
  rw [declaredLate_of_degrade found chan late degrade, nothing]
  rfl

theorem declaredLate_of_fallback {f : Kernel} (first : c.fallback = none) (fallback : s.kernelOn (c.runSetting 1) = some f)
    (loaded : s.kernel p.kernel = some kn) :
    declaredLate id s = if !fallbackMeets kn.image f.image then lateMiss id c (countChan ch.slot 15 1 (lateClock due s))
      else placeFallback id c f (dropPhases id (lateClock due s)) := by
  rw [declaredLate_of_degrade found chan late degrade, if_neg (by simp [first]), fallback, loaded, endsLate]

end

/-! ## Split partials -/

section
variable {s : State} {home src tile : Nat}

theorem partialArrived_of_unknown (unknown : (s.cluster home).partials.find? (fun p => p.src == src && p.tile == tile && !p.arrived) = none) :
    partialArrived home src tile s = s := by
  rw [partialArrived, unknown]

theorem partialArrived_of_waiting {p : Partial}
    (waiting : (s.cluster home).partials.find? (fun p => p.src == src && p.tile == tile && !p.arrived) = some p) :
    partialArrived home src tile s = drive (s.setCluster home fun c => { c with partials := c.partials.erase p ++ [{ p with arrived := true }] }) := by
  rw [partialArrived, waiting]

end

/-! ## O42 -/

section
variable {s : State} (up : s.up = true)
include up

/-- A queued phase that starts: the cluster's program counter, registers, rings and units are as at phase entry. -/
theorem kernelPhaseStart_runs {k : Nat} {w : PhaseWait} {rest : List PhaseWait} {kn : Kernel} {cmd : Cmd} (idle : (s.cluster k).run = none)
    (queue : (s.cluster k).queue = w :: rest) (loaded : s.kernel w.kernel = some kn) (found : s.cmd w.cmd = some cmd)
    (head : s.frame.tail = false) (free : s.systemFirst k = false) :
    exec (.kernelPhaseStart k) s
      = .next (leaves s (drive (({ s with free := s.free + 1 } : State).setCluster k fun _ => startedCluster k w rest kn cmd s))) :=
  next_leaves_of_eq (exec_kernelPhaseStart up k) (phaseStart_of_free idle queue loaded found head free)

variable (k i : Nat)

/-- What an expected response does to an input ring of a running phase. -/
theorem ringSlotArrival_of_input {r : Running} (runs : s.running k = some r) (err : Bool) (input : (r.ring i).output = false)
    (placed : slotUnplaced r (r.ring i) (s.ring k i) ((s.ring k i).head + (s.ring k i).slots.length) s = false)
    (issued : (s.ring k i).head + (s.ring k i).slots.length < (s.ring k i).issued) :
    exec (.ringSlotArrival k i (s.ring k i).gen err) s = .next (leaves s (slotArrives r k i err s)) :=
  next_leaves_of_eq (exec_ringSlotArrival up ..) (ringSlotArrived_of_issued runs input placed issued)

end

/-- Settles O42: the start of a phase, each event of a ring, a late ring, a phase declared late and a split partial have a lemma per case. -/
theorem kernelPhases : Obligations.KernelPhases := by
  unfold Obligations.KernelPhases
  refine ⟨fun s k w rest kn cmd up idle queue loaded found => ⟨fun held => ?_, fun head free => ?_⟩, fun s k i up => ⟨?_, ?_, ?_, ?_, ?_⟩,
    fun s k i up => ⟨?_, ?_, ?_, ?_, ?_⟩⟩
  · exact next_leaves_of_eq (exec_kernelPhaseStart up k) (phaseStart_of_held idle queue held)
  · refine ⟨startedCluster k w rest kn cmd s, kernelPhaseStart_runs up idle queue loaded found head free, rfl, rfl, rfl, rfl, rfl, rfl, rfl, rfl, rfl, rfl, rfl,
      rfl, ?_, ?_, startedCluster_x (by decide), startedCluster_x (by decide), ?_, ?_, ?_, startedRun k w kn cmd s, rfl, rfl, rfl, rfl, rfl, rfl⟩
    · simp [startedCluster]
    · simp [startedCluster]
    · exact fun i low arg => (startedCluster_x (by omega)).trans (startX_arg low arg)
    · exact fun i low above => (startedCluster_x (by omega)).trans (startX_above low above)
    · exact fun i low bound => (startedCluster_a low).trans (if_pos bound)
  · exact fun gen err late t old owed => next_leaves_of_eq (exec_ringSlotArrival up ..) (ringSlotArrived_of_old old owed)
  · exact fun late t ring owed => next_leaves_of_eq (exec_writeAck up k i) (writeAcked_of_owed ring owed)
  · exact next_leaves_of_eq (exec_writeAck up k 16) writeAcked_adds
  · intro r runs
    refine ⟨fun err input placed issued => ⟨fun sound clean => ?_, fun bad => ?_⟩, ?_, fun err input placed partly granted => ?_, fun ring free => ⟨?_, ?_, ?_, ?_⟩⟩
    · exact next_leaves_of_eq (ringSlotArrival_of_input up k i runs err input placed issued) (slotArrives_of_good sound clean)
    · exact next_leaves_of_eq (ringSlotArrival_of_input up k i runs err input placed issued) (slotArrives_of_bad bad)
    · rintro gen err (later | ⟨rfl, output | unplaced | ⟨partly, back⟩⟩)
      · exact next_leaves_of_eq (exec_ringSlotArrival up ..) (ringSlotArrived_of_dropped runs (by omega) (.inl (by omega)))
      · exact next_leaves_of_eq (exec_ringSlotArrival up ..) (ringSlotArrived_of_dropped runs (Nat.lt_irrefl _) (.inr (.inl output)))
      · exact next_leaves_of_eq (exec_ringSlotArrival up ..) (ringSlotArrived_of_dropped runs (Nat.lt_irrefl _) (.inr (.inr unplaced)))
      · exact next_leaves_of_eq (exec_ringSlotArrival up ..) (ringSlotArrived_of_none_due runs partly back)
    · have run := ringSlotArrived_of_regrant (err := err) runs input placed partly granted
      exact ⟨fun whole => next_leaves_of_eq (exec_ringSlotArrival up ..) (run.trans (if_pos whole)),
        fun part => next_leaves_of_eq (exec_ringSlotArrival up ..) (run.trans (if_neg (Nat.not_lt.mpr part)))⟩
    · exact fun waits => next_leaves_of_eq (exec_writeAck up k i) (writeAcked_of_waits ring free runs waits)
    · exact fun clear written => next_leaves_of_eq (exec_writeAck up k i) (writeAcked_of_written ring free runs clear written)
    · exact fun clear all done => next_leaves_of_eq (exec_writeAck up k i) (writeAcked_of_none_due ring free runs clear all done)
    · intro clear all granted output
      have run := writeAcked_of_regrant ring free runs clear all granted output
      exact ⟨fun whole => next_leaves_of_eq (exec_writeAck up k i) (run.trans (congrArg drive (if_pos whole))),
        fun part => next_leaves_of_eq (exec_writeAck up k i) (run.trans (congrArg drive (if_neg (Nat.not_lt.mpr part))))⟩
  · exact fun idle => ⟨fun err => next_leaves_of_eq (exec_ringSlotArrival up ..) (ringSlotArrived_of_idle idle),
      fun ring free => next_leaves_of_eq (exec_writeAck up k i) (writeAcked_of_idle ring free idle)⟩
  · exact fun idle => next_leaves_of_eq (exec_ringLate up k i) (ringLate_of_idle idle)
  · refine fun r runs => ⟨fun intime => next_leaves_of_eq (exec_ringLate up k i) (ringLate_of_intime runs intime), fun slot since late => ?_⟩
    have run := ringLate_of_late runs late
    exact ⟨fun known => next_leaves_of_eq (exec_ringLate up k i) (run.trans (if_pos known)),
      fun new => next_leaves_of_eq (exec_ringLate up k i) (run.trans (if_neg (Bool.eq_false_iff.mp new)))⟩
  · intro id c ch kn p due found chan late loaded
    refine ⟨fun policy => ?_, fun degrade without => ?_, fun f degrade first fallback => ?_⟩
    · exact next_leaves_of_eq (exec_phaseDeclaredLate up id) (declaredLate_of_policy found chan late policy)
    · exact next_leaves_of_eq (exec_phaseDeclaredLate up id) (declaredLate_without_fallback found chan late degrade without)
    · have run := declaredLate_of_fallback found chan late degrade first fallback loaded
      refine ⟨fun unmet => ?_, fun meets => ?_⟩
      · exact next_leaves_of_eq (exec_phaseDeclaredLate up id) (run.trans (if_pos (by simp [unmet])))
      · have placed := run.trans (if_neg (by simp [meets]))
        exact ⟨fun now => next_leaves_of_eq (exec_phaseDeclaredLate up id) (placed.trans (placeFallback_now now)),
          fun n notNow later => next_leaves_of_eq (exec_phaseDeclaredLate up id) (placed.trans (placeFallback_later notNow later)),
          fun notNow never => next_leaves_of_eq (exec_phaseDeclaredLate up id) (placed.trans (placeFallback_never notNow never))⟩
  · exact fun src tile unknown => next_leaves_of_eq (exec_splitPartialArrival up k src tile) (partialArrived_of_unknown unknown)
  · exact fun src tile p waiting => next_leaves_of_eq (exec_splitPartialArrival up k src tile) (partialArrived_of_waiting waiting)

end Sys2Proof.Proofs
